-- ==== Sys2Proof/Word.lean ====
section
/-!
DEFINITION. Widths and the plainest arithmetic on lanes and words (R16, R62, R63).
-/
namespace Sys2Proof

/-- One byte of memory. -/
abbrev Byte := BitVec 8
/-- One lane of a vector register, 32 bits (R128). -/
abbrev Word := BitVec 32
/-- A register pair in one lane, or a virtual address (R62, R87). -/
abbrev DWord := BitVec 64
/-- A set of lanes of one gang: bit ℓ stands for lane ℓ (R16: 32 lanes). -/
abbrev Lanes := BitVec 32
/-- The 96-bit instruction word (R146). -/
abbrev InstrWord := BitVec 96

/-- The lane numbers of a gang, ascending (R16). -/
def laneIds : List Nat := List.range 32

/-- Lane ℓ is in the set. -/
def Lanes.has (m : Lanes) (l : Nat) : Bool := m.getLsbD l

/-- The set of the lanes for which `f` holds. -/
def Lanes.of (f : Nat → Bool) : Lanes :=
  laneIds.foldl (fun acc l => if f l then acc ||| (1#32 <<< l) else acc) 0#32

/-- The lanes of a set, ascending. -/
def Lanes.toList (m : Lanes) : List Nat := laneIds.filter (fun l => m.getLsbD l)

/-- The lowest lane of a set (lane L of R254). -/
def Lanes.lowest (m : Lanes) : Option Nat := (Lanes.toList m).head?

/-- The number of lanes in a set. -/
def Lanes.count (m : Lanes) : Nat := (Lanes.toList m).length

/-- The values of all 32 lanes of one register, lane ℓ at index ℓ. -/
abbrev LaneVec := List Word

/-- The lane vector whose lane ℓ holds `f ℓ`. -/
def LaneVec.of (f : Nat → Word) : LaneVec := laneIds.map f

/-- Lane ℓ of a lane vector. -/
def LaneVec.lane (v : LaneVec) (l : Nat) : Word := v.getD l 0#32

/-- Every lane but those of `m` keeps its value of `old`; the lanes of `m` take `new` (R135). -/
def LaneVec.merge (m : Lanes) (new old : LaneVec) : LaneVec :=
  LaneVec.of fun l => if m.getLsbD l then LaneVec.lane new l else LaneVec.lane old l

/-- Bits `hi:lo` of a natural number. -/
def bitsOf (x lo len : Nat) : Nat := (x / 2 ^ lo) % 2 ^ len

/-- The low n bits of a number read as two's complement (R64). -/
def signedOf (n x : Nat) : Int :=
  let y := x % 2 ^ n
  if n = 0 then 0 else if y < 2 ^ (n - 1) then (y : Int) else (y : Int) - (2 ^ n : Nat)

/-- An integer modulo 2^n as a natural number. -/
def wrapNat (n : Nat) (x : Int) : Nat := (x % ((2 ^ n : Nat) : Int)).toNat

/-- Round up to a multiple of `m`. -/
def roundUp (x m : Nat) : Nat := ((x + m - 1) / m) * m

/-- Replace the element at `i`. -/
def setAt {α : Type} (l : List α) (i : Nat) (a : α) : List α := l.set i a

/-- Apply `f` to the element at `i`. -/
def modifyAt {α : Type} (l : List α) (i : Nat) (f : α → α) : List α := l.modify i f

end Sys2Proof
end

