-- ==== Sys2Proof/Syntax.lean ====
section
/-!
DEFINITION. The instructions of the G9 and the steps of its engines, as data: one constructor of `Instr` for each row
of the opcode table. An instruction holds its decoded fields (R147); a step of an engine, of the host or of the outside
holds what the spec says comes from outside the device.
-/
namespace Sys2Proof

/-- The guard of R150: predicate `p`, negated when `neg`. -/
structure Guard where
  neg : Bool
  p   : BitVec 3
  deriving DecidableEq, Repr

/-- The SCHED bits 90 to 94 (R121, R164). -/
structure Sched where
  sw : Bool
  ha : Bool
  hb : Bool
  hc : Bool
  lp : Bool
  deriving DecidableEq, Repr

/-- What every instruction carries: its guard and its scheduling bits. -/
structure Head where
  guard : Guard
  sched : Sched
  deriving DecidableEq, Repr

/-- An operand field by its class (R151). `unlisted` holds a code that R151 does not list: it raises OPERAND
where the instruction uses the field. -/
inductive Operand where
  | v (n : BitVec 8)
  | indexed (k : BitVec 3) (base : BitVec 5)
  | p (n : BitVec 3)
  | k (n : BitVec 3)
  | m (n : BitVec 3)
  | latch (n : BitVec 2)
  | imm
  | zero
  | lane
  | const (c : BitVec 8)
  | unlisted (code : BitVec 10)
  deriving DecidableEq, Repr

/-- The type and format codes of R155. -/
inductive Ty where
  | untyped | i8 | u8 | i16 | u16 | i32 | u32 | i64 | u64
  | i16x2 | u16x2 | i8x4 | u8x4 | f16x2 | bf16x2 | b128
  | f32 | f16 | bf16 | e4m3 | e5m2 | f8z
  | res28 | d8 | d4 | sc16
  deriving DecidableEq, Repr

/-- A three-field instruction: MOD is (sat, sel, rnd) by the groups of R157, IMM is read as R161 says. -/
structure Args where
  head : Head
  ty   : Ty
  sat  : Bool
  sel  : BitVec 4
  rnd  : BitVec 3
  d    : Operand
  a    : Operand
  b    : Operand
  imm  : BitVec 32
  deriving DecidableEq, Repr

/-- A four-source instruction: operand C and the 22-bit immediate share IMM (R161). -/
structure Args4 where
  head : Head
  ty   : Ty
  sat  : Bool
  sel  : BitVec 4
  rnd  : BitVec 3
  d    : Operand
  a    : Operand
  b    : Operand
  c    : Operand
  imm  : BitVec 22
  deriving DecidableEq, Repr

/-- A load or store: MOD is (AOP, ORD, SCOPE) and IMM a byte offset (R157, R161, R210). -/
structure MemArgs where
  head  : Head
  ty    : Ty
  aop   : BitVec 3
  ord   : BitVec 2
  scope : BitVec 3
  d     : Operand
  a     : Operand
  b     : Operand
  off   : BitVec 32
  deriving DecidableEq, Repr

/-- An atomic: operand C is the comparison value, IMM[31:10] the byte offset (R161, R217). -/
structure AtomArgs where
  head  : Head
  ty    : Ty
  aop   : BitVec 3
  ord   : BitVec 2
  scope : BitVec 3
  d     : Operand
  a     : Operand
  b     : Operand
  c     : Operand
  off   : BitVec 22
  deriving DecidableEq, Repr

/-- An instruction of the handle form: IMM is (zero, JNT, X3, X2, X1) (R162). -/
structure HandleArgs where
  head : Head
  ty   : Ty
  sat  : Bool
  sel  : BitVec 4
  rnd  : BitVec 3
  d    : Operand
  a    : Operand
  b    : Operand
  top  : BitVec 3
  jnt  : BitVec 5
  x3   : BitVec 8
  x2   : BitVec 8
  x1   : BitVec 8
  deriving DecidableEq, Repr

/-- Why the data of a load came back unusable (R220). -/
inductive ErrReason where
  | poison | timeout | farDown | peer
  deriving DecidableEq, Repr

/-- What comes from outside the device to the accesses of an engine: the virtual addresses whose far-tier or fleet-window data arrive marked
poisoned by their source (R293, R393), and the peers that refuse the device's requests (R404). -/
structure Outside where
  poison  : List Nat
  refused : List Nat
  deriving DecidableEq, Repr
/-- Nothing comes poisoned, no peer refuses. -/
def Outside.none : Outside := ⟨[], []⟩

/-- Data of a load that came back unusable, in these lanes (R220), and its address. -/
structure ReturnErr where
  reason : ErrReason
  lanes  : Lanes
  addr   : DWord
  deriving DecidableEq, Repr

/-- A unit that holds an operating point (R57, R58, R59). -/
inductive PowerUnit where
  | quad (n : Nat)      -- quadrant clock, device quadrant number
  | array (n : Nat)     -- residue array, device quadrant number
  | stager (u : Nat)    -- stager STs of core n: u = 2n + s
  | block (k : Nat)     -- block engine
  | channel (c : Nat)   -- memory controller, memory channel number (R387)
  | port (p : Nat)      -- fabric port
  | slice (b : Nat)     -- common-store slice, bay number
  deriving DecidableEq, Repr

/-- An engine that runs commands one at a time (R290, R312); the move lane of a quadrant's matrix sequencer runs its
commands in chunks too (R337, R343, R344). -/
inductive EngineId where
  | stager (u : Nat)
  | block (k : Nat)
  | nest (core : Nat)
  | bank (bay : Nat)
  | moveLane (quad : Nat)
  deriving DecidableEq, Repr

/-- The two lanes of a matrix sequencer (R330). -/
inductive MatLane where
  | array | move
  deriving DecidableEq, Repr

/-- An error that a controller finds on a read, as it is found: an uncorrectable one of the line (R393), or one of the activation counter of
its row, whose check bits fail (R392). -/
structure LineFault where
  counter      : Bool    -- it is the counter's
  replicaReads : Bool    -- the line is sealed and a replica or the memory copy reads correctly
  cleanCopy    : Bool    -- a clean copy of a cache partition, and the memory copy reads correctly
  deriving DecidableEq, Repr

/-- A firmware image as the boot ROM finds it (R417). -/
structure BootSlot where
  verified : Bool
  digest   : BitVec 512
  version  : BitVec 32
  deriving DecidableEq, Repr

/-- What the boot ROM reads at power-up (R417, R418). -/
structure BootInput where
  romDigest  : BitVec 512
  slotA      : BootSlot
  slotB      : BootSlot
  fuseDigest : BitVec 512
  deriving DecidableEq, Repr

/-- A hot patch image as Worrid reads it (R419). -/
structure PatchImage where
  signed   : Bool
  base     : BitVec 32
  version  : BitVec 32
  digest   : BitVec 512
  entries  : List (BitVec 8 × BitVec 32)
  inactive : List (BitVec 8)
  deriving DecidableEq, Repr, Inhabited

/-- A CXL.mem access of the host by device physical address (R402). -/
inductive HostAccess where
  | read  (dpa len : Nat)
  | write (dpa : Nat) (bytes : List Byte)
  deriving DecidableEq, Repr

/-- A request of a peer device (R404); a combining operation of path K as R313 to R315 give it. -/
inductive FabricOp where
  | read  (addr : BitVec 56) (len : Nat)
  | write (addr : BitVec 56) (bytes : List Byte)
  | atomic (addr : BitVec 56) (ty : Ty) (aop : BitVec 3) (data cmp : DWord)
  | combine (addr : BitVec 56) (ty : Ty) (op : BitVec 3) (sat : Bool) (rnd : BitVec 3) (data : Word)
  deriving DecidableEq, Repr

/-- A participant of a collective on another device of the fleet (R318): member index, linear team index, what it gave, and whether it
has failed (R322). -/
structure RemoteShare where
  member : Nat
  team   : Nat
  sel    : BitVec 4
  fmt    : BitVec 6
  dcount : Nat
  words  : List Word
  failed : Bool
  deriving DecidableEq, Repr

/-- One constructor per row of the opcode table: 147 instructions (R165) and the 90 indivisible steps of the device's
agents and of the outside (95: what each step holds). -/
inductive Instr where
  | iadd (x : Args)
  | isub (x : Args)
  | imul (x : Args)
  | imulh (x : Args)
  | imad (x : Args4)
  | imadw (x : Args4)
  | idiv (x : Args)
  | irem (x : Args)
  | imin (x : Args)
  | imax (x : Args)
  | iabs (x : Args)
  | ineg (x : Args)
  | isad (x : Args4)
  | iadds (x : Args)
  | isubs (x : Args)
  | icmp (x : Args)
  | isel (x : Args4)
  | shl (x : Args)
  | shr (x : Args)
  | sra (x : Args)
  | shrr (x : Args)
  | rotl (x : Args)
  | and (x : Args)
  | or (x : Args)
  | xor (x : Args)
  | andn (x : Args)
  | not (x : Args)
  | lop3 (x : Args4)
  | clz (x : Args)
  | popc (x : Args)
  | brev (x : Args)
  | bfx (x : Args4)
  | bfi (x : Args4)
  | prmt (x : Args4)
  | mov (x : Args)
  | dot2 (x : Args4)
  | dot4 (x : Args4)
  | padd (x : Args)
  | psub (x : Args)
  | pmul (x : Args)
  | pmin (x : Args)
  | pmax (x : Args)
  | pshr (x : Args)
  | fadd (x : Args)
  | fsub (x : Args)
  | fmul (x : Args)
  | ffma (x : Args4)
  | fmin (x : Args)
  | fmax (x : Args)
  | fcmp (x : Args)
  | frcp (x : Args)
  | frsq (x : Args)
  | fsqrt (x : Args)
  | fexp2 (x : Args)
  | flog2 (x : Args)
  | fsinp (x : Args)
  | fcosp (x : Args)
  | fclass (x : Args)
  | frnd (x : Args)
  | pfadd (x : Args)
  | pfmul (x : Args)
  | pffma (x : Args4)
  | cvt (x : Args)
  | cvtn (x : Args)
  | cvtq (x : Args)
  | radd (x : Args)
  | rsub (x : Args)
  | rmul (x : Args)
  | rcvt (x : Args)
  | pand (x : Args)
  | por (x : Args)
  | pxor (x : Args)
  | pnot (x : Args)
  | pget (x : Args)
  | pset (x : Args)
  | slide (x : Args)
  | shfl (x : Args)
  | bcast (x : Args)
  | vote (x : Args)
  | redux (x : Args)
  | scan (x : Args)
  | matchLanes (x : Args)
  | ld (x : MemArgs)
  | st (x : MemArgs)
  | lds (x : MemArgs)
  | sts (x : MemArgs)
  | ldp (x : MemArgs)
  | stp (x : MemArgs)
  | atom (x : AtomArgs)
  | atoms (x : AtomArgs)
  | pf (x : Args)
  | fence (x : Args)
  | fencex (x : Args)
  | seal (x : Args)
  | unseal (x : Args)
  | minit (x : Args)
  | lea (x : Args)
  | bra (x : Args)
  | brx (x : Args)
  | call (x : Args)
  | callx (x : Args)
  | ret (x : Args)
  | yield (x : Args)
  | exit (x : Args)
  | defer (x : Args)
  | nop (x : Args)
  | sleep (x : Args)
  | jinit (x : HandleArgs)
  | jarrive (x : HandleArgs)
  | jwait (x : HandleArgs)
  | jtest (x : HandleArgs)
  | regx (x : HandleArgs)
  | trap (x : Args)
  | tret (x : Args)
  | brk (x : Args)
  | rdsr (x : Args)
  | wrsr (x : Args)
  | setrate (x : Args)
  | clrrate (x : Args)
  | cksum (x : Args)
  | stsh (x : Args)
  | ldsh (x : Args)
  | getsh (x : Args)
  | acopy (x : HandleArgs)
  | afill (x : HandleArgs)
  | bcopy (x : HandleArgs)
  | hset (x : HandleArgs)
  | hget (x : HandleArgs)
  | nest (x : HandleArgs)
  | nestr (x : HandleArgs)
  | nestq (x : HandleArgs)
  | bankop (x : HandleArgs)
  | bankred (x : HandleArgs)
  | coll (x : HandleArgs)
  | cres (x : HandleArgs)
  | tclaim (x : HandleArgs)
  | trel (x : HandleArgs)
  | tzero (x : HandleArgs)
  | tmma (x : HandleArgs)
  | tmmas (x : HandleArgs)
  | tdrain (x : HandleArgs)
  | tsave (x : HandleArgs)
  | trest (x : HandleArgs)
  | tburst (x : HandleArgs)
  | tstat (x : HandleArgs)
  | launch (x : Args)
  | lstat (x : Args)
  | fixedResultWrite (quad : Nat)
  | variableResultReturn (gid seq : Nat) (err : Option ReturnErr)
  | storePerformed (req : Nat)
  | pageWalkComplete (gid : Nat)
  | sleepExpiry (gid : Nat)
  | gangFree (gid : Nat)
  | admissionStep
  | schedulerIssue (quad : Nat)
  | engineCommandStart (e : EngineId)
  | commandChunk (e : EngineId) (out : Outside)
  | commandComplete (e : EngineId)
  | bankOperation (bank : Nat)
  | collInstanceComplete (instanceNo : Nat) (remote : List RemoteShare) (out : Outside)
  | matrixCommandStart (quad : Nat) (lane : MatLane)
  | matrixSequencerStep (quad : Nat)
  | matrixCommandComplete (quad : Nat) (lane : MatLane)
  | tstatResult (quad : Nat)
  | burstHoldExpiry (quad : Nat)
  | adjusterStep (power : Nat)
  | unitEvaluation (u : PowerUnit)
  | pointChangeApply (u : PowerUnit)
  | clockChangeComplete (quad : Nat)
  | pwrcapWrite (value : Word)
  | ratefloorWrite (value : Word)
  | vdshareWrite (vd : Nat) (value : Word)
  | cspartWrite (value : Word)
  | registerWrite (offset : Nat) (value : Word)
  | quantumWrite (vd : Nat) (value : Word)
  | queueNotify (q : Nat) (value : Word)
  | guestNotify (vd gq : Nat) (value : Word)
  | launchPacket (q : Nat)
  | poolPacket (q : Nat)
  | copyPacket (q : Nat)
  | signalPacket (q : Nat)
  | waitPacket (q : Nat)
  | waitPoll (q : Nat)
  | ratePacket (q : Nat)
  | markPacket (q : Nat)
  | copyPacketComplete (q index : Nat)
  | basketFlushTimeout (pool basket : Nat)
  | quantumExpiry (quad : Nat)
  | hostPreemptRequest (ctx : Nat) (boundary : Bool) (teams : List Nat)
  | preemptEntry (gid : Nat)
  | engineStop (team : Nat)
  | gangStowed (gid : Nat)
  | rinseStart (quad : Nat)
  | rinseComplete (quad : Nat)
  | teamRestore (team : Nat)
  | contextTeardown (ctx : Nat)
  | memoryRequest (channel : Nat) (fault : Option LineFault)
  | rowRefresh (channel row : Nat)
  | mendGo (stack : Nat)
  | granuleMoving
  | granuleCommit
  | coreSpare (core : Nat)
  | rowRepair (channel row : Nat)
  | bankSpare (bay bank : Nat)
  | channelRetire (k : Nat)
  | repairComplete (index : Nat)
  | hostMemAccess (access : HostAccess)
  | farTimeout
  | linkDown
  | linkUp
  | resume
  | fabricRequest (peer : Nat) (op : FabricOp)
  | fabricLaneFail (port : Nat)
  | portDegradeComplete (port : Nat)
  | portModeRequest (port : Nat) (ethernet : Bool)
  | ptpMessage (offsetNs : Int)
  | frameArrival (port : Nat) (ethertype : BitVec 16) (fcsOk : Bool) (frame : List Byte)
  | framePublish (channel : Nat)
  | lossSlotWrite (channel : Nat)
  | icbPoll (channel : Nat)
  | ingressEnable (channel : Nat) (value : Word)
  | ingressStop (channel : Nat)
  | powerUp (boot : BootInput)
  | deviceReset
  | patchGo (image : PatchImage)
  | patchCommit
  | patchAbandon
  | wext (index : BitVec 2) (digest : BitVec 512)
  | getMeasurements
  | samplingArm (vd : Nat) (ring : DWord) (log2n : BitVec 5) (interval : Word)
  | sampleRecord (quad : Nat)
  | debugArm (value : Word)
  | teamStop
  | teamResume
  | mappingRequest (level : Nat) (entryDpa : Nat) (value : DWord)
  | contextCreate (ctx descriptor : Nat)
  | preemptRequestWithdrawn (ctx : Nat)
  deriving DecidableEq, Repr

end Sys2Proof
end

