-- ==== Sys2Proof/Config.lean ====
section
/-!
DEFINITION. What the part fixes (variants R1, R8, R9; operating points R58, R59; sizes R5), and the free values: the
constants without a body, which stand for what the spec leaves open and about which nothing can be proved (log 3).
-/
namespace Sys2Proof.Config
open Sys2Proof

/-- The three variants of R1; VAR of R9. -/
inductive Variant where
  | g9 | g9h | g9n
  deriving DecidableEq, Repr

/-- Fitted compute dies (R1, R8). -/
def Variant.dies : Variant → Nat
  | .g9 => 4 | .g9h => 2 | .g9n => 4

/-- Enabled cores: 48 a die (R1, R6). -/
def Variant.cores (v : Variant) : Nat := 48 * v.dies
/-- Device quadrants: four a core (R6). -/
def Variant.quads (v : Variant) : Nat := 4 * v.cores
/-- Bays: 12 a die (R5, R6). -/
def Variant.bays (v : Variant) : Nat := 12 * v.dies
/-- HBM4E stacks: three a die (R5, R6). -/
def Variant.hbm (v : Variant) : Nat := 3 * v.dies
/-- The second tier is fitted (R8). -/
def Variant.tier2 : Variant → Bool
  | .g9 => true | .g9h => true | .g9n => false
/-- Ethernet ingress mode is available (R8). -/
def Variant.ethin : Variant → Bool
  | .g9 => true | .g9h => true | .g9n => false
/-- Fabric port p is fitted (R1, R8). -/
def Variant.portFitted (v : Variant) (p : Nat) : Bool :=
  match v with
  | .g9 => decide (p < 36)
  | .g9h => decide (p < 9 ∨ (18 ≤ p ∧ p < 27))
  | .g9n => decide (p < 36)
/-- Number of fitted fabric ports (R1). -/
def Variant.ports : Variant → Nat
  | .g9 => 36 | .g9h => 18 | .g9n => 36
/-- VAR of `$feat` (R9). -/
def Variant.code : Variant → Nat
  | .g9 => 0 | .g9h => 1 | .g9n => 2

/-- `$feat` by its map (R9): VAR, FPORTS, SPARSE, MATRIX, BLK, ETHIN, TIER2, STACKS, IODIE, CDIE. -/
def Variant.feat (v : Variant) : Word :=
  BitVec.ofNat 32 (v.code * 2 ^ 30 + v.ports * 2 ^ 24 + 2 ^ 22 + 2 ^ 21 + 2 ^ 20
    + (if v.ethin then 2 ^ 19 else 0) + (if v.tier2 then 2 ^ 18 else 0)
    + (2 ^ v.hbm - 1) * 2 ^ 6 + 3 * 2 ^ 4 + (2 ^ v.dies - 1))

/-- One operating point: its exact time `num/den` ns and its energy in pJ per work item (R58, R59). -/
structure Point where
  num    : Nat
  den    : Nat
  energy : Nat
  deriving DecidableEq, Repr

/-- The clock of each quadrant point in units of 0.1 GHz (R58). -/
def quadClocks : List Nat := [6, 9, 12, 14, 16, 18, 20, 22]
/-- The clock of each array point in units of 0.1 GHz (R59). -/
def arrayClocks : List Nat := [9, 14, 18, 22]

/-- Quadrant points CP0 to CP7: the time is 1/clock (R55, R58). -/
def quadPoints : List Point :=
  [⟨10, 6, 300⟩, ⟨10, 9, 340⟩, ⟨10, 12, 400⟩, ⟨10, 14, 460⟩, ⟨10, 16, 540⟩, ⟨10, 18, 640⟩, ⟨10, 20, 780⟩, ⟨10, 22, 960⟩]
/-- Array points A0 to A3: the time is 64/clock (R55, R59). -/
def arrayPoints : List Point := [⟨640, 9, 50000⟩, ⟨640, 14, 62000⟩, ⟨640, 18, 82000⟩, ⟨640, 22, 112000⟩]
/-- Stager points P0 to P3, per 4-byte word (R59). -/
def stagerPoints : List Point := [⟨8, 1, 500⟩, ⟨4, 1, 800⟩, ⟨2, 1, 1600⟩, ⟨1, 1, 3600⟩]
/-- Block-engine points B0 to B3, per 64 bytes (R59). -/
def blockPoints : List Point := [⟨16, 1, 6000⟩, ⟨8, 1, 8000⟩, ⟨4, 1, 12000⟩, ⟨2, 1, 20000⟩]
/-- HBM4E controller points M0 to M2, per 64-byte burst (R55, R59). -/
def hbmPoints : List Point := [⟨5, 2, 2400⟩, ⟨5, 4, 3000⟩, ⟨5, 8, 4200⟩]
/-- Second-tier controller points M0 to M2, per 64-byte burst (R55, R59). -/
def tier2Points : List Point := [⟨256, 75, 3200⟩, ⟨128, 75, 4000⟩, ⟨64, 75, 5600⟩]
/-- Fabric port points F0 to F2, per 256-byte flit (R55, R59). -/
def portPoints : List Point := [⟨64, 7, 10000⟩, ⟨32, 7, 12000⟩, ⟨16, 7, 16000⟩]
/-- Common-store slice points S0 to S2, per bank operation (R59). -/
def slicePoints : List Point := [⟨2, 1, 600⟩, ⟨1, 1, 900⟩, ⟨1, 2, 1500⟩]
/-- Energy of one element of the nest sequencer in pJ (R296). -/
def nestEnergy : Nat := 50

/-- Quadrant cycles of a rinse (R376). -/
def rinseCycles : Nat := 4672
/-- The microseconds that the rinse takes of a stay: 7.787, rounded up (R371, R376; log 10). -/
def rinseMicros : Nat := 8
/-- Gang slots of a quadrant (R22). -/
def gangSlots : Nat := 256
/-- G-lines of a quadrant (R22). -/
def gLines : Nat := 8192
/-- Blocks of 4 KiB in one scratch section: 1 MiB in four sections (R5, R206). -/
def sectionBlocks : Nat := 64
/-- Activation threshold from which a row enters the watch list (R392). -/
def watchCount : Nat := 3072
/-- The count at which a row counter saturates (R392). -/
def rowSaturation : Nat := 8191
/-- Entries of a bank's watch list (R392). -/
def watchEntries : Nat := 64

/-- The content of an opaque command record, which R378 does not give: a FREE VALUE (log 3). -/
opaque commandRecord : Nat → BitVec 512
/-- The pseudo-random count of sampling, of which R423 gives only the range: a FREE VALUE (log 3). -/
opaque sampleCount : Nat → Nat
/-- The cycle counts of a sample record, which R423 does not fix: FREE VALUES (log 3). -/
opaque sampleCycles : Nat → BitVec 80
/-- The signature Worrid makes over a measurement response (R421): a FREE VALUE (log 3). -/
opaque signature : Nat → BitVec 4096
/-- The result of a transcendental function where the enclosure of the exact value that the model computes does not
decide its rounding (R184): a FREE VALUE of the operand (log 7). -/
opaque undecided : Word → Word
/-- The row of a byte of a memory channel, which the spec does not place: a FREE VALUE of the channel and the channel byte
(log 3). -/
opaque rowOf : Nat → Nat → Nat
/-- The bank of a row of a memory channel, which the spec does not place: a FREE VALUE of the channel and the row (log 3). -/
opaque bankOfRow : Nat → Nat → Nat
/-- The peer device a fabric port leads to, which the cabling of a domain decides (R404): a FREE VALUE of the port (log 3). -/
opaque portPeer : Nat → Option Nat
/-- Whether a fleet has a member on a peer device, which its host decides (R27): a FREE VALUE of the fleet identifier and the
peer (log 3). -/
opaque fleetHas : Nat → Nat → Bool
/-- The patch image at the address in PADDR, whose format in memory R419 does not give: a FREE VALUE of the address and of what
device memory holds (log 3). -/
opaque patchImage : Nat → List (Nat × Byte) → PatchImage
/-- Whether a function of the management core has an activation in progress in a microsecond of UC (R419); no rule says what calls
them: a FREE VALUE (log 3). -/
opaque functionActive : Nat → BitVec 8 → Bool
/-- The digest that an arming or disarming extends MR4 with, which R418 does not give: a FREE VALUE (log 3). -/
opaque armDigest : Nat → BitVec 512
/-- Whether and where in the common store a sampled load found a copy of its line (R308, R423): a FREE VALUE (log 3). -/
opaque sampleLevel : Nat → Nat
/-- The number of frames the receive buffer of an Ethernet port keeps (R412: not fixed): a FREE VALUE of the port
(log 3). -/
opaque receiveBuffer : Nat → Nat

/-- Where the queue control block of a physical queue lies: the spec gives no place (log 8, log 17). -/
opaque qcbPlace : Nat → Nat
/-- The shadow of a queue as the hypervisor has written it (R355), which no step of the device does (log 17). -/
opaque queueShadow : Nat → BitVec 512

end Sys2Proof.Config
end

