-- ==== Sys2Proof/Machine/Flags.lean ====
section
/-!
DEFINITION. The sticky flags of `$status` (R74, R75), the result of one lane operation with its flags, and the integer
helpers of R173 and R69: wrapping, saturation, and the rounding of an exact quotient to an integer.
-/
namespace Sys2Proof.Machine
open Sys2Proof

/-- The seven flags of `$status` in their bits (R74). -/
abbrev Flags := BitVec 7

/-- No flag. -/
def fNone : Flags := 0#7
/-- Bit 0: a result was clamped by saturation (R74). -/
def fSat : Flags := 0x01#7
/-- Bit 1: inexact result (R74). -/
def fInx : Flags := 0x02#7
/-- Bit 2: tiny and inexact result (R74). -/
def fUfl : Flags := 0x04#7
/-- Bit 3: overflow (R74). -/
def fOfl : Flags := 0x08#7
/-- Bit 4: invalid operation or integer division by zero (R74). -/
def fNvl : Flags := 0x10#7
/-- Bit 5: a residue sum may have left the RES28 range (R74). -/
def fRng : Flags := 0x20#7
/-- Bit 6: a cross-lane operation referenced an exited lane (R74). -/
def fExr : Flags := 0x40#7

/-- A flag where its condition holds. -/
def flagIf (c : Bool) (f : Flags) : Flags := if c then f else fNone

/-- The result of an operation: its bits as a natural number, and the flags whose conditions hold. -/
structure Res where
  val   : Nat
  flags : Flags
  deriving DecidableEq, Repr

/-- A result without a flag. -/
def Res.pure (v : Nat) : Res := ⟨v, fNone⟩
/-- A result with more flags. -/
def Res.also (r : Res) (f : Flags) : Res := ⟨r.val, r.flags ||| f⟩

/-- Width in bits of a type's value in a lane or a pair (R62, R64). -/
def tyWidth : Ty → Nat
  | .i8 | .u8 | .e4m3 | .e5m2 | .f8z => 8
  | .i16 | .u16 | .f16 | .bf16 | .sc16 => 16
  | .i64 | .u64 => 64
  | .b128 => 128
  | _ => 32

/-- The integer and packed types that are signed (R64). -/
def tySigned : Ty → Bool
  | .i8 | .i16 | .i32 | .i64 | .i16x2 | .i8x4 => true
  | _ => false

/-- An operand makes pairs under a 64-bit type (R172). -/
def tyWide (t : Ty) : Bool := tyWidth t == 64

/-- The value of the low n bits of an operand, by signedness (R64). -/
def readInt (n : Nat) (signed : Bool) (x : Nat) : Int :=
  if signed then signedOf n x else ((x % 2 ^ n : Nat) : Int)

/-- The lowest value of an n-bit integer (R64). -/
def lowest (n : Nat) (signed : Bool) : Int := if signed then -((2 ^ (n - 1) : Nat) : Int) else 0
/-- The highest value of an n-bit integer (R64). -/
def highest (n : Nat) (signed : Bool) : Int :=
  if signed then ((2 ^ (n - 1) : Nat) : Int) - 1 else ((2 ^ n : Nat) : Int) - 1

/-- An integer within the limits of its type (R173). -/
def clampInt (n : Nat) (signed : Bool) (x : Int) : Int := min (max x (lowest n signed)) (highest n signed)

/-- Sat under `.sat`, Wrap under `.nosat`, as n bits (R65, R173). -/
def narrow (n : Nat) (signed sat : Bool) (x : Int) : Res :=
  if sat then ⟨wrapNat n (clampInt n signed x), flagIf (clampInt n signed x != x) fSat⟩
  else Res.pure (wrapNat n x)

/-- An n-bit result widened to a lane: sign-extended when signed, else zero-extended (R62). -/
def toLane (n : Nat) (signed : Bool) (x : Nat) : Nat :=
  if signed then wrapNat 32 (signedOf n x) else x % 2 ^ n

/-- The magnitude num/den of a value of sign `neg`, rounded to an integer in mode `rnd` (R69), and whether that was
inexact: nearest even, toward zero, toward −∞, toward +∞, nearest away. -/
def roundMag (rnd : Nat) (neg : Bool) (num den : Nat) : Nat × Bool :=
  let q := num / den
  let r := num % den
  let up := match rnd with
    | 0 => decide (den < 2 * r) || (decide (2 * r = den) && decide (q % 2 = 1))
    | 1 => false
    | 2 => neg && decide (r ≠ 0)
    | 3 => !neg && decide (r ≠ 0)
    | _ => decide (den ≤ 2 * r)
  (if up then q + 1 else q, decide (r ≠ 0))

/-- RoundInt of x/den (R177, R180). -/
def roundInt (rnd : Nat) (x : Int) (den : Nat) : Int × Bool :=
  let m := roundMag rnd (decide (x < 0)) x.natAbs den
  (if x < 0 then -(m.1 : Int) else m.1, m.2)

end Sys2Proof.Machine
end

