-- ==== Sys2Proof/Machine/FloatFormat.lean ====
section
/-!
DEFINITION. The float formats (R66), their values, and the one rounding that every float result takes (R67 to R73).
-/
namespace Sys2Proof.Machine
open Sys2Proof

/-- How a format encodes infinities and NaNs (R66). -/
inductive FKind where
  | ieee    -- exponent all ones: infinity when the fraction is 0, else NaN
  | e4m3    -- no infinity; NaN is exponent and fraction all ones
  | f8z     -- no infinity, no negative zero; NaN is 0x80
  deriving DecidableEq, Repr

/-- A float format of R66. -/
structure FFmt where
  ebits : Nat
  frac  : Nat
  bias  : Nat
  kind  : FKind
  deriving DecidableEq, Repr

def fmtF32 : FFmt := ⟨8, 23, 127, .ieee⟩
def fmtF16 : FFmt := ⟨5, 10, 15, .ieee⟩
def fmtBF16 : FFmt := ⟨8, 7, 127, .ieee⟩
def fmtE4M3 : FFmt := ⟨4, 3, 7, .e4m3⟩
def fmtE5M2 : FFmt := ⟨5, 2, 15, .ieee⟩
def fmtF8Z : FFmt := ⟨4, 3, 8, .f8z⟩

/-- The float format of a type; F32 where the type is no float. -/
def tyFloat : Ty → FFmt
  | .f16 | .f16x2 => fmtF16
  | .bf16 | .bf16x2 => fmtBF16
  | .e4m3 => fmtE4M3
  | .e5m2 => fmtE5M2
  | .f8z => fmtF8Z
  | _ => fmtF32

/-- The type is a float format. -/
def tyIsFloat : Ty → Bool
  | .f32 | .f16 | .bf16 | .e4m3 | .e5m2 | .f8z => true
  | _ => false

/-- Width of an encoding. -/
def FFmt.width (f : FFmt) : Nat := 1 + f.ebits + f.frac
/-- Exponent of the smallest normal number: 1 − bias. -/
def FFmt.emin (f : FFmt) : Int := 1 - (f.bias : Int)
/-- The encoding of +∞ (formats that have it). -/
def FFmt.infCode (f : FFmt) : Nat := (2 ^ f.ebits - 1) * 2 ^ f.frac
/-- The canonical NaN (R66). -/
def FFmt.nanCode (f : FFmt) : Nat :=
  match f.kind with
  | .ieee => f.infCode + (if f.frac = 2 then 2 else 2 ^ (f.frac - 1))
  | .e4m3 => 0x7F
  | .f8z => 0x80
/-- The encoding of the largest finite value (R66). -/
def FFmt.maxCode (f : FFmt) : Nat :=
  match f.kind with
  | .ieee => f.infCode - 1
  | .e4m3 => 0x7E
  | .f8z => 0x7F
/-- The format has infinities (R66). -/
def FFmt.hasInf (f : FFmt) : Bool := f.kind == .ieee
/-- The format has signalling NaNs: F32, F16 and BF16 (R67). -/
def FFmt.hasSignalling (f : FFmt) : Bool := f.kind == .ieee && f.frac != 2
/-- The sign bit of an encoding. -/
def FFmt.signBit (f : FFmt) : Nat := 2 ^ (f.ebits + f.frac)

/-- A float value: a NaN, an infinity, or ±m·2^e exactly. -/
inductive FVal where
  | nan (signalling : Bool)
  | inf (neg : Bool)
  | fin (neg : Bool) (m : Nat) (e : Int)
  deriving DecidableEq, Repr

/-- The value of an encoding (R66, R67). -/
def FFmt.value (f : FFmt) (code : Nat) : FVal :=
  let x := code % 2 ^ f.width
  let neg := decide (f.signBit ≤ x)
  let ex := (x / 2 ^ f.frac) % 2 ^ f.ebits
  let fr := x % 2 ^ f.frac
  let number := if ex = 0 then FVal.fin neg fr (f.emin - f.frac)
    else FVal.fin neg (2 ^ f.frac + fr) ((ex : Int) - f.bias - f.frac)
  match f.kind with
  | .ieee =>
    if ex = 2 ^ f.ebits - 1 then
      if fr = 0 then .inf neg else .nan (f.hasSignalling && decide (fr < 2 ^ (f.frac - 1)))
    else number
  | .e4m3 => if ex = 15 ∧ fr = 7 then .nan false else number
  | .f8z => if x = 0x80 then .nan false else number

/-- The value is a signalling NaN. -/
def FVal.signalling : FVal → Bool
  | .nan s => s
  | _ => false
/-- The value is a NaN. -/
def FVal.isNan : FVal → Bool
  | .nan _ => true
  | _ => false
/-- NVL of R67: some operand is a signalling NaN. -/
def nvlOf (vs : List FVal) : Flags := flagIf (vs.any FVal.signalling) fNvl

/-- A NaN result: the canonical NaN of the format (R67). -/
def FFmt.nanRes (f : FFmt) (fl : Flags) : Res := ⟨f.nanCode, fl⟩
/-- A zero of a sign; F8Z has no negative zero (R72). -/
def FFmt.zeroRes (f : FFmt) (neg : Bool) : Res := Res.pure (if neg && f.kind != .f8z then f.signBit else 0)
/-- The largest finite value of a sign. -/
def FFmt.maxOf (f : FFmt) (neg : Bool) : Nat := f.maxCode + (if neg then f.signBit else 0)
/-- An infinite result that comes from an infinite input or a pole (R70, R184): under `.sat` the largest finite value
with SAT; in a format without infinities NaN with NVL. -/
def FFmt.infRes (f : FFmt) (sat neg : Bool) : Res :=
  if sat then ⟨f.maxOf neg, fSat⟩
  else if f.hasInf then Res.pure (f.infCode + (if neg then f.signBit else 0))
  else f.nanRes fNvl

/-- An overflowed result (R70). -/
def FFmt.overflow (f : FFmt) (rnd : Nat) (sat neg : Bool) : Res :=
  let toMax := sat || decide (rnd = 1) || (decide (rnd = 2) && !neg) || (decide (rnd = 3) && neg)
  if toMax then ⟨f.maxOf neg, fOfl ||| fInx ||| flagIf sat fSat⟩
  else if f.hasInf then ⟨f.infCode + (if neg then f.signBit else 0), fOfl ||| fInx⟩
  else ⟨f.nanCode, fOfl ||| fInx⟩

/-- Floor of the binary logarithm of num/den, both positive. -/
def log2Floor (num den : Nat) : Int :=
  let e : Int := (Nat.log2 num : Int) - Nat.log2 den
  if 0 ≤ e then (if den * 2 ^ e.toNat ≤ num then e else e - 1)
  else (if den ≤ num * 2 ^ (-e).toNat then e else e - 1)

/-- num/den divided by 2^q, as a numerator and a denominator. -/
def scaleDown (num den : Nat) (q : Int) : Nat × Nat :=
  if 0 ≤ q then (num, den * 2 ^ q.toNat) else (num * 2 ^ (-q).toNat, den)

/-- The exact value ±num/den, num > 0, rounded once to the format (R69 to R72). -/
def FFmt.round (f : FFmt) (rnd : Nat) (sat neg : Bool) (num den : Nat) : Res :=
  let e := log2Floor num den
  let free := scaleDown num den (e - f.frac)
  let mFree := (roundMag rnd neg free.1 free.2).1
  let eFree : Int := if mFree = 2 ^ (f.frac + 1) then e + 1 else e
  let tiny := decide (eFree < f.emin)
  let qe := max e f.emin
  let at_ := scaleDown num den (qe - f.frac)
  let m := roundMag rnd neg at_.1 at_.2
  let code := (qe - f.emin).toNat * 2 ^ f.frac + m.1
  if f.maxCode < code then f.overflow rnd sat neg
  else
    let fl := flagIf m.2 fInx ||| flagIf (m.2 && tiny) fUfl
    if code = 0 then (f.zeroRes neg).also fl
    else ⟨code + (if neg then f.signBit else 0), fl⟩

/-- The exact value ±m·2^e rounded once; a zero keeps its sign. -/
def FFmt.roundFin (f : FFmt) (rnd : Nat) (sat neg : Bool) (m : Nat) (e : Int) : Res :=
  if m = 0 then f.zeroRes neg
  else if 0 ≤ e then f.round rnd sat neg (m * 2 ^ e.toNat) 1 else f.round rnd sat neg m (2 ^ (-e).toNat)

/-- An exact integer rounded to the format (R73). -/
def FFmt.roundIntVal (f : FFmt) (rnd : Nat) (sat : Bool) (x : Int) : Res :=
  if x = 0 then Res.pure 0 else f.round rnd sat (decide (x < 0)) x.natAbs 1

/-- ±m·2^e as an integer multiple of 2^k, k ≤ e. -/
def signedAt (neg : Bool) (m : Nat) (e k : Int) : Int :=
  let v : Int := m * 2 ^ (e - k).toNat
  if neg then -v else v

/-- The sum of two exact values, each ±m·2^e: the integer multiple and its exponent. -/
def sumExact (n1 : Bool) (m1 : Nat) (e1 : Int) (n2 : Bool) (m2 : Nat) (e2 : Int) : Int × Int :=
  let k := min e1 e2
  (signedAt n1 m1 e1 k + signedAt n2 m2 e2 k, k)

/-- A + B of finite or special values, rounded once (R68): an exact zero of opposite signs is +0, and −0 under RDN. -/
def FFmt.addVals (f : FFmt) (rnd : Nat) (sat : Bool) (fl : Flags) (a b : FVal) : Res :=
  match a, b with
  | .nan _, _ | _, .nan _ => f.nanRes fl
  | .inf n1, .inf n2 => if n1 = n2 then (f.infRes sat n1).also fl else f.nanRes (fl ||| fNvl)
  | .inf n, _ | _, .inf n => (f.infRes sat n).also fl
  | .fin n1 m1 e1, .fin n2 m2 e2 =>
    let s := sumExact n1 m1 e1 n2 m2 e2
    if s.1 = 0 then
      (f.zeroRes (if n1 = n2 then n1 else decide (rnd = 2))).also fl
    else (f.roundFin rnd sat (decide (s.1 < 0)) s.1.natAbs s.2).also fl

/-- The exact product of two values; none when it is ∞ times 0. -/
def mulVals (a b : FVal) : Option FVal :=
  match a, b with
  | .nan _, _ | _, .nan _ => some (.nan false)
  | .inf n1, .inf n2 => some (.inf (n1 != n2))
  | .inf n1, .fin n2 m _ | .fin n2 m _, .inf n1 => if m = 0 then none else some (.inf (n1 != n2))
  | .fin n1 m1 e1, .fin n2 m2 e2 => some (.fin (n1 != n2) (m1 * m2) (e1 + e2))

/-- A value written in the format with one rounding. -/
def FFmt.ofVal (f : FFmt) (rnd : Nat) (sat : Bool) (v : FVal) : Res :=
  match v with
  | .nan s => f.nanRes (flagIf s fNvl)
  | .inf n => f.infRes sat n
  | .fin n m e => f.roundFin rnd sat n m e

/-- A + B (R68, R182). -/
def fAdd (f : FFmt) (rnd : Nat) (sat : Bool) (a b : Nat) : Res :=
  f.addVals rnd sat (nvlOf [f.value a, f.value b]) (f.value a) (f.value b)
/-- The value with its sign turned. -/
def FVal.negate : FVal → FVal
  | .nan s => .nan s
  | .inf n => .inf (!n)
  | .fin n m e => .fin (!n) m e
/-- A − B (R68, R182). -/
def fSub (f : FFmt) (rnd : Nat) (sat : Bool) (a b : Nat) : Res :=
  f.addVals rnd sat (nvlOf [f.value a, f.value b]) (f.value a) (f.value b).negate
/-- A · B (R68, R182). -/
def fMul (f : FFmt) (rnd : Nat) (sat : Bool) (a b : Nat) : Res :=
  let fl := nvlOf [f.value a, f.value b]
  match mulVals (f.value a) (f.value b) with
  | none => f.nanRes (fl ||| fNvl)
  | some (.nan _) => f.nanRes fl
  | some v => (f.ofVal rnd sat v).also fl
/-- A · B + C with one rounding; ∞ × 0 is invalid even when C is a quiet NaN (R182). -/
def fFma (f : FFmt) (rnd : Nat) (sat : Bool) (a b c : Nat) : Res :=
  let fl := nvlOf [f.value a, f.value b, f.value c]
  match mulVals (f.value a) (f.value b) with
  | none => f.nanRes (fl ||| fNvl)
  | some p => f.addVals rnd sat fl p (f.value c)

/-- a < b for values that are no NaN, with −0 below +0 when `zeros` holds. -/
def FVal.lt (zeros : Bool) (a b : FVal) : Bool :=
  match a, b with
  | .nan _, _ | _, .nan _ => false
  | .inf n1, .inf n2 => n1 && !n2
  | .inf n1, .fin _ _ _ => n1
  | .fin _ _ _, .inf n2 => !n2
  | .fin n1 m1 e1, .fin n2 m2 e2 =>
    let k := min e1 e2
    let x := signedAt n1 m1 e1 k
    let y := signedAt n2 m2 e2 k
    decide (x < y) || (zeros && decide (x = y) && decide (m1 = 0) && n1 && !n2)

/-- FMIN (least) and FMAX: −0 below +0; one NaN gives the other operand; two give the canonical NaN (R182). -/
def fMinMax (f : FFmt) (least : Bool) (a b : Nat) : Res :=
  let va := f.value a
  let vb := f.value b
  let fl := nvlOf [va, vb]
  if va.isNan && vb.isNan then f.nanRes fl
  else if va.isNan then ⟨b % 2 ^ f.width, fl⟩
  else if vb.isNan then ⟨a % 2 ^ f.width, fl⟩
  else
    let bFirst := FVal.lt true vb va
    ⟨(if bFirst == least then b else a) % 2 ^ f.width, fl⟩

/-- The condition SEL of R158 on two ordered values. -/
def condHolds (sel : Nat) (lt eq gt : Bool) : Bool :=
  match sel with
  | 0 => eq
  | 1 => !eq
  | 2 => lt
  | 3 => lt || eq
  | 4 => gt
  | 5 => gt || eq
  | _ => false

/-- FCMP (R158, R183): its truth and its flags. -/
def fCmp (f : FFmt) (sel : Nat) (a b : Nat) : Bool × Flags :=
  let va := f.value a
  let vb := f.value b
  let nan := va.isNan || vb.isNan
  let lt := FVal.lt false va vb
  let gt := FVal.lt false vb va
  let r := match sel with
    | 6 => !nan
    | 7 => nan
    | 1 => nan || lt || gt
    | _ => !nan && condHolds sel lt (!lt && !gt) gt
  (r, nvlOf [va, vb])

/-- FCLASS (R186). -/
def fClass (f : FFmt) (a : Nat) : Nat :=
  match f.value a with
  | .nan true => 2 ^ 8
  | .nan false => 2 ^ 9
  | .inf true => 2 ^ 0
  | .inf false => 2 ^ 7
  | .fin neg m _ =>
    if m = 0 then (if neg then 2 ^ 3 else 2 ^ 4)
    else if m < 2 ^ f.frac then (if neg then 2 ^ 2 else 2 ^ 5)
    else (if neg then 2 ^ 1 else 2 ^ 6)

/-- ±m·2^e as sign, numerator and denominator. -/
def ratOf (m : Nat) (e : Int) : Nat × Nat :=
  if 0 ≤ e then (m * 2 ^ e.toNat, 1) else (m, 2 ^ (-e).toNat)

/-- FRND (R187): the integral value RND selects; a zero keeps the sign of A; no INX. -/
def fRnd (f : FFmt) (rnd : Nat) (a : Nat) : Res :=
  match f.value a with
  | .nan s => f.nanRes (flagIf s fNvl)
  | .inf n => f.infRes false n
  | .fin n m e =>
    let q := ratOf m e
    let r := (roundMag rnd n q.1 q.2).1
    if r = 0 then f.zeroRes n else Res.pure (f.round 0 false n r 1).val

/-- The exact value of a float as an integer by R73 for a target of n bits: limits and NaN set NVL. -/
def floatToInt (f : FFmt) (n : Nat) (signed : Bool) (rnd : Nat) (a : Nat) : Res :=
  match f.value a with
  | .nan _ => ⟨0, fNvl⟩
  | .inf neg => ⟨wrapNat n (if neg then lowest n signed else highest n signed), fNvl⟩
  | .fin neg m e =>
    let q := ratOf m e
    let r := roundMag rnd neg q.1 q.2
    let x : Int := if neg then -(r.1 : Int) else r.1
    if clampInt n signed x ≠ x then ⟨wrapNat n (clampInt n signed x), fNvl⟩
    else ⟨wrapNat n x, flagIf r.2 fInx⟩

/-- Float to float (R73, R189): the same format copies, a NaN becomes canonical; else one rounding. -/
def floatToFloat (src dst : FFmt) (rnd : Nat) (sat : Bool) (a : Nat) : Res :=
  let v := src.value a
  if src = dst then
    match v with
    | .nan s => dst.nanRes (flagIf s fNvl)
    | _ => Res.pure (a % 2 ^ src.width)
  else dst.ofVal rnd sat v

/-- F32 of the exact product n · Sa · Sb and of sums, as engines need it: RoundF32 of ±m·2^e (R82, R83). -/
def roundF32 (rnd : Nat) (sat neg : Bool) (m : Nat) (e : Int) : Res := fmtF32.roundFin rnd sat neg m e

end Sys2Proof.Machine
end

