-- ==== Sys2Proof/Machine/Elementary.lean ====
section
/-!
DEFINITION. The functions of R184 and R185, each the exact value rounded once. Reciprocal and square roots are decided
exactly on integers. 2^x, log2, sin and cos are enclosed between two fixed-point numbers of 320 fraction bits, and the
result is the one to which both ends round; where the ends round apart the value is the free value `Config.undecided`
(log 7).
-/
namespace Sys2Proof.Machine
open Sys2Proof

/-- Floor of the square root, one result bit at a time from the highest. -/
def isqrt (n : Nat) : Nat :=
  (List.range (Nat.log2 n / 2 + 1)).foldr (fun j r => if (r + 2 ^ j) * (r + 2 ^ j) ≤ n then r + 2 ^ j else r) 0

/-- Fraction bits of the fixed-point numbers below. -/
def fxBits : Nat := 320
/-- One. -/
def fxOne : Nat := 2 ^ fxBits
/-- Product, rounded down. -/
def fxMul (a b : Nat) : Nat := a * b / fxOne
/-- Half the width of an enclosure in units of the last place: above the sum of all truncations of a series. -/
def fxErr : Nat := 2 ^ 20

/-- 2·artanh(z) = ln((1+z)/(1−z)) for z ≤ 1/3. -/
def fxLog (z : Nat) : Nat :=
  let zz := fxMul z z
  2 * ((List.range 110).foldl (fun (s : Nat × Nat) k => (fxMul s.1 zz, s.2 + s.1 / (2 * k + 1))) (z, 0)).2

/-- ln 2 = 2·artanh(1/3). -/
def fxLn2 : Nat := fxLog (fxOne / 3)

/-- e^y for 0 ≤ y < 1. -/
def fxExp (y : Nat) : Nat :=
  ((List.range 90).foldl (fun (s : Nat × Nat) k => (fxMul s.1 y / (k + 1), s.2 + s.1)) (fxOne, 0)).2

/-- artan(1/n): the even terms less the odd ones. -/
def fxAtanInv (n : Nat) : Nat :=
  let r := (List.range 75).foldl
    (fun (s : Nat × Nat × Nat) k =>
      let t := s.1 / (2 * k + 1)
      (s.1 / (n * n), if k % 2 = 0 then s.2.1 + t else s.2.1, if k % 2 = 0 then s.2.2 else s.2.2 + t))
    (fxOne / n, 0, 0)
  r.2.1 - r.2.2

/-- π by Machin's formula. -/
def fxPi : Nat := 16 * fxAtanInv 5 - 4 * fxAtanInv 239

/-- sin y for 0 ≤ y ≤ π/2. -/
def fxSin (y : Nat) : Nat :=
  let yy := fxMul y y
  let r := (List.range 50).foldl
    (fun (s : Nat × Nat × Nat) k =>
      (fxMul s.1 yy / ((2 * k + 2) * (2 * k + 3)),
        if k % 2 = 0 then s.2.1 + s.1 else s.2.1, if k % 2 = 0 then s.2.2 else s.2.2 + s.1))
    (y, 0, 0)
  r.2.1 - r.2.2

/-- An inexact value within `fxErr` of x·2^(q − 320), rounded once: decided when both ends of the enclosure round
alike. `code` is the operand, of which the free value is a function. -/
def roundEnclosed (f : FFmt) (code : Nat) (sat neg : Bool) (x : Nat) (q : Int) : Res :=
  let lo := f.roundFin 0 sat neg (2 * (x - fxErr) + 1) (q - fxBits - 1)
  let hi := f.roundFin 0 sat neg (2 * (x + fxErr) + 1) (q - fxBits - 1)
  if lo = hi then lo else ⟨(Config.undecided (BitVec.ofNat 32 code)).toNat, lo.flags⟩

/-- FRCP (R184, R185). -/
def fRcp (f : FFmt) (rnd : Nat) (sat : Bool) (a : Nat) : Res :=
  match f.value a with
  | .nan s => f.nanRes (flagIf s fNvl)
  | .inf n => f.zeroRes n
  | .fin n m e =>
    if m = 0 then f.infRes sat n
    else
      let q := ratOf m e
      f.round rnd sat n q.2 q.1

/-- A value known to lie at (r + ½)·2^−k when it is inexact and at r·2^−k when it is exact, rounded once: r has so
many more bits than the format that nothing the rounding asks lies strictly between r and r + 1. -/
def roundRoot (f : FFmt) (rnd : Nat) (sat : Bool) (r : Nat) (exact : Bool) (k : Int) : Res :=
  if exact then f.roundFin rnd sat false r (-k) else f.roundFin rnd sat false (2 * r + 1) (-k - 1)

/-- FSQRT (R184, R185): the root of m·2^e with e made even and 2·200 bits appended. -/
def fSqrt (f : FFmt) (rnd : Nat) (sat : Bool) (a : Nat) : Res :=
  match f.value a with
  | .nan s => f.nanRes (flagIf s fNvl)
  | .inf true => f.nanRes fNvl
  | .inf false => f.infRes sat false
  | .fin n m e =>
    if m = 0 then f.zeroRes n
    else if n then f.nanRes fNvl
    else
      let odd := decide (e % 2 = 1)
      let m' := if odd then 2 * m else m
      let half := (if odd then e - 1 else e) / 2
      let big := m' * 2 ^ 400
      let r := isqrt big
      roundRoot f rnd sat r (decide (r * r = big)) (200 - half)

/-- FRSQ (R184, R185): the root of 2^(2·400)·den/num. -/
def fRsq (f : FFmt) (sat : Bool) (a : Nat) : Res :=
  match f.value a with
  | .nan s => f.nanRes (flagIf s fNvl)
  | .inf true => f.nanRes fNvl
  | .inf false => f.zeroRes false
  | .fin n m e =>
    if m = 0 then f.infRes sat n
    else if n then f.nanRes fNvl
    else
      let q := ratOf m e
      let big := q.2 * 2 ^ 800
      let r := isqrt (big / q.1)
      roundRoot f 0 sat r (decide (r * r * q.1 = big)) 400

/-- FEXP2 (R184, R185): 2^A = 2^i · e^(f·ln 2) with i the floor of A; exact at an integer. -/
def fExp2 (f : FFmt) (sat : Bool) (a : Nat) : Res :=
  match f.value a with
  | .nan s => f.nanRes (flagIf s fNvl)
  | .inf true => f.zeroRes false
  | .inf false => f.infRes sat false
  | .fin n m e =>
    let q := ratOf m e
    let mag := q.1 / q.2
    if !n && decide (128 ≤ mag) then f.overflow 0 sat false
    else if n && decide (200 ≤ mag) then f.round 0 sat false 1 (2 ^ 200)
    else
      let x : Int := if n then -(q.1 : Int) else q.1
      let i := x / (q.2 : Int)
      let fr := (x % (q.2 : Int)).toNat
      if fr = 0 then f.roundFin 0 sat false 1 i
      else roundEnclosed f a sat false (fxExp (fxMul (fr * fxOne / q.2) fxLn2)) i

/-- FLOG2 (R184, R185): k + ln t / ln 2 for A = t·2^k, 1 < t < 2; exact at a power of two. -/
def fLog2 (f : FFmt) (sat : Bool) (a : Nat) : Res :=
  match f.value a with
  | .nan s => f.nanRes (flagIf s fNvl)
  | .inf true => f.nanRes fNvl
  | .inf false => f.infRes sat false
  | .fin n m e =>
    if m = 0 then f.infRes sat true
    else if n then f.nanRes fNvl
    else
      let b := Nat.log2 m
      let k : Int := e + b
      if m = 2 ^ b then f.roundIntVal 0 sat k
      else
        let ln := fxLog ((m - 2 ^ b) * fxOne / (m + 2 ^ b))
        let v : Int := k * (fxOne : Int) + (ln * fxOne / fxLn2 : Nat)
        roundEnclosed f a sat (decide (v < 0)) v.natAbs 0

/-- sin(π·t) for t in half-turns modulo 2 as a fixed-point number, `zero` the result at an integer. -/
def sinTurns (f : FFmt) (code : Nat) (sat neg : Bool) (t : Nat) (zero : Res) : Res :=
  let t := t % (2 * fxOne)
  let neg := neg != decide (fxOne ≤ t)
  let u := t % fxOne
  let u := if fxOne / 2 < u then fxOne - u else u
  if u = 0 then zero
  else if u = fxOne / 2 then f.roundFin 0 sat neg 1 0
  else roundEnclosed f code sat neg (fxSin (fxMul u fxPi)) 0

/-- FSINP (R184, R185). -/
def fSinp (f : FFmt) (sat : Bool) (a : Nat) : Res :=
  match f.value a with
  | .nan s => f.nanRes (flagIf s fNvl)
  | .inf _ => f.nanRes fNvl
  | .fin n m e =>
    let q := ratOf m e
    sinTurns f a sat n (q.1 * fxOne / q.2) (f.zeroRes n)

/-- FCOSP (R184, R185): the sine half a half-turn further on. -/
def fCosp (f : FFmt) (sat : Bool) (a : Nat) : Res :=
  match f.value a with
  | .nan s => f.nanRes (flagIf s fNvl)
  | .inf _ => f.nanRes fNvl
  | .fin _ m e =>
    let q := ratOf m e
    sinTurns f a sat false (q.1 * fxOne / q.2 + fxOne / 2) (f.zeroRes false)

end Sys2Proof.Machine
end

