-- ==== Sys2Proof/Decode.lean ====
section
/-!
DEFINITION. The 96-bit instruction word (R146, R147): its fields, what makes an encoding ILLEGAL (R156, R159 to R164,
R167), the decoder, total on every word, and the encoder written from the same map.
-/
namespace Sys2Proof

/-- The TY codes of R155. -/
def Ty.code : Ty → BitVec 6
  | .untyped => 0x00 | .i8 => 0x01 | .u8 => 0x02 | .i16 => 0x03 | .u16 => 0x04 | .i32 => 0x05 | .u32 => 0x06
  | .i64 => 0x07 | .u64 => 0x08 | .i16x2 => 0x09 | .u16x2 => 0x0A | .i8x4 => 0x0B | .u8x4 => 0x0C
  | .f16x2 => 0x0D | .bf16x2 => 0x0E | .b128 => 0x0F | .f32 => 0x10 | .f16 => 0x11 | .bf16 => 0x12
  | .e4m3 => 0x13 | .e5m2 => 0x14 | .f8z => 0x15 | .res28 => 0x18 | .d8 => 0x19 | .d4 => 0x1A | .sc16 => 0x1B

/-- The type of a TY code; none for 0x16, 0x17 and 0x1C to 0x3F (R156). -/
def Ty.ofCode (c : BitVec 6) : Option Ty :=
  match c.toNat with
  | 0x00 => some .untyped | 0x01 => some .i8 | 0x02 => some .u8 | 0x03 => some .i16 | 0x04 => some .u16
  | 0x05 => some .i32 | 0x06 => some .u32 | 0x07 => some .i64 | 0x08 => some .u64 | 0x09 => some .i16x2
  | 0x0A => some .u16x2 | 0x0B => some .i8x4 | 0x0C => some .u8x4 | 0x0D => some .f16x2 | 0x0E => some .bf16x2
  | 0x0F => some .b128 | 0x10 => some .f32 | 0x11 => some .f16 | 0x12 => some .bf16 | 0x13 => some .e4m3
  | 0x14 => some .e5m2 | 0x15 => some .f8z | 0x18 => some .res28 | 0x19 => some .d8 | 0x1A => some .d4
  | 0x1B => some .sc16
  | _ => none

/-- The 10-bit operand code of R151. -/
def Operand.code : Operand → BitVec 10
  | .v n => 0b00#2 ++ n
  | .indexed sel base => 0b01#2 ++ sel ++ base
  | .p n => 0b1000000#7 ++ n
  | .k n => 0b1000001#7 ++ n
  | .m n => 0b1000010#7 ++ n
  | .latch n => 0b10000110#8 ++ n
  | .imm => 0x21C#10
  | .zero => 0x21D#10
  | .lane => 0x21E#10
  | .const c => 0b11#2 ++ c
  | .unlisted c => c

/-- The operand of a 10-bit code (R151). -/
def Operand.ofCode (c : BitVec 10) : Operand :=
  if c.extractLsb' 8 2 = 0b00#2 then .v (c.extractLsb' 0 8)
  else if c.extractLsb' 8 2 = 0b01#2 then .indexed (c.extractLsb' 5 3) (c.extractLsb' 0 5)
  else if c.extractLsb' 8 2 = 0b11#2 then .const (c.extractLsb' 0 8)
  else if c.extractLsb' 3 7 = 0b1000000#7 then .p (c.extractLsb' 0 3)
  else if c.extractLsb' 3 7 = 0b1000001#7 then .k (c.extractLsb' 0 3)
  else if c.extractLsb' 3 7 = 0b1000010#7 then .m (c.extractLsb' 0 3)
  else if c.extractLsb' 2 8 = 0b10000110#8 ∧ c.extractLsb' 0 2 ≠ 3#2 then .latch (c.extractLsb' 0 2)
  else if c = 0x21C#10 then .imm
  else if c = 0x21D#10 then .zero
  else if c = 0x21E#10 then .lane
  else .unlisted c

/-- The fields of an instruction word as bits (R147). -/
structure Raw where
  rsv   : BitVec 1
  sched : BitVec 5
  imm   : BitVec 32
  mod   : BitVec 8
  ty    : BitVec 6
  b     : BitVec 10
  a     : BitVec 10
  d     : BitVec 10
  grd   : BitVec 4
  opc   : BitVec 10
  deriving DecidableEq, Repr

/-- The word of its fields (R147), the high field first. -/
def Raw.word (r : Raw) : InstrWord :=
  r.rsv ++ r.sched ++ r.imm ++ r.mod ++ r.ty ++ r.b ++ r.a ++ r.d ++ r.grd ++ r.opc

/-- The fields of a word (R147). -/
def Raw.ofWord (w : InstrWord) : Raw where
  rsv := w.extractLsb' 95 1
  sched := w.extractLsb' 90 5
  imm := w.extractLsb' 58 32
  mod := w.extractLsb' 50 8
  ty := w.extractLsb' 44 6
  b := w.extractLsb' 34 10
  a := w.extractLsb' 24 10
  d := w.extractLsb' 14 10
  grd := w.extractLsb' 10 4
  opc := w.extractLsb' 0 10

/-- GRD: bit 13 negates, bits 12:10 name the predicate (R150). -/
def Guard.bits (g : Guard) : BitVec 4 := BitVec.ofBool g.neg ++ g.p
/-- The guard of the GRD bits. -/
def Guard.ofBits (g : BitVec 4) : Guard := ⟨g.getLsbD 3, g.extractLsb' 0 3⟩
/-- LP, HC, HB, HA, SW: bits 94 to 90 (R121). -/
def Sched.bits (s : Sched) : BitVec 5 :=
  BitVec.ofBool s.lp ++ BitVec.ofBool s.hc ++ BitVec.ofBool s.hb ++ BitVec.ofBool s.ha ++ BitVec.ofBool s.sw
/-- The hints of the SCHED bits. -/
def Sched.ofBits (s : BitVec 5) : Sched := ⟨s.getLsbD 0, s.getLsbD 1, s.getLsbD 2, s.getLsbD 3, s.getLsbD 4⟩
/-- Guard and hints of a word. -/
def Raw.head (r : Raw) : Head := ⟨Guard.ofBits r.grd, Sched.ofBits r.sched⟩

/-- A three-field instruction's fields. -/
def Raw.args (r : Raw) (t : Ty) : Args where
  head := r.head
  ty := t
  sat := r.mod.getLsbD 7
  sel := r.mod.extractLsb' 3 4
  rnd := r.mod.extractLsb' 0 3
  d := Operand.ofCode r.d
  a := Operand.ofCode r.a
  b := Operand.ofCode r.b
  imm := r.imm

/-- A four-source instruction's fields: C in IMM[9:0], the immediate in IMM[31:10] (R161). -/
def Raw.args4 (r : Raw) (t : Ty) : Args4 where
  head := r.head
  ty := t
  sat := r.mod.getLsbD 7
  sel := r.mod.extractLsb' 3 4
  rnd := r.mod.extractLsb' 0 3
  d := Operand.ofCode r.d
  a := Operand.ofCode r.a
  b := Operand.ofCode r.b
  c := Operand.ofCode (r.imm.extractLsb' 0 10)
  imm := r.imm.extractLsb' 10 22

/-- A load's or store's fields: MOD is AOP, ORD, SCOPE (R157). -/
def Raw.memArgs (r : Raw) (t : Ty) : MemArgs where
  head := r.head
  ty := t
  aop := r.mod.extractLsb' 5 3
  ord := r.mod.extractLsb' 3 2
  scope := r.mod.extractLsb' 0 3
  d := Operand.ofCode r.d
  a := Operand.ofCode r.a
  b := Operand.ofCode r.b
  off := r.imm

/-- An atomic's fields. -/
def Raw.atomArgs (r : Raw) (t : Ty) : AtomArgs where
  head := r.head
  ty := t
  aop := r.mod.extractLsb' 5 3
  ord := r.mod.extractLsb' 3 2
  scope := r.mod.extractLsb' 0 3
  d := Operand.ofCode r.d
  a := Operand.ofCode r.a
  b := Operand.ofCode r.b
  c := Operand.ofCode (r.imm.extractLsb' 0 10)
  off := r.imm.extractLsb' 10 22

/-- A handle-form instruction's fields (R162). -/
def Raw.handleArgs (r : Raw) (t : Ty) : HandleArgs where
  head := r.head
  ty := t
  sat := r.mod.getLsbD 7
  sel := r.mod.extractLsb' 3 4
  rnd := r.mod.extractLsb' 0 3
  d := Operand.ofCode r.d
  a := Operand.ofCode r.a
  b := Operand.ofCode r.b
  top := r.imm.extractLsb' 29 3
  jnt := r.imm.extractLsb' 24 5
  x3 := r.imm.extractLsb' 16 8
  x2 := r.imm.extractLsb' 8 8
  x1 := r.imm.extractLsb' 0 8

/-- The word fields of a three-field instruction with opcode `o`. -/
def Raw.ofArgs (o : BitVec 10) (x : Args) : Raw where
  rsv := 0#1
  sched := x.head.sched.bits
  imm := x.imm
  mod := BitVec.ofBool x.sat ++ x.sel ++ x.rnd
  ty := x.ty.code
  b := x.b.code
  a := x.a.code
  d := x.d.code
  grd := x.head.guard.bits
  opc := o

/-- The word fields of a four-source instruction. -/
def Raw.ofArgs4 (o : BitVec 10) (x : Args4) : Raw where
  rsv := 0#1
  sched := x.head.sched.bits
  imm := x.imm ++ x.c.code
  mod := BitVec.ofBool x.sat ++ x.sel ++ x.rnd
  ty := x.ty.code
  b := x.b.code
  a := x.a.code
  d := x.d.code
  grd := x.head.guard.bits
  opc := o

/-- The word fields of a load or store. -/
def Raw.ofMem (o : BitVec 10) (x : MemArgs) : Raw where
  rsv := 0#1
  sched := x.head.sched.bits
  imm := x.off
  mod := x.aop ++ x.ord ++ x.scope
  ty := x.ty.code
  b := x.b.code
  a := x.a.code
  d := x.d.code
  grd := x.head.guard.bits
  opc := o

/-- The word fields of an atomic. -/
def Raw.ofAtom (o : BitVec 10) (x : AtomArgs) : Raw where
  rsv := 0#1
  sched := x.head.sched.bits
  imm := x.off ++ x.c.code
  mod := x.aop ++ x.ord ++ x.scope
  ty := x.ty.code
  b := x.b.code
  a := x.a.code
  d := x.d.code
  grd := x.head.guard.bits
  opc := o

/-- The word fields of a handle-form instruction. -/
def Raw.ofHandle (o : BitVec 10) (x : HandleArgs) : Raw where
  rsv := 0#1
  sched := x.head.sched.bits
  imm := x.top ++ x.jnt ++ x.x3 ++ x.x2 ++ x.x1
  mod := BitVec.ofBool x.sat ++ x.sel ++ x.rnd
  ty := x.ty.code
  b := x.b.code
  a := x.a.code
  d := x.d.code
  grd := x.head.guard.bits
  opc := o

/-- The conversion formats of R189. -/
def cvtFormats : List Ty := [.i8, .u8, .i16, .u16, .i32, .u32, .i64, .u64, .f32, .f16, .bf16, .e4m3, .e5m2, .f8z]
/-- The (TY, source) pairs RCVT accepts (R193). -/
def rcvtPairs : List (Ty × Ty) := [(.res28, .i32), (.res28, .u32), (.i32, .res28), (.f32, .res28)]

/-- The lower of two reasons (R169: the lowest code among those that apply). -/
def lower : Option Nat → Option Nat → Option Nat
  | none, r => r
  | r, none => r
  | some a, some b => some (min a b)

/-- The reasons 3 (TY), 4 (MOD), 5 (IMM subfield) and 6 (hold bit without its operand) of R169, the lowest first. -/
def firstReason (ty mod imm hold : Bool) : Option Nat :=
  if !ty then some 3 else if !mod then some 4 else if !imm then some 5 else if !hold then some 6 else none

/-- TY, MOD and the hold bits of a three-field instruction (R156, R160, R164): the types it takes, whether it takes
`.sat`, its SEL codes, its highest RND code, whether it uses A and B. It has no operand C. -/
def argsCheck (x : Args) (tys : List Ty) (sat : Bool) (sels : List Nat) (rnd : Nat) (ua ub : Bool) : Option Nat :=
  firstReason (tys.contains x.ty)
    ((sat || !x.sat) && sels.contains x.sel.toNat && decide (x.rnd.toNat ≤ rnd))
    true ((ua || !x.head.sched.ha) && (ub || !x.head.sched.hb) && !x.head.sched.hc)

/-- The same for a four-source instruction, which uses A, B and C. -/
def args4Check (x : Args4) (tys : List Ty) (sat : Bool) (sels : List Nat) (rnd : Nat) : Option Nat :=
  firstReason (tys.contains x.ty)
    ((sat || !x.sat) && sels.contains x.sel.toNat && decide (x.rnd.toNat ≤ rnd)) true true

/-- The source format of a conversion: IMM[5:0] a TY code the instruction accepts, IMM[31:6] zero (R161, R189). -/
def sourceCheck (x : Args) (ok : Ty → Bool) : Option Nat :=
  firstReason (match Ty.ofCode (x.imm.extractLsb' 0 6) with | some t => ok t | none => false) true
    (decide (x.imm.extractLsb' 6 26 = 0#26)) true

/-- A modulo operand has no offset (R203). -/
def moduloCheck (a : Operand) (off : BitVec 32) : Option Nat :=
  match a with
  | .m _ => if off = 0#32 then none else some 5
  | _ => none

/-- The special register number of RDSR and WRSR: IMM[31:8] zero, 0x13 and above unknown (R161, R163). -/
def specialCheck (imm : BitVec 32) : Option Nat :=
  if imm.extractLsb' 8 24 ≠ 0#24 then some 5 else if 0x12 < imm.toNat then some 7 else none

/-- REDUX and SCAN (R197): SEL 0 to 5, and 8 to 13 for SCAN; logic with integers only, RES28 with `.add` only, SAT
with an integer `.add`, RND with an F32 `.add`. -/
def reduxCheck (x : Args) (scan : Bool) : Option Nat :=
  let op := x.sel.toNat % 8
  let integer := x.ty == .i32 || x.ty == .u32
  firstReason (integer || x.ty == .f32 || x.ty == .res28)
    (decide (op < 6) && (scan || decide (x.sel.toNat < 8)) && (decide (op < 3) || integer)
      && (decide (op = 0) || x.ty != .res28) && (!x.sat || (decide (op = 0) && integer))
      && (decide (x.rnd.toNat = 0) || (decide (x.rnd.toNat ≤ 4) && decide (op = 0) && x.ty == .f32)))
    true (!x.head.sched.hb && !x.head.sched.hc)

/-- ORD and SCOPE (R159): a plain access has SCOPE 0; codes 6 and 7 are no scopes; a team access reaches team scope. -/
def orderOk (ord : BitVec 2) (scope : BitVec 3) (team : Bool) : Bool :=
  (decide (ord ≠ 0#2) || decide (scope = 0#3)) && decide (scope.toNat ≤ 5) && (!team || decide (scope.toNat ≤ 1))

/-- Loads and stores (R159, R203, R210). -/
def memCheck (x : MemArgs) (tys : List Ty) (team store : Bool) : Option Nat :=
  lower (firstReason (tys.contains x.ty)
      (decide (x.aop = 0#3) && orderOk x.ord x.scope team
        && (if store then decide (x.ord = 0#2 ∨ x.ord = 2#2) else decide (x.ord = 0#2 ∨ x.ord = 1#2)))
      true ((store || !x.head.sched.hb) && !x.head.sched.hc))
    (moduloCheck x.a x.off)

/-- Atomics (R159, R217): the types each operation takes. -/
def atomCheck (x : AtomArgs) (team : Bool) : Option Nat :=
  let word := x.ty == .u32 || x.ty == .i32
  let wide := (x.ty == .u64 || x.ty == .i64) && !team
  firstReason (word || wide || (x.ty == .f32 && decide (x.aop.toNat ≤ 2)) || (x.ty == .res28 && decide (x.aop = 0#3)))
    (orderOk x.ord x.scope team) true true

/-- FENCE and FENCEX: MOD[7] zero, SEL the variant, MOD[2:0] the scope (R157, R223). -/
def fenceCheck (x : Args) (sels : List Nat) : Option Nat :=
  firstReason (x.ty == .untyped) (!x.sat && sels.contains x.sel.toNat && decide (x.rnd.toNat ≤ 5)) true
    (!x.head.sched.ha && !x.head.sched.hb && !x.head.sched.hc)

/-- The paths inside a scope, as the bits of R91 (R92). -/
def scopePaths (scope : BitVec 3) : BitVec 8 :=
  match scope.toNat with
  | 0 => 0x01#8 | 1 => 0x0F#8 | 2 => 0x1F#8 | 3 => 0x7F#8 | 4 => 0x7F#8 | _ => 0xFF#8

/-- The masks of FENCEX: IMM[31:16] zero (R161), neither mask empty, the scope holding every path (R107). -/
def fencexCheck (x : Args) : Option Nat :=
  let from' := x.imm.extractLsb' 0 8
  let to' := x.imm.extractLsb' 8 8
  if x.imm.extractLsb' 16 16 ≠ 0#16 then some 5
  else if from' = 0#8 ∨ to' = 0#8 ∨ (from' ||| to') &&& ~~~(scopePaths x.rnd) ≠ 0#8 then some 8 else none

/-- JNT names a joint: below 24 (R162). -/
abbrev jointNamed (j : BitVec 5) : Prop := j.toNat < 24
/-- JNT names a joint or none (R162). -/
abbrev jointOrNone (j : BitVec 5) : Prop := j.toNat < 24 ∨ j = 0x1F#5

/-- The handle form (R156, R157, R162, R164). -/
def handleCheck (x : HandleArgs) (sat : Bool) (sels : List Nat) (rnd : Nat) (ua ub : Bool) (bytes : Bool) : Option Nat :=
  firstReason (x.ty == .untyped)
    ((sat || !x.sat) && sels.contains x.sel.toNat && decide (x.rnd.toNat ≤ rnd))
    (decide (x.top = 0#3) && bytes)
    ((ua || !x.head.sched.ha) && (ub || !x.head.sched.hb) && !x.head.sched.hc)

/-- COLL: SEL[1:0] the mode, SEL[3:2] the operation, MOD[2:0] the scope codes 2 to 4 (R311). -/
def collCheck (x : HandleArgs) : Option Nat :=
  firstReason (x.ty == .untyped)
    (decide (x.sel.toNat < 12) && decide (2 ≤ x.rnd.toNat ∧ x.rnd.toNat ≤ 4))
    (decide (x.top = 0#3) && decide (jointOrNone x.jnt)) (!x.head.sched.hc)

/-- What makes an encoding ILLEGAL beyond its opcode, its bit 95 and an unknown TY code: the reason of R169 with the
lowest code among those that apply, or none. One line per instruction, from the entry the spec gives it. -/
def legality : Instr → Option Nat
  | .iadd x => argsCheck x [.i32, .u32, .i64, .u64] true [0] 0 true true
  | .isub x => argsCheck x [.i32, .u32, .i64, .u64] true [0] 0 true true
  | .imul x => argsCheck x [.i32, .u32, .i64, .u64] true [0] 0 true true
  | .imulh x => argsCheck x [.i32, .u32] false [0] 0 true true
  | .imad x => args4Check x [.i32, .u32] true [0] 0
  | .imadw x => args4Check x [.i32, .u32] true [0] 0
  | .idiv x => argsCheck x [.i32, .u32] true [0] 0 true true
  | .irem x => argsCheck x [.i32, .u32] false [0] 0 true true
  | .imin x => argsCheck x [.i32, .u32, .i64, .u64] false [0] 0 true true
  | .imax x => argsCheck x [.i32, .u32, .i64, .u64] false [0] 0 true true
  | .iabs x => argsCheck x [.i32, .i64] true [0] 0 true false
  | .ineg x => argsCheck x [.i32, .i64] true [0] 0 true false
  | .isad x => args4Check x [.i32, .u32] true [0] 0
  | .iadds x => argsCheck x [.i32, .u32, .i64, .u64] true (List.range 16) 0 true true
  | .isubs x => argsCheck x [.i32, .u32, .i64, .u64] true (List.range 16) 0 true true
  | .icmp x => argsCheck x [.i32, .u32, .i64, .u64] false [0, 1, 2, 3, 4, 5] 0 true true
  | .isel x => args4Check x [.untyped, .u64] false [0] 0
  | .shl x => argsCheck x [.u32, .u64] false [0] 0 true true
  | .shr x => argsCheck x [.u32, .u64] false [0] 0 true true
  | .sra x => argsCheck x [.i32, .i64] false [0] 0 true true
  | .shrr x => argsCheck x [.i32, .u32] true [0, 1, 2] 4 true true
  | .rotl x => argsCheck x [.u32, .u64] false [0] 0 true true
  | .and x => argsCheck x [.untyped, .u64] false [0] 0 true true
  | .or x => argsCheck x [.untyped, .u64] false [0] 0 true true
  | .xor x => argsCheck x [.untyped, .u64] false [0] 0 true true
  | .andn x => argsCheck x [.untyped, .u64] false [0] 0 true true
  | .not x => argsCheck x [.untyped, .u64] false [0] 0 true false
  | .lop3 x => if x.ty = .untyped then none else some 3
  | .clz x => argsCheck x [.u32, .u64] false [0] 0 true false
  | .popc x => argsCheck x [.u32, .u64] false [0] 0 true false
  | .brev x => argsCheck x [.u32, .u64] false [0] 0 true false
  | .bfx x => args4Check x [.i32, .u32] false [0] 0
  | .bfi x => args4Check x [.untyped] false [0] 0
  | .prmt x => args4Check x [.untyped] false [0] 0
  | .mov x => argsCheck x [.untyped, .u64] false [0] 0 true false
  | .dot2 x => args4Check x [.i16x2, .u16x2] true [0] 0
  | .dot4 x => args4Check x [.i8x4, .u8x4] true [0] 0
  | .padd x => argsCheck x [.i16x2, .u16x2, .i8x4, .u8x4] true [0] 0 true true
  | .psub x => argsCheck x [.i16x2, .u16x2, .i8x4, .u8x4] true [0] 0 true true
  | .pmul x => argsCheck x [.i16x2, .u16x2, .i8x4, .u8x4] true [0] 0 true true
  | .pmin x => argsCheck x [.i16x2, .u16x2, .i8x4, .u8x4] false [0] 0 true true
  | .pmax x => argsCheck x [.i16x2, .u16x2, .i8x4, .u8x4] false [0] 0 true true
  | .pshr x => argsCheck x [.i16x2, .u16x2, .i8x4, .u8x4] false [0] 4 true true
  | .fadd x => argsCheck x [.f32] true [0] 4 true true
  | .fsub x => argsCheck x [.f32] true [0] 4 true true
  | .fmul x => argsCheck x [.f32] true [0] 4 true true
  | .ffma x => args4Check x [.f32] true [0] 4
  | .fmin x => argsCheck x [.f32] false [0] 0 true true
  | .fmax x => argsCheck x [.f32] false [0] 0 true true
  | .fcmp x => argsCheck x [.f32] false (List.range 8) 0 true true
  | .frcp x => argsCheck x [.f32] true [0] 4 true false
  | .frsq x => argsCheck x [.f32] true [0] 0 true false
  | .fsqrt x => argsCheck x [.f32] true [0] 4 true false
  | .fexp2 x => argsCheck x [.f32] true [0] 0 true false
  | .flog2 x => argsCheck x [.f32] true [0] 0 true false
  | .fsinp x => argsCheck x [.f32] true [0] 0 true false
  | .fcosp x => argsCheck x [.f32] true [0] 0 true false
  | .fclass x => argsCheck x [.f32, .f16, .bf16, .e4m3, .e5m2, .f8z] false [0] 0 true false
  | .frnd x => argsCheck x [.f32] false [0] 4 true false
  | .pfadd x => argsCheck x [.f16x2, .bf16x2] true [0] 4 true true
  | .pfmul x => argsCheck x [.f16x2, .bf16x2] true [0] 4 true true
  | .pffma x => args4Check x [.f16x2, .bf16x2] true [0] 4
  | .cvt x => lower (argsCheck x cvtFormats true [0] 4 true false) (sourceCheck x (fun t => cvtFormats.contains t))
  | .cvtn x => lower (argsCheck x [.f16x2, .bf16x2, .i16x2, .u16x2, .e4m3, .e5m2, .f8z, .i8x4, .u8x4] true (if [Ty.e4m3, .e5m2, .f8z, .i8x4, .u8x4].contains x.ty then [0, 1] else [0]) 4 true true) (sourceCheck x (fun t => [Ty.f32, .i32, .u32].contains t))
  | .cvtq x => lower (argsCheck x [.d8, .d4] false [0] 4 true false) (sourceCheck x (fun t => t == .f32))
  | .radd x => argsCheck x [.res28] false [0] 0 true true
  | .rsub x => argsCheck x [.res28] false [0] 0 true true
  | .rmul x => argsCheck x [.res28] false [0] 0 true true
  | .rcvt x => lower (argsCheck x [.res28, .i32, .f32] false [0] (if x.ty = .f32 then 4 else 0) true false) (sourceCheck x (fun t => rcvtPairs.contains (x.ty, t)))
  | .pand x => argsCheck x [.untyped] false [0] 0 true true
  | .por x => argsCheck x [.untyped] false [0] 0 true true
  | .pxor x => argsCheck x [.untyped] false [0] 0 true true
  | .pnot x => argsCheck x [.untyped] false [0] 0 true false
  | .pget x => argsCheck x [.untyped] false [0] 0 true false
  | .pset x => argsCheck x [.untyped] false [0] 0 true false
  | .slide x => argsCheck x [.untyped, .u64] false [0, 1, 2] 0 true true
  | .shfl x => argsCheck x [.untyped, .u64] false [0, 1] 0 true true
  | .bcast x => argsCheck x [.untyped, .u64] false [0] 0 true true
  | .vote x => argsCheck x [.untyped] false [0, 1, 2, 3] 0 true false
  | .redux x => reduxCheck x false
  | .scan x => reduxCheck x true
  | .matchLanes x => argsCheck x [.untyped, .u64] false [0, 1] 0 true false
  | .ld x => memCheck x [.u32, .i32, .u8, .i8, .u16, .i16, .u64, .i64, .b128] false false
  | .st x => memCheck x [.u32, .i32, .u8, .i8, .u16, .i16, .u64, .i64, .b128] false true
  | .lds x => memCheck x [.u32, .i32, .u8, .i8, .u16, .i16, .u64, .i64, .b128] true false
  | .sts x => memCheck x [.u32, .i32, .u8, .i8, .u16, .i16, .u64, .i64, .b128] true true
  | .ldp x => memCheck x [.u32, .i32, .u64, .i64] true false
  | .stp x => memCheck x [.u32, .i32, .u64, .i64] true true
  | .atom x => atomCheck x false
  | .atoms x => atomCheck x true
  | .pf x => argsCheck x [.untyped] false [0, 1] 0 true false
  | .fence x => fenceCheck x [0, 1, 2]
  | .fencex x => lower (fenceCheck x [0]) (fencexCheck x)
  | .seal x => argsCheck x [.untyped] false [0] 0 true true
  | .unseal x => argsCheck x [.untyped] false [0] 0 true true
  | .minit x => argsCheck x [.untyped] false [0, 1] 0 true true
  | .lea x => lower (argsCheck x [.u32, .i32, .u8, .i8, .u16, .i16, .u64, .i64, .b128] false [0, 1] 0 true false) (moduloCheck x.a x.imm)
  | .bra x => argsCheck x [.untyped] false [0] 0 false false
  | .brx x => argsCheck x [.untyped] false [0] 0 true false
  | .call x => argsCheck x [.untyped] false [0] 0 false false
  | .callx x => argsCheck x [.untyped] false [0] 0 true false
  | .ret x => argsCheck x [.untyped] false [0] 0 false false
  | .yield x => argsCheck x [.untyped] false [0] 0 false false
  | .exit x => argsCheck x [.untyped] false [0] 0 false false
  | .defer x => argsCheck x [.untyped] false [0] 0 true true
  | .nop x => argsCheck x [.untyped] false [0, 1] 0 false false
  | .sleep x => lower (argsCheck x [.untyped] false [0] 0 false false) (if x.imm = 0#32 then some 5 else none)
  | .jinit x => handleCheck x false [0] 0 true false (decide (x.x1 = 0#8 ∧ x.x2 = 0#8 ∧ x.x3 = 0#8 ∧ jointNamed x.jnt))
  | .jarrive x => handleCheck x false [0] 0 true false (decide (x.x1 = 0#8 ∧ x.x2 = 0#8 ∧ x.x3 = 0#8 ∧ jointNamed x.jnt))
  | .jwait x => handleCheck x false [0] 0 true false (decide (x.x1 = 0#8 ∧ x.x2 = 0#8 ∧ x.x3 = 0#8 ∧ jointNamed x.jnt))
  | .jtest x => handleCheck x false [0, 1] 0 (decide (x.sel = 0#4)) false (decide (x.x1 = 0#8 ∧ x.x2 = 0#8 ∧ x.x3 = 0#8 ∧ jointNamed x.jnt))
  | .regx x => handleCheck x false [0, 1] 0 true true (decide (x.x1 = 0#8 ∧ x.x2 = 0#8 ∧ x.x3 = 0#8 ∧ jointNamed x.jnt))
  | .trap x => argsCheck x [.untyped] false [0] 0 false false
  | .tret x => argsCheck x [.untyped] false [0] 0 false false
  | .brk x => argsCheck x [.untyped] false [0] 0 false false
  | .rdsr x => lower (argsCheck x [.untyped] false [0] 0 false false) (specialCheck x.imm)
  | .wrsr x => lower (argsCheck x [.untyped] false [0] 0 true false) (specialCheck x.imm)
  | .setrate x => argsCheck x [.untyped] false [0] 0 true false
  | .clrrate x => argsCheck x [.untyped] false [0] 0 false false
  | .cksum x => argsCheck x [.untyped] false [0, 1] 0 true false
  | .stsh x => argsCheck x [.untyped] false [0, 1] 0 true true
  | .ldsh x => argsCheck x [.untyped] false [0, 1] 0 true false
  | .getsh x => argsCheck x [.untyped] false [0] 0 true false
  | .acopy x => handleCheck x true [0, 1] 4 true true (decide (x.x3 = 0#8 ∧ jointOrNone x.jnt))
  | .afill x => handleCheck x false [0] 0 true true (decide (x.x2 = 0#8 ∧ x.x3 = 0#8 ∧ jointOrNone x.jnt))
  | .bcopy x => handleCheck x false [0] 0 true true (decide (x.x3 = 0#8 ∧ jointOrNone x.jnt))
  | .hset x => handleCheck x false (List.range 8) 0 true false (decide (x.x2 = 0#8 ∧ x.x3 = 0#8 ∧ x.jnt = 0x1F#5))
  | .hget x => handleCheck x false (List.range 8) 0 false false (decide (x.x2 = 0#8 ∧ x.x3 = 0#8 ∧ x.jnt = 0x1F#5))
  | .nest x => handleCheck x true (List.range 11) 4 true true (decide (([5, 6, 7].contains x.sel.toNat = true → x.x3 = 0#8) ∧ jointOrNone x.jnt))
  | .nestr x => handleCheck x true [0, 1, 2, 8, 9, 10] 4 true true (decide (x.x3 = 0#8 ∧ jointOrNone x.jnt))
  | .nestq x => handleCheck x false [0] 4 true true (decide (x.x3 = 0#8 ∧ jointOrNone x.jnt))
  | .bankop x => handleCheck x true [0, 1, 2, 3, 4, 5, 6, 8, 9, 10, 11, 12, 13, 14] 4 true true (decide ((8 ≤ x.sel.toNat → x.x2 = 0#8) ∧ x.x3 = 0#8 ∧ jointOrNone x.jnt))
  | .bankred x => handleCheck x true [0, 1, 2, 8, 9, 10] 4 true true (decide (x.x3 = 0#8 ∧ jointOrNone x.jnt))
  | .coll x => collCheck x
  | .cres x => handleCheck x true [0, 1] (if x.sel = 0#4 then 4 else 0) true true (decide (x.x3 = 0#8 ∧ jointOrNone x.jnt))
  | .tclaim x => handleCheck x false [0] 0 true true (decide (x.x1 = 0#8 ∧ x.x2 = 0#8 ∧ x.x3 = 0#8 ∧ x.jnt = 0x1F#5))
  | .trel x => handleCheck x false [0] 0 true true (decide (x.x1 = 0#8 ∧ x.x2 = 0#8 ∧ x.x3 = 0#8 ∧ x.jnt = 0x1F#5))
  | .tzero x => handleCheck x false [0, 1] 0 false false (decide (x.x1.toNat < 8 ∧ x.x2 = 0#8 ∧ x.x3 = 0#8 ∧ jointOrNone x.jnt))
  | .tmma x => handleCheck x false [0] 0 false false (decide (x.x1.toNat < 8 ∧ x.x2.toNat < 16 ∧ x.x3.toNat < 16 ∧ jointOrNone x.jnt))
  | .tmmas x => handleCheck x false [0] 0 false false (decide (x.x1.toNat < 8 ∧ x.x2.toNat < 16 ∧ x.x3.toNat < 16 ∧ jointOrNone x.jnt))
  | .tdrain x => handleCheck x true [0] 4 true false (decide (x.x2.toNat < 8 ∧ x.x3 = 0#8 ∧ jointOrNone x.jnt))
  | .tsave x => handleCheck x false [0, 1] 0 true false (decide (x.x2.toNat < (if x.sel = 1#4 then 8 else 16) ∧ x.x3 = 0#8 ∧ jointOrNone x.jnt))
  | .trest x => handleCheck x false [0, 1, 2] 0 true false (decide (x.x1.toNat < (if x.sel = 2#4 then 8 else 16) ∧ x.x3 = 0#8 ∧ jointOrNone x.jnt))
  | .tburst x => handleCheck x false [0] 0 true false (decide (x.x1 = 0#8 ∧ x.x2 = 0#8 ∧ x.x3 = 0#8 ∧ x.jnt = 0x1F#5))
  | .tstat x => handleCheck x false [0, 1, 2] 0 false false (decide (x.x1.toNat < (if x.sel = 0#4 then 8 else if x.sel = 1#4 then 16 else 1) ∧ x.x2 = 0#8 ∧ x.x3 = 0#8 ∧ x.jnt = 0x1F#5))
  | .launch x => argsCheck x [.untyped] false [0] 0 true false
  | .lstat x => argsCheck x [.untyped] false [0] 0 true false
  | .fixedResultWrite _ => none
  | .variableResultReturn _ _ _ => none
  | .storePerformed _ => none
  | .pageWalkComplete _ => none
  | .sleepExpiry _ => none
  | .gangFree _ => none
  | .admissionStep => none
  | .schedulerIssue _ => none
  | .engineCommandStart _ => none
  | .commandChunk _ _ => none
  | .commandComplete _ => none
  | .bankOperation _ => none
  | .collInstanceComplete _ _ _ => none
  | .matrixCommandStart _ _ => none
  | .matrixSequencerStep _ => none
  | .matrixCommandComplete _ _ => none
  | .tstatResult _ => none
  | .burstHoldExpiry _ => none
  | .adjusterStep _ => none
  | .unitEvaluation _ => none
  | .pointChangeApply _ => none
  | .clockChangeComplete _ => none
  | .pwrcapWrite _ => none
  | .ratefloorWrite _ => none
  | .vdshareWrite _ _ => none
  | .cspartWrite _ => none
  | .registerWrite _ _ => none
  | .quantumWrite _ _ => none
  | .queueNotify _ _ => none
  | .guestNotify _ _ _ => none
  | .launchPacket _ => none
  | .poolPacket _ => none
  | .copyPacket _ => none
  | .signalPacket _ => none
  | .waitPacket _ => none
  | .waitPoll _ => none
  | .ratePacket _ => none
  | .markPacket _ => none
  | .copyPacketComplete _ _ => none
  | .basketFlushTimeout _ _ => none
  | .quantumExpiry _ => none
  | .hostPreemptRequest _ _ _ => none
  | .preemptEntry _ => none
  | .engineStop _ => none
  | .gangStowed _ => none
  | .rinseStart _ => none
  | .rinseComplete _ => none
  | .teamRestore _ => none
  | .contextTeardown _ => none
  | .memoryRequest _ _ => none
  | .rowRefresh _ _ => none
  | .mendGo _ => none
  | .granuleMoving => none
  | .granuleCommit => none
  | .coreSpare _ => none
  | .rowRepair _ _ => none
  | .bankSpare _ _ => none
  | .channelRetire _ => none
  | .repairComplete _ => none
  | .hostMemAccess _ => none
  | .farTimeout => none
  | .linkDown => none
  | .linkUp => none
  | .resume => none
  | .fabricRequest _ _ => none
  | .fabricLaneFail _ => none
  | .portDegradeComplete _ => none
  | .portModeRequest _ _ => none
  | .ptpMessage _ => none
  | .frameArrival _ _ _ _ => none
  | .framePublish _ => none
  | .lossSlotWrite _ => none
  | .icbPoll _ => none
  | .ingressEnable _ _ => none
  | .ingressStop _ => none
  | .powerUp _ => none
  | .deviceReset => none
  | .patchGo _ => none
  | .patchCommit => none
  | .patchAbandon => none
  | .wext _ _ => none
  | .getMeasurements => none
  | .samplingArm _ _ _ _ => none
  | .sampleRecord _ => none
  | .debugArm _ => none
  | .teamStop => none
  | .teamResume => none
  | .mappingRequest _ _ _ => none
  | .contextCreate _ _ => none
  | .preemptRequestWithdrawn _ => none

/-- The instruction that opcode `o` names (R165), with the fields of the word. -/
def build (o : Nat) (t : Ty) (r : Raw) : Option Instr :=
  match o with
  | 0x040 => some (.iadd (r.args t))
  | 0x041 => some (.isub (r.args t))
  | 0x042 => some (.imul (r.args t))
  | 0x043 => some (.imulh (r.args t))
  | 0x044 => some (.imad (r.args4 t))
  | 0x045 => some (.imadw (r.args4 t))
  | 0x046 => some (.idiv (r.args t))
  | 0x047 => some (.irem (r.args t))
  | 0x048 => some (.imin (r.args t))
  | 0x049 => some (.imax (r.args t))
  | 0x04A => some (.iabs (r.args t))
  | 0x04B => some (.ineg (r.args t))
  | 0x04C => some (.isad (r.args4 t))
  | 0x04D => some (.iadds (r.args t))
  | 0x04E => some (.isubs (r.args t))
  | 0x04F => some (.icmp (r.args t))
  | 0x050 => some (.isel (r.args4 t))
  | 0x051 => some (.shl (r.args t))
  | 0x052 => some (.shr (r.args t))
  | 0x053 => some (.sra (r.args t))
  | 0x054 => some (.shrr (r.args t))
  | 0x055 => some (.rotl (r.args t))
  | 0x056 => some (.and (r.args t))
  | 0x057 => some (.or (r.args t))
  | 0x058 => some (.xor (r.args t))
  | 0x059 => some (.andn (r.args t))
  | 0x05A => some (.not (r.args t))
  | 0x05B => some (.lop3 (r.args4 t))
  | 0x05C => some (.clz (r.args t))
  | 0x05D => some (.popc (r.args t))
  | 0x05E => some (.brev (r.args t))
  | 0x05F => some (.bfx (r.args4 t))
  | 0x060 => some (.bfi (r.args4 t))
  | 0x061 => some (.prmt (r.args4 t))
  | 0x062 => some (.mov (r.args t))
  | 0x080 => some (.dot2 (r.args4 t))
  | 0x081 => some (.dot4 (r.args4 t))
  | 0x082 => some (.padd (r.args t))
  | 0x083 => some (.psub (r.args t))
  | 0x084 => some (.pmul (r.args t))
  | 0x085 => some (.pmin (r.args t))
  | 0x086 => some (.pmax (r.args t))
  | 0x087 => some (.pshr (r.args t))
  | 0x0C0 => some (.fadd (r.args t))
  | 0x0C1 => some (.fsub (r.args t))
  | 0x0C2 => some (.fmul (r.args t))
  | 0x0C3 => some (.ffma (r.args4 t))
  | 0x0C4 => some (.fmin (r.args t))
  | 0x0C5 => some (.fmax (r.args t))
  | 0x0C6 => some (.fcmp (r.args t))
  | 0x0C7 => some (.frcp (r.args t))
  | 0x0C8 => some (.frsq (r.args t))
  | 0x0C9 => some (.fsqrt (r.args t))
  | 0x0CA => some (.fexp2 (r.args t))
  | 0x0CB => some (.flog2 (r.args t))
  | 0x0CC => some (.fsinp (r.args t))
  | 0x0CD => some (.fcosp (r.args t))
  | 0x0CE => some (.fclass (r.args t))
  | 0x0CF => some (.frnd (r.args t))
  | 0x0D0 => some (.pfadd (r.args t))
  | 0x0D1 => some (.pfmul (r.args t))
  | 0x0D2 => some (.pffma (r.args4 t))
  | 0x100 => some (.cvt (r.args t))
  | 0x101 => some (.cvtn (r.args t))
  | 0x102 => some (.cvtq (r.args t))
  | 0x110 => some (.radd (r.args t))
  | 0x111 => some (.rsub (r.args t))
  | 0x112 => some (.rmul (r.args t))
  | 0x113 => some (.rcvt (r.args t))
  | 0x150 => some (.pand (r.args t))
  | 0x151 => some (.por (r.args t))
  | 0x152 => some (.pxor (r.args t))
  | 0x153 => some (.pnot (r.args t))
  | 0x154 => some (.pget (r.args t))
  | 0x155 => some (.pset (r.args t))
  | 0x140 => some (.slide (r.args t))
  | 0x141 => some (.shfl (r.args t))
  | 0x142 => some (.bcast (r.args t))
  | 0x143 => some (.vote (r.args t))
  | 0x144 => some (.redux (r.args t))
  | 0x145 => some (.scan (r.args t))
  | 0x146 => some (.matchLanes (r.args t))
  | 0x180 => some (.ld (r.memArgs t))
  | 0x181 => some (.st (r.memArgs t))
  | 0x182 => some (.lds (r.memArgs t))
  | 0x183 => some (.sts (r.memArgs t))
  | 0x184 => some (.ldp (r.memArgs t))
  | 0x185 => some (.stp (r.memArgs t))
  | 0x186 => some (.atom (r.atomArgs t))
  | 0x187 => some (.atoms (r.atomArgs t))
  | 0x188 => some (.pf (r.args t))
  | 0x189 => some (.fence (r.args t))
  | 0x18A => some (.fencex (r.args t))
  | 0x18B => some (.seal (r.args t))
  | 0x18C => some (.unseal (r.args t))
  | 0x18D => some (.minit (r.args t))
  | 0x18E => some (.lea (r.args t))
  | 0x1C0 => some (.bra (r.args t))
  | 0x1C1 => some (.brx (r.args t))
  | 0x1C2 => some (.call (r.args t))
  | 0x1C3 => some (.callx (r.args t))
  | 0x1C4 => some (.ret (r.args t))
  | 0x1C5 => some (.yield (r.args t))
  | 0x1C6 => some (.exit (r.args t))
  | 0x1C7 => some (.defer (r.args t))
  | 0x1C8 => some (.nop (r.args t))
  | 0x1C9 => some (.sleep (r.args t))
  | 0x200 => some (.jinit (r.handleArgs t))
  | 0x201 => some (.jarrive (r.handleArgs t))
  | 0x202 => some (.jwait (r.handleArgs t))
  | 0x203 => some (.jtest (r.handleArgs t))
  | 0x204 => some (.regx (r.handleArgs t))
  | 0x210 => some (.trap (r.args t))
  | 0x211 => some (.tret (r.args t))
  | 0x212 => some (.brk (r.args t))
  | 0x213 => some (.rdsr (r.args t))
  | 0x214 => some (.wrsr (r.args t))
  | 0x215 => some (.setrate (r.args t))
  | 0x216 => some (.clrrate (r.args t))
  | 0x217 => some (.cksum (r.args t))
  | 0x218 => some (.stsh (r.args t))
  | 0x219 => some (.ldsh (r.args t))
  | 0x21A => some (.getsh (r.args t))
  | 0x240 => some (.acopy (r.handleArgs t))
  | 0x241 => some (.afill (r.handleArgs t))
  | 0x242 => some (.bcopy (r.handleArgs t))
  | 0x243 => some (.hset (r.handleArgs t))
  | 0x244 => some (.hget (r.handleArgs t))
  | 0x245 => some (.nest (r.handleArgs t))
  | 0x246 => some (.nestr (r.handleArgs t))
  | 0x247 => some (.nestq (r.handleArgs t))
  | 0x280 => some (.bankop (r.handleArgs t))
  | 0x281 => some (.bankred (r.handleArgs t))
  | 0x282 => some (.coll (r.handleArgs t))
  | 0x283 => some (.cres (r.handleArgs t))
  | 0x2C0 => some (.tclaim (r.handleArgs t))
  | 0x2C1 => some (.trel (r.handleArgs t))
  | 0x2C2 => some (.tzero (r.handleArgs t))
  | 0x2C3 => some (.tmma (r.handleArgs t))
  | 0x2C4 => some (.tmmas (r.handleArgs t))
  | 0x2C5 => some (.tdrain (r.handleArgs t))
  | 0x2C6 => some (.tsave (r.handleArgs t))
  | 0x2C7 => some (.trest (r.handleArgs t))
  | 0x2C8 => some (.tburst (r.handleArgs t))
  | 0x2C9 => some (.tstat (r.handleArgs t))
  | 0x300 => some (.launch (r.args t))
  | 0x301 => some (.lstat (r.args t))
  | _ => none

/-- The fields of an instruction with its opcode (R165); none for a step of an engine, which has no word. -/
def Instr.fields : Instr → Option Raw
  | .iadd x => some (Raw.ofArgs 0x040 x)
  | .isub x => some (Raw.ofArgs 0x041 x)
  | .imul x => some (Raw.ofArgs 0x042 x)
  | .imulh x => some (Raw.ofArgs 0x043 x)
  | .imad x => some (Raw.ofArgs4 0x044 x)
  | .imadw x => some (Raw.ofArgs4 0x045 x)
  | .idiv x => some (Raw.ofArgs 0x046 x)
  | .irem x => some (Raw.ofArgs 0x047 x)
  | .imin x => some (Raw.ofArgs 0x048 x)
  | .imax x => some (Raw.ofArgs 0x049 x)
  | .iabs x => some (Raw.ofArgs 0x04A x)
  | .ineg x => some (Raw.ofArgs 0x04B x)
  | .isad x => some (Raw.ofArgs4 0x04C x)
  | .iadds x => some (Raw.ofArgs 0x04D x)
  | .isubs x => some (Raw.ofArgs 0x04E x)
  | .icmp x => some (Raw.ofArgs 0x04F x)
  | .isel x => some (Raw.ofArgs4 0x050 x)
  | .shl x => some (Raw.ofArgs 0x051 x)
  | .shr x => some (Raw.ofArgs 0x052 x)
  | .sra x => some (Raw.ofArgs 0x053 x)
  | .shrr x => some (Raw.ofArgs 0x054 x)
  | .rotl x => some (Raw.ofArgs 0x055 x)
  | .and x => some (Raw.ofArgs 0x056 x)
  | .or x => some (Raw.ofArgs 0x057 x)
  | .xor x => some (Raw.ofArgs 0x058 x)
  | .andn x => some (Raw.ofArgs 0x059 x)
  | .not x => some (Raw.ofArgs 0x05A x)
  | .lop3 x => some (Raw.ofArgs4 0x05B x)
  | .clz x => some (Raw.ofArgs 0x05C x)
  | .popc x => some (Raw.ofArgs 0x05D x)
  | .brev x => some (Raw.ofArgs 0x05E x)
  | .bfx x => some (Raw.ofArgs4 0x05F x)
  | .bfi x => some (Raw.ofArgs4 0x060 x)
  | .prmt x => some (Raw.ofArgs4 0x061 x)
  | .mov x => some (Raw.ofArgs 0x062 x)
  | .dot2 x => some (Raw.ofArgs4 0x080 x)
  | .dot4 x => some (Raw.ofArgs4 0x081 x)
  | .padd x => some (Raw.ofArgs 0x082 x)
  | .psub x => some (Raw.ofArgs 0x083 x)
  | .pmul x => some (Raw.ofArgs 0x084 x)
  | .pmin x => some (Raw.ofArgs 0x085 x)
  | .pmax x => some (Raw.ofArgs 0x086 x)
  | .pshr x => some (Raw.ofArgs 0x087 x)
  | .fadd x => some (Raw.ofArgs 0x0C0 x)
  | .fsub x => some (Raw.ofArgs 0x0C1 x)
  | .fmul x => some (Raw.ofArgs 0x0C2 x)
  | .ffma x => some (Raw.ofArgs4 0x0C3 x)
  | .fmin x => some (Raw.ofArgs 0x0C4 x)
  | .fmax x => some (Raw.ofArgs 0x0C5 x)
  | .fcmp x => some (Raw.ofArgs 0x0C6 x)
  | .frcp x => some (Raw.ofArgs 0x0C7 x)
  | .frsq x => some (Raw.ofArgs 0x0C8 x)
  | .fsqrt x => some (Raw.ofArgs 0x0C9 x)
  | .fexp2 x => some (Raw.ofArgs 0x0CA x)
  | .flog2 x => some (Raw.ofArgs 0x0CB x)
  | .fsinp x => some (Raw.ofArgs 0x0CC x)
  | .fcosp x => some (Raw.ofArgs 0x0CD x)
  | .fclass x => some (Raw.ofArgs 0x0CE x)
  | .frnd x => some (Raw.ofArgs 0x0CF x)
  | .pfadd x => some (Raw.ofArgs 0x0D0 x)
  | .pfmul x => some (Raw.ofArgs 0x0D1 x)
  | .pffma x => some (Raw.ofArgs4 0x0D2 x)
  | .cvt x => some (Raw.ofArgs 0x100 x)
  | .cvtn x => some (Raw.ofArgs 0x101 x)
  | .cvtq x => some (Raw.ofArgs 0x102 x)
  | .radd x => some (Raw.ofArgs 0x110 x)
  | .rsub x => some (Raw.ofArgs 0x111 x)
  | .rmul x => some (Raw.ofArgs 0x112 x)
  | .rcvt x => some (Raw.ofArgs 0x113 x)
  | .pand x => some (Raw.ofArgs 0x150 x)
  | .por x => some (Raw.ofArgs 0x151 x)
  | .pxor x => some (Raw.ofArgs 0x152 x)
  | .pnot x => some (Raw.ofArgs 0x153 x)
  | .pget x => some (Raw.ofArgs 0x154 x)
  | .pset x => some (Raw.ofArgs 0x155 x)
  | .slide x => some (Raw.ofArgs 0x140 x)
  | .shfl x => some (Raw.ofArgs 0x141 x)
  | .bcast x => some (Raw.ofArgs 0x142 x)
  | .vote x => some (Raw.ofArgs 0x143 x)
  | .redux x => some (Raw.ofArgs 0x144 x)
  | .scan x => some (Raw.ofArgs 0x145 x)
  | .matchLanes x => some (Raw.ofArgs 0x146 x)
  | .ld x => some (Raw.ofMem 0x180 x)
  | .st x => some (Raw.ofMem 0x181 x)
  | .lds x => some (Raw.ofMem 0x182 x)
  | .sts x => some (Raw.ofMem 0x183 x)
  | .ldp x => some (Raw.ofMem 0x184 x)
  | .stp x => some (Raw.ofMem 0x185 x)
  | .atom x => some (Raw.ofAtom 0x186 x)
  | .atoms x => some (Raw.ofAtom 0x187 x)
  | .pf x => some (Raw.ofArgs 0x188 x)
  | .fence x => some (Raw.ofArgs 0x189 x)
  | .fencex x => some (Raw.ofArgs 0x18A x)
  | .seal x => some (Raw.ofArgs 0x18B x)
  | .unseal x => some (Raw.ofArgs 0x18C x)
  | .minit x => some (Raw.ofArgs 0x18D x)
  | .lea x => some (Raw.ofArgs 0x18E x)
  | .bra x => some (Raw.ofArgs 0x1C0 x)
  | .brx x => some (Raw.ofArgs 0x1C1 x)
  | .call x => some (Raw.ofArgs 0x1C2 x)
  | .callx x => some (Raw.ofArgs 0x1C3 x)
  | .ret x => some (Raw.ofArgs 0x1C4 x)
  | .yield x => some (Raw.ofArgs 0x1C5 x)
  | .exit x => some (Raw.ofArgs 0x1C6 x)
  | .defer x => some (Raw.ofArgs 0x1C7 x)
  | .nop x => some (Raw.ofArgs 0x1C8 x)
  | .sleep x => some (Raw.ofArgs 0x1C9 x)
  | .jinit x => some (Raw.ofHandle 0x200 x)
  | .jarrive x => some (Raw.ofHandle 0x201 x)
  | .jwait x => some (Raw.ofHandle 0x202 x)
  | .jtest x => some (Raw.ofHandle 0x203 x)
  | .regx x => some (Raw.ofHandle 0x204 x)
  | .trap x => some (Raw.ofArgs 0x210 x)
  | .tret x => some (Raw.ofArgs 0x211 x)
  | .brk x => some (Raw.ofArgs 0x212 x)
  | .rdsr x => some (Raw.ofArgs 0x213 x)
  | .wrsr x => some (Raw.ofArgs 0x214 x)
  | .setrate x => some (Raw.ofArgs 0x215 x)
  | .clrrate x => some (Raw.ofArgs 0x216 x)
  | .cksum x => some (Raw.ofArgs 0x217 x)
  | .stsh x => some (Raw.ofArgs 0x218 x)
  | .ldsh x => some (Raw.ofArgs 0x219 x)
  | .getsh x => some (Raw.ofArgs 0x21A x)
  | .acopy x => some (Raw.ofHandle 0x240 x)
  | .afill x => some (Raw.ofHandle 0x241 x)
  | .bcopy x => some (Raw.ofHandle 0x242 x)
  | .hset x => some (Raw.ofHandle 0x243 x)
  | .hget x => some (Raw.ofHandle 0x244 x)
  | .nest x => some (Raw.ofHandle 0x245 x)
  | .nestr x => some (Raw.ofHandle 0x246 x)
  | .nestq x => some (Raw.ofHandle 0x247 x)
  | .bankop x => some (Raw.ofHandle 0x280 x)
  | .bankred x => some (Raw.ofHandle 0x281 x)
  | .coll x => some (Raw.ofHandle 0x282 x)
  | .cres x => some (Raw.ofHandle 0x283 x)
  | .tclaim x => some (Raw.ofHandle 0x2C0 x)
  | .trel x => some (Raw.ofHandle 0x2C1 x)
  | .tzero x => some (Raw.ofHandle 0x2C2 x)
  | .tmma x => some (Raw.ofHandle 0x2C3 x)
  | .tmmas x => some (Raw.ofHandle 0x2C4 x)
  | .tdrain x => some (Raw.ofHandle 0x2C5 x)
  | .tsave x => some (Raw.ofHandle 0x2C6 x)
  | .trest x => some (Raw.ofHandle 0x2C7 x)
  | .tburst x => some (Raw.ofHandle 0x2C8 x)
  | .tstat x => some (Raw.ofHandle 0x2C9 x)
  | .launch x => some (Raw.ofArgs 0x300 x)
  | .lstat x => some (Raw.ofArgs 0x301 x)
  | .fixedResultWrite _ => none
  | .variableResultReturn _ _ _ => none
  | .storePerformed _ => none
  | .pageWalkComplete _ => none
  | .sleepExpiry _ => none
  | .gangFree _ => none
  | .admissionStep => none
  | .schedulerIssue _ => none
  | .engineCommandStart _ => none
  | .commandChunk _ _ => none
  | .commandComplete _ => none
  | .bankOperation _ => none
  | .collInstanceComplete _ _ _ => none
  | .matrixCommandStart _ _ => none
  | .matrixSequencerStep _ => none
  | .matrixCommandComplete _ _ => none
  | .tstatResult _ => none
  | .burstHoldExpiry _ => none
  | .adjusterStep _ => none
  | .unitEvaluation _ => none
  | .pointChangeApply _ => none
  | .clockChangeComplete _ => none
  | .pwrcapWrite _ => none
  | .ratefloorWrite _ => none
  | .vdshareWrite _ _ => none
  | .cspartWrite _ => none
  | .registerWrite _ _ => none
  | .quantumWrite _ _ => none
  | .queueNotify _ _ => none
  | .guestNotify _ _ _ => none
  | .launchPacket _ => none
  | .poolPacket _ => none
  | .copyPacket _ => none
  | .signalPacket _ => none
  | .waitPacket _ => none
  | .waitPoll _ => none
  | .ratePacket _ => none
  | .markPacket _ => none
  | .copyPacketComplete _ _ => none
  | .basketFlushTimeout _ _ => none
  | .quantumExpiry _ => none
  | .hostPreemptRequest _ _ _ => none
  | .preemptEntry _ => none
  | .engineStop _ => none
  | .gangStowed _ => none
  | .rinseStart _ => none
  | .rinseComplete _ => none
  | .teamRestore _ => none
  | .contextTeardown _ => none
  | .memoryRequest _ _ => none
  | .rowRefresh _ _ => none
  | .mendGo _ => none
  | .granuleMoving => none
  | .granuleCommit => none
  | .coreSpare _ => none
  | .rowRepair _ _ => none
  | .bankSpare _ _ => none
  | .channelRetire _ => none
  | .repairComplete _ => none
  | .hostMemAccess _ => none
  | .farTimeout => none
  | .linkDown => none
  | .linkUp => none
  | .resume => none
  | .fabricRequest _ _ => none
  | .fabricLaneFail _ => none
  | .portDegradeComplete _ => none
  | .portModeRequest _ _ => none
  | .ptpMessage _ => none
  | .frameArrival _ _ _ _ => none
  | .framePublish _ => none
  | .lossSlotWrite _ => none
  | .icbPoll _ => none
  | .ingressEnable _ _ => none
  | .ingressStop _ => none
  | .powerUp _ => none
  | .deviceReset => none
  | .patchGo _ => none
  | .patchCommit => none
  | .patchAbandon => none
  | .wext _ _ => none
  | .getMeasurements => none
  | .samplingArm _ _ _ _ => none
  | .sampleRecord _ => none
  | .debugArm _ => none
  | .teamStop => none
  | .teamResume => none
  | .mappingRequest _ _ _ => none
  | .contextCreate _ _ => none
  | .preemptRequestWithdrawn _ => none

/-- A word that is no valid instruction: the reason of R169 and the opcode. -/
structure Illegal where
  reason : BitVec 4
  opc    : BitVec 10
  deriving DecidableEq, Repr

/-- `$tval` of ILLEGAL: the reason in bits 31:28, OPC in bits 9:0 (R169). -/
def Illegal.tval (e : Illegal) : DWord := 0#32 ++ e.reason ++ 0#18 ++ e.opc

/-- The opcode is one that R165 lists (R167). -/
def opcodeListed (o : BitVec 10) : Bool := (build o.toNat .untyped (Raw.ofWord 0#96)).isSome

/-- The decoder, total on every word: the instruction, or the ILLEGAL reason with the lowest code that applies. -/
def decode (w : InstrWord) : Except Illegal Instr :=
  let r := Raw.ofWord w
  if opcodeListed r.opc = false then .error ⟨1#4, r.opc⟩
  else if r.rsv = 1#1 then .error ⟨2#4, r.opc⟩
  else match Ty.ofCode r.ty with
  | none => .error ⟨3#4, r.opc⟩
  | some t =>
    match build r.opc.toNat t r with
    | none => .error ⟨1#4, r.opc⟩
    | some i =>
      match legality i with
      | none => .ok i
      | some k => .error ⟨BitVec.ofNat 4 k, r.opc⟩

/-- The word of an instruction, from the map of R147; none for a step of an engine. -/
def encode (i : Instr) : Option InstrWord := i.fields.map Raw.word

/-- The 96-bit word of twelve bytes, the first at the lowest address: three little-endian parcels (R146). -/
def wordOfBytes (bs : List Byte) : InstrWord :=
  (bs.take 12).foldr (fun b acc => (acc <<< 8) ||| b.setWidth 96) 0#96

/-- The twelve bytes of a word in address order (R146). -/
def bytesOfWord (w : InstrWord) : List Byte := (List.range 12).map fun i => w.extractLsb' (8 * i) 8

/-- The instruction the decoder reads from an opcode-table word, its bits above `nbits` zero. -/
def decodeTableWord (nbits w : Nat) : Option Instr :=
  match decode (wordOfBytes (bytesOfWord (BitVec.ofNat 96 (w % 2 ^ nbits)))) with
  | .ok i => some i
  | .error _ => none

/-- The class of an instruction for the dual-issue rule (R165). -/
inductive Class where
  | alu | float | memory | control | engine
  deriving DecidableEq, Repr

/-- The class of an opcode by its range (R165); the residue instructions of 0x110 to 0x113 are ALU. -/
def classOf (o : Nat) : Class :=
  if o < 0x0C0 then .alu
  else if o < 0x110 then .float
  else if o < 0x180 then .alu
  else if o < 0x1C0 then .memory
  else if o < 0x240 then .control
  else .engine

/-- The opcode of an instruction; 0 for a step of an engine. -/
def Instr.opcode (i : Instr) : Nat := match i.fields with | some r => r.opc.toNat | none => 0

/-- The class of an instruction. -/
def Instr.cls (i : Instr) : Class := classOf i.opcode

end Sys2Proof
end

