-- ==== Sys2Proof/Machine/State.lean ====
section
/-!
DEFINITION. The state of the machine as plain data: everything the spec gives the G9, from the lanes of a gang to the
registers of the management core, and the state right after reset.
-/
namespace Sys2Proof.Machine
open Sys2Proof

/-- Why a step stops the machine. -/
inductive Fault where
  /-- An instruction was given to `exec` while no fetch port of any gang holds an issue for it. Raised by every
  instruction's meaning; safe: the hardware performs no instruction that no gang issued. -/
  | noIssue
  /-- The issuing port names a gang or a quadrant that is not there. Raised by every instruction's meaning; safe: no
  state that the scheduler forms has it. -/
  | badPort
  deriving DecidableEq, Repr

/-- Why a step has no meaning. -/
inductive Refusal where
  /-- The instruction has no meaning in the model yet. Raised by `exec`; safe. -/
  | notModelled (mnemonic : String)
  deriving DecidableEq, Repr

/-! ### The registers of a gang (07) -/

/-- A vector register in its shape (R132): U(u), A(base, stride), or the 32 words of a line. -/
inductive Shape where
  | u (value : Word)
  | a (base stride : Word)
  | g (lanes : LaneVec)
  deriving DecidableEq, Repr

/-- The mark of a deferred load error (R220): the load's PC and reason, the lanes that erred, and the load's place in
the gang's issue order (R221). -/
structure ErrMark where
  pc     : DWord
  reason : BitVec 8
  lanes  : Lanes
  order  : Nat
  deriving DecidableEq, Repr

/-- A vector register (R128, R132, R220). -/
structure Reg where
  shape : Shape
  mark  : Option ErrMark
  deriving DecidableEq, Repr

/-- A modulo register (R130). -/
structure ModReg where
  base : DWord
  len  : Word
  off  : Word
  deriving DecidableEq, Repr

/-- A latch entry (R128, R145): the 32 held lanes with their shape, and how many more instructions it serves. -/
structure Latch where
  shape : Shape
  uses  : Nat
  deriving DecidableEq, Repr

/-- The issue state of one lane (R230); `live` is false once the lane has exited (R30). -/
structure LaneState where
  pc   : DWord
  depth : Nat
  y    : Bool
  spin : Nat
  live : Bool
  deriving DecidableEq, Repr

/-- What a trap keeps of the lanes (R267). -/
structure Shadow where
  lanes  : List LaneState
  serial : Bool
  deriving DecidableEq, Repr

/-- A register write on its way: the lanes of the mask take `vals`, word `part` of the value in each lane; `exact` gives shape and mark outright (LDSH). -/
structure RegWrite where
  n     : Nat
  part  : Nat
  mask  : Lanes
  vals  : LaneVec
  exact : Option Reg
  deriving DecidableEq, Repr

/-- A predicate write: the lanes of the mask take the bits of `vals` (R129). -/
structure PredWrite where
  n    : Nat
  mask : Lanes
  vals : Lanes
  deriving DecidableEq, Repr

/-- How a result comes back. -/
inductive ResultKind where
  | fixed                    -- R142: written at its cycle, no mark
  | variable                 -- R143: pending until it returns
  deriving DecidableEq, Repr

/-- An outstanding result of an instruction: its place in issue order, its PC, the registers it writes. `due` is the
quadrant cycle of the write where the spec fixes it, else the cycle before which it does not come back; `exactDue`
says which. -/
structure Result where
  seq      : Nat
  pc       : DWord
  kind     : ResultKind
  due      : Nat
  exactDue : Bool
  regs     : List RegWrite
  preds    : List PredWrite
  mods     : List (Nat × ModReg)
  reserve  : List Nat          -- registers for which a G-line is reserved (R137)
  err      : Option ErrMark
  waitsReqs : Bool             -- memory requests of this instruction must be served first
  statusRead : Bool            -- an RDSR of `$status`: waits for every earlier result (R75)
  held     : Bool              -- of a command kept over a pre-emption: it returns after the restore's TRET (log 10)
  deriving DecidableEq, Repr

/-- Where and why a gang is parked (R29, R143). -/
inductive Park where
  | marker                            -- a switch marker with results outstanding (R144)
  | joint (j phase : Nat) (ck : DWord) (time : Nat) (lanes : Lanes) (pc : DWord)
                                      -- a JWAIT on a phase that is not complete; CK as it leaves it, the time that takes (R265)
  | regx (j phase seq : Nat) (lanes : Lanes) (pc : DWord)   -- a REGX until its phase completes (R261)
  | walk                              -- a replayable fault, until the walk completes
  | sleep (wake : Nat)                -- SLEEP until a quadrant cycle
  | moving (req : Nat)                -- a store held by a MOVING granule
  | pending (codes : List Nat)        -- registers that are pending, by the operand codes of R151
  deriving DecidableEq, Repr

/-- The life of a gang (R28); a FREE gang slot holds no gang. -/
inductive Life where
  | ready
  | parked (p : Park)
  | stowing                 -- the stow handler has exited, acknowledgements outstanding (R379)
  | stowed
  | draining
  deriving DecidableEq, Repr

/-- A hold after FENCE, FENCEX, SEAL or UNSEAL (R224, R229): what must end first, and what is held until then. -/
structure Hold where
  before     : Nat            -- instructions of the gang issued before this place in issue order
  loads      : Bool           -- wait for their loads
  stores     : Bool           -- wait for their stores and atomics
  paths      : BitVec 8       -- wait for their commands on these paths (R106)
  holdLoads  : Bool           -- later loads are held
  holdStores : Bool           -- later stores are held
  holdEngine : Bool           -- later engine-class instructions are held
  acqs       : Bool           -- wait for their acquires (R95, R106)
  deriving DecidableEq, Repr

/-- One gang in its slot (R16, R28, R128, R230, R264, R267). -/
structure Gang where
  gid       : Nat
  team      : Nat
  gidx      : Nat
  quad      : Nat
  slot      : Nat
  life      : Life
  lanes     : List LaneState
  serial    : Bool
  gmax      : Nat
  regs      : List Reg
  preds     : List Lanes
  kregs     : List (List (BitVec 16))
  mods      : List ModReg
  latch     : List (Option Latch)
  status    : BitVec 7
  clears    : List (Nat × BitVec 7)   -- WRSRs of `$status` in issue order, for atomics still to be performed (R75)
  cause     : DWord
  epc       : DWord
  tval      : DWord
  tmask     : Word
  hnd       : Bool
  shadow    : Shadow
  ck        : DWord
  override  : Option Word
  results   : List Result
  nextIssue : Nat
  lastIssue : Nat             -- the device's count of issues at its last one (R36)
  issued    : Nat             -- instructions issued so far: the place in issue order
  holds     : List Hold
  marker    : Bool            -- a switch marker of this cycle, or of the park that holds the gang, is still to park it (R144)
  preempt   : Bool
  preempted : Bool            -- PREEMPT entry has been taken and the stow handler runs (R379)
  fromRestore : Bool          -- the next TRET reloads v0 to v3 and the trap registers (R382)
  frame     : DWord           -- virtual address of the gang's frame (R380)
  moff      : Nat             -- MOFF of the frame (R380): where the gang's matrix images begin in the team area
  entry     : Nat             -- place in issue order at which it took PREEMPT
  stopped   : Bool            -- debug stop (R424)
  withdrawn : Option DWord    -- PC of a secondary instruction withdrawn because it would trap (R170)
  admitted  : Nat             -- quadrant cycle of admission, for `$clock` (R131); of a STOWED gang `$clock` as it stands
  lastRate  : Word            -- the last effective local rate, which the work of a DRAINING gang uses (R54)
  formed    : Option (DWord × Lanes × List (Nat × Nat))  -- PC, lanes, lane addresses of an access that is to replay (R203)
  deriving DecidableEq, Repr

/-! ### Teams, grids and contexts (02, 06, 12, 20, 21) -/

/-- ST of a joint (R252). -/
inductive JointSt where
  | idle | open_ | broken
  deriving DecidableEq, Repr

/-- A REGX request of a phase (R261). -/
structure Regx where
  gidx    : Nat
  partner : Nat
  lines   : Nat
  give    : Bool
  gid     : Nat
  seq     : Nat
  deriving DecidableEq, Repr

/-- An entry of the arrival record (R258, R425): weight, phase, source kind (0 gang, 1 stager, 2 block engine, 3 nest,
4 array, 5 bank), the GIDX or stagger number, the STATUS, and ARR before it. -/
structure Arrival where
  weight : Nat
  phase  : Nat
  kind   : Nat
  number : Nat
  status : Nat
  arr    : Nat
  deriving DecidableEq, Repr

/-- The state of a joint: ST, N, ARR, PHASE, OUT (R252), the REGX requests of its phase (R261), its last sixteen
arrivals (R425). -/
structure Joint where
  st    : JointSt
  n     : Nat
  arr   : Nat
  phase : Nat
  out   : Nat
  regx  : List Regx
  arrivals : List Arrival
  deriving DecidableEq, Repr

/-- The race-check state of a 16-byte granule; EMPTY is not listed (R113). -/
inductive Race where
  | read (g : Nat)
  | readMany
  | write (g : Nat)
  deriving DecidableEq, Repr

/-- A 4 KiB block of a scratch section (R206). -/
structure Block where
  core    : Nat
  section_ : Nat
  block   : Nat
  deriving DecidableEq, Repr

/-- A kernel descriptor (R124). -/
structure Kernel where
  entry   : DWord
  trapv   : DWord
  rcen    : Bool
  rcj     : Nat
  joints  : Nat
  gmax    : Nat
  regs    : Nat
  teammax : Nat
  scratch : Nat
  deriving DecidableEq, Repr

/-- Context classes in the order of service (R36). -/
inductive Cls where
  | dl | hi | lo | bg
  deriving DecidableEq, Repr

/-- A context descriptor as read at creation (R373). -/
structure ContextDesc where
  groot   : DWord
  hroot   : DWord
  tvec    : DWord
  svec    : DWord
  rvec    : DWord
  save    : DWord
  saveLen : Nat
  ythr    : Nat
  vd      : Nat
  pmode   : Bool
  cklog   : Bool
  stowt   : Nat
  rlim    : DWord
  htab    : DWord
  elog    : DWord
  frec    : DWord
  deriving DecidableEq, Repr

/-- A context (R373, R375): its descriptor and where it lies, whether it has ended, the dropped launches (R366), the
save area handed out so far (R380), and whether the host holds its admission (R33). -/
structure Context where
  id      : Nat
  where_  : Nat
  desc    : ContextDesc
  ended   : Bool
  reason  : Nat
  dropped : Nat
  saveTop : Nat
  held    : Bool          -- boundary pre-emption by the host is in force (R33)
  deriving DecidableEq, Repr

/-- A team (R16, R22, R23, R252, R380): its gangs are those of `State.gangs` that name it. -/
structure Team where
  id       : Nat
  grid     : Nat
  index    : Nat
  size     : Nat
  cores    : List Nat
  blocks   : List Block         -- per core in order of place, the blocks of the core in order
  joints   : List Joint
  race     : List (Nat × Race)  -- granule number (address / 16) and state
  stowed   : Bool
  area     : Nat                -- offset of the team area in the save area (R380)
  overflow : Nat                -- where the command records from 128 on lie in it (R381)
  preempt  : Bool               -- instruction pre-emption in progress (R377)
  admitted : Nat                -- order of admission (R377: latest admitted first)
  colls    : List (Nat × Nat × Nat)  -- scope, tag, and how many collectives its gangs have issued there (R318)
  records  : List Nat           -- identifiers of its stopped commands (R378)
  late     : List (Nat × Nat × Nat × Nat)  -- arrivals of collectives held until the restore (R323): joint, weight (0: it breaks), bay, STATUS
  deriving DecidableEq, Repr

/-! ### Memory requests (05, 10, 23) -/

/-- The spaces of R86. -/
inductive Space where
  | scratch | device | tier2 | common | far
  | peer (id : Nat)
  deriving DecidableEq, Repr

/-- What a request does. -/
inductive ReqKind where
  | load
  | store
  | atomic (aop : Nat) (returns : Bool)
  | account                     -- an engine's access: its value effects are its chunk's, the controller counts it
  deriving DecidableEq, Repr

/-- One lane's part of a request: the place of its first byte in memory (log 4), its width, its data and comparison
value. -/
structure LaneAcc where
  lane : Nat
  key  : Nat
  data : Nat
  cmp  : Nat
  deriving DecidableEq, Repr

/-- A request that is not acknowledged (R213, R389, R399, R427). -/
structure Req where
  id      : Nat
  gid     : Nat
  team    : Nat
  ctx     : Nat
  own     : Nat                 -- OWN of the page (R374)
  seq     : Nat
  kind    : ReqKind
  ty      : Ty
  space   : Space
  channel : Nat                 -- memory channel of R387, else 0
  accs    : List LaneAcc
  acq     : Bool
  rel     : Bool
  who     : Nat                 -- requester number of R391
  cls     : Nat
  stamp   : Nat
  due     : Option Nat          -- scratchpad: quadrant cycle of the last pass (R209)
  quad    : Nat
  sent    : Nat                 -- UC when it left its requester (R403)
  served  : Bool                -- performed, its acknowledgement on the way
  deriving DecidableEq, Repr

/-- A SEAL (`close`) or UNSEAL of a gang that waits for the writes to its granules that are in flight (R112, R229). -/
structure Sealing where
  id       : Nat
  gid      : Nat
  granules : List Nat
  close    : Bool
  deriving DecidableEq, Repr

/-! ### Grids, pools and queues (02, 20) -/

/-- A grid (R20, R21, R358, R359, R362 to R365). A pool's own grid has no coordinates. -/
structure Grid where
  id       : Nat
  vd       : Nat
  seq      : Nat                -- SEQ of `$grid`
  ctx      : Nat
  cls      : Cls
  x        : Nat
  y        : Nat
  z        : Nat
  size     : Nat                -- team size T
  kernel   : Kernel
  span     : Nat                -- span in bytes (R205)
  deadline : Nat                -- DEADLINE (R358)
  pool     : Nat                -- CPOOL, 0 for none (R358, R363)
  next     : Nat                -- lowest unadmitted linear index
  fleet    : Nat
  coloc    : Bool               -- co-resident launch (R26)
  dmap     : Nat                -- dependence map, 0 for none
  carea    : Nat                -- completion area, 0 for none
  param    : List Byte          -- PARAM bytes 0 to PLEN − 1
  irq      : Option Nat         -- VEC when IRQ is set, of a child
  queue    : Option (Nat × Nat) -- host launch: the queue and the packet index
  child    : Bool               -- launched by a device program
  own      : Option Nat         -- POOLID of the pool whose grid it is
  packet   : Option (BitVec 512) -- a device launch that is created and not yet checked from the descriptor on (R367)
  retired  : Nat                -- teams retired
  failed   : Option Nat         -- a status the record is to report (R394)
  began    : Bool               -- its first team has been admitted (R365)
  yields   : Bool               -- its admission is stopped while a DL grid waits for its teams to retire (R381)
  bits     : List (Nat × Nat)   -- retired teams whose bit is still to be set (R32): the team's index, its last gang
  record   : Option (List Nat)  -- the requests by which its completion record is written, once it is (R359)
  deriving DecidableEq, Repr

/-- A continuation record in a basket (R249, R364): its 64 bytes, its arrival in microseconds of UC, its place in the
buffer. -/
structure PoolRec where
  bits    : BitVec 512
  arrived : Nat
  slot    : Nat
  deriving DecidableEq, Repr

/-- An open pool (R363, R364). `baskets` lists the nonempty baskets with their records, oldest first; `formed` are the
gangs formed and not yet admitted, as their lists of records. -/
structure Pool where
  vd      : Nat
  id      : Nat
  grid    : Nat
  rbuf    : Nat
  rcap    : Nat
  nfeed   : Nat
  flusht  : Nat
  fed     : Nat                 -- feeding grids that have completed
  baskets : List (Nat × List PoolRec)
  formed  : List (List PoolRec)
  deriving DecidableEq, Repr

/-- A packet that has started and not completed (R356, R357). -/
structure Packet where
  index : Nat
  bits  : BitVec 512
  deriving DecidableEq, Repr

/-- A physical host queue (R353 to R357): where its QCB lies, the shadow of bytes 0x40 to 0x7F, and the fields as the
device holds them. -/
structure Queue where
  q       : Nat
  qcb     : Nat
  shadow  : BitVec 512
  ring    : Nat
  log2n   : Nat
  head    : Nat
  tail    : Nat
  state   : Nat                 -- 0 STOP, 1 RUN, 2 ERROR
  ecode   : Nat
  dlmiss  : Word
  started : Nat                 -- packets started since the last reload
  packets : List Packet
  wait    : Option Packet       -- a WAIT whose condition does not hold yet
  deriving DecidableEq, Repr

/-- A child of a VD as LSTAT reads it (R368). -/
structure Child where
  seq     : Nat
  state   : Nat
  status  : Nat
  retired : Nat
  deriving DecidableEq, Repr

/-- A virtual device: its descriptor (R369), its share of the cap (R45, R51), what it is charged (R52, R326), its launch
counts (R20, R365, R368), its credits in HI, LO and BG (R361), its sampling control (R423). -/
structure VD where
  quads     : BitVec 768
  weight    : BitVec 8
  dlq       : BitVec 16
  quantum   : Word
  qeff      : Word
  qzero     : Bool
  qadj      : Bool
  gqt       : BitVec 56
  qmiss     : Word
  sharew    : BitVec 12
  shareRate : Word
  energy    : Nat               -- pJ charged in this microsecond
  seq       : BitVec 26         -- SEQ of the next grid
  dlc       : Nat
  children  : List Child
  credits   : List Nat
  ring      : DWord
  log2n     : BitVec 5
  interval  : Word
  index     : Word
  deriving DecidableEq, Repr

/-! ### Engines (15, 16, 18) -/

/-- A tensor handle as a command has sampled it (R282, R289). -/
structure Handle where
  no   : Nat
  bits : BitVec 512
  deriving DecidableEq, Repr

/-- The commands of the engines. -/
inductive CmdOp where
  | acopy | afill | bcopy | nest | nestr | nestq | bankop | bankred | cres | coll
  | tzero | tmma | tmmas | tdrain | tsave | trest | tburst | tstat
  deriving DecidableEq, Repr

/-- Where a command runs: an engine of R290 or R312, or the matrix queue of a quadrant (R330). -/
inductive CmdPlace where
  | engine (e : EngineId)
  | matrix (quad : Nat)
  deriving DecidableEq, Repr

/-- A command in a queue or running (R290 to R295, R311 to R323, R330 to R350): who commanded it, its fields and the
values it sampled, and its progress. -/
structure Cmd where
  id      : Nat
  gid     : Nat
  gidx    : Nat
  team    : Nat
  ctx     : Nat
  vd      : Nat
  seq     : Nat                 -- place of its instruction in the gang's issue order
  pc      : DWord
  place   : CmdPlace
  op      : CmdOp
  x       : HandleArgs
  a       : Word
  b       : Word
  fill    : Word                -- bits 63:32 of AFILL's value (R62, R299)
  handles : List Handle
  started : Bool
  step    : Nat                 -- the next chunk or sequencer step
  ended   : Bool                -- its last step is done
  count   : Nat                 -- the weight it has earned
  flags   : BitVec 7
  status  : Nat
  errAddr : Nat
  errNo   : Nat                 -- handle number of a failure
  walking : Bool                -- held by a replayable fault
  kept    : Bool                -- stopped and kept with a pre-empted team (R295, R350)
  coll    : Option Nat          -- its collective instance
  booked  : Bool                -- the requests of its next chunk have gone to their controllers (R389 to R394)
  deriving DecidableEq, Repr

/-- A collective instance (R318): `crew` lists its participants at crew scope, by identifier (R25). It is kept when it has completed, for a team outside its crew that comes later. -/
structure Coll where
  no    : Nat
  scope : Nat
  grid  : Nat
  tag   : Nat
  n     : Nat
  bay   : Nat                   -- of a crew instance
  crew  : List Nat
  abort : Bool
  done  : Bool
  deriving DecidableEq, Repr

/-- An element operation on its way to a bank ALU (R309, R313 to R315): Op on 4 bytes; `op` is 0 add, 1 min, 2 max,
3 and, 4 or, 5 xor, 6 mov. `value` is the operand in 256 bits, an exact sum where `exact` says so; `count` and `mag` are
the number and the largest |CRT| of the summands that formed a RES28 operand (R79); `ops` counts the operations it is (R310). -/
structure BankOp where
  id    : Nat
  bank  : Nat                   -- 64 times the bay and the bank within the slice
  cmd   : Nat
  key   : Nat
  ty    : Ty
  op    : Nat
  sat   : Bool
  rnd   : Nat
  value : Nat
  exact : Bool
  count : Nat
  mag   : Nat
  ops   : Nat
  deriving DecidableEq, Repr

/-- The tag of a tile slot (R327). -/
structure SlotTag where
  valid  : Bool
  fmt    : BitVec 6
  spc    : BitVec 2
  scaled : Bool
  holder : Option Nat           -- gang slot number of the holder
  deriving DecidableEq, Repr

/-- The state of an accumulator beside its data (R327). -/
structure AccTag where
  mode   : BitVec 2
  cnt    : Word
  flags  : BitVec 7
  holder : Option Nat
  deriving DecidableEq, Repr

/-- The operating point of a unit (R55, R56): its point, a new one that waits to apply, the lower clock of a quadrant
clock change in progress. -/
structure UnitPt where
  unit    : PowerUnit
  point   : Nat
  pending : Option Nat
  slow    : Option Nat
  deriving DecidableEq, Repr

/-- A tagged instruction (R423), with the quadrant cycles in which it issued and in which its operands are sampled (R141). -/
structure Tagged where
  gid   : Nat
  seq   : Nat
  pc    : DWord
  grid  : Word
  team  : Nat
  gidx  : Nat
  joint : Nat
  phase : Nat
  issue  : Nat
  sample : Nat
  deriving DecidableEq, Repr

/-- A quadrant (R5, R36, R209, R281, R327, R347, R370, R371, R376, R423). -/
structure Quad where
  cycle    : Nat
  vd       : Option Nat         -- the VD resident in a shared quadrant
  stay     : Nat                -- UC at the start of its stay
  leaving  : Option Nat         -- the outgoing VD from the end of its stay to the end of the rinse
  incoming : Option Nat
  rinsing  : Bool
  portFree : Nat                -- cycle from which its scratch port is free (R209)
  icache   : List Nat           -- instruction-cache lines, most recently used first: place in memory / 128 (log 4)
  fills    : List (Nat × Nat)   -- lines on their way to it, with the cycle from which they are there (R281)
  slots    : List SlotTag
  accs     : List AccTag
  burst    : Nat                -- the array's burst counter
  warm     : Nat                -- cycle from which a tile step takes a ramp-up (R347)
  ran      : Bool               -- tile steps have run since the array was last idle
  ready    : Option Nat         -- idle in an open burst, holding ready up to this cycle
  tagged   : Option Tagged
  untilTag : Nat                -- issues until the next instruction is tagged
  deriving DecidableEq, Repr

/-- The issue of one fetch port in the current cycle (R232, R233): the gang, the lanes, the cycle in which operands are
sampled (R141), and whether it is the secondary port. -/
structure Port where
  gid       : Nat
  lanes     : Lanes
  sample    : Nat
  secondary : Bool
  mates     : Lanes             -- the lanes that the other port issued in this cycle (R195)
  order     : Nat               -- the device's count of issues with this one (R36)
  deriving DecidableEq, Repr

/-! ### Device-wide registers -/

/-- The rate block (R41 to R45). -/
structure RateBlock where
  capw    : BitVec 12
  floor   : Word
  clamps  : BitVec 16
  overrun : Nat
  capadj  : Bool
  clamp   : Bool
  pmeas   : BitVec 16
  devRate : Word
  freeUntil : Nat               -- the last microsecond of UC whose evaluations skip the hysteresis test after a release (R50)
  deriving DecidableEq, Repr

/-- The common-store block (R305, R306). -/
structure CommonStore where
  abanks : Nat
  busy   : Bool
  cfgerr : Bool
  deriving DecidableEq, Repr

/-- The mending pass (R388, R396, R398): PHASE, ACT, REFUSED, NEXT, whether granule NEXT is MOVING, and the stack that is
being retired. -/
structure Mend where
  phase   : BitVec 16
  act     : Bool
  refused : Bool
  next    : Nat
  moving  : Bool
  stack   : Nat
  deriving DecidableEq, Repr

/-- An activation counter (R392): a row of a channel, its count, and its place in its bank's watch list. -/
structure RowCount where
  channel : Nat
  row     : Nat
  count   : Nat
  watched : Bool
  deriving DecidableEq, Repr

/-- A repair in progress (R400). -/
inductive Repair where
  | core (core : Nat)
  | row (channel row : Nat)
  | bank (bay bank : Nat)
  deriving DecidableEq, Repr

/-- The registers of the host link (R402). -/
structure Link where
  fto     : BitVec 6
  up      : Bool
  farDown : Bool
  cause   : BitVec 2
  herrs   : BitVec 16
  hmwSize : BitVec 22
  hmwBase : BitVec 10
  deriving DecidableEq, Repr

/-- A fabric port (R405, R408): its working lanes, whether a change of lanes is in progress, and whether it runs in
Ethernet mode. -/
structure FabricPort where
  lanes    : Nat
  changing : Bool
  ethernet : Bool
  deriving DecidableEq, Repr

/-- A frame that a channel has taken (R408): its time stamp and its bytes. -/
structure Frame where
  sec   : BitVec 48
  ns    : Word
  bytes : List Byte
  deriving DecidableEq, Repr

/-- An ingress channel (R409, R412 to R414): its registers, its loss count, the frames that wait. -/
structure Ingress where
  en     : Bool
  port   : BitVec 2
  log2n  : BitVec 5
  ctx    : BitVec 12
  etype  : BitVec 16
  ring   : BitVec 56
  icb    : BitVec 56
  widx   : Word
  state  : BitVec 2
  ecode  : BitVec 6
  drops  : BitVec 24
  lc     : Word
  ridx   : Word                 -- RIDX as last read
  frames : List Frame
  begun  : Bool                 -- the first frame is being written (R412, R413)
  slot   : Nat                  -- slots of it that are written
  clearing : Bool               -- a command has been acted on, and a walk holds the write of CMD (R410, R415)
  deriving DecidableEq, Repr

/-- A hot patch that is staged (R419), with UC when its hand-over began. -/
structure Staged where
  image : PatchImage
  since : Nat
  deriving DecidableEq, Repr

/-- The Worrid block (R420) and what the management core holds beside it (R417 to R421). -/
structure Worrid where
  wver     : Word
  bootStat : BitVec 2
  pstat    : BitVec 3
  busy     : Bool
  paddr    : DWord
  mr       : List (BitVec 512)
  wext     : BitVec 512                    -- the digest written at 0x040
  table    : List (BitVec 8 × BitVec 32)   -- the entries that patches have replaced
  staged   : Option Staged
  deriving DecidableEq, Repr

/-- The debug stop (R424). -/
structure Debug where
  arm     : Bool
  stopped : Bool
  held    : Nat               -- the team that is stopped, by its identifier
  ctx     : BitVec 12
  gridSeq : Word
  team    : Word
  dump    : DWord
  deriving DecidableEq, Repr

/-- A log header (R422). -/
structure LogHeader where
  ering : DWord
  elen  : Word
  eidx  : Word
  cring : DWord
  clen  : Word
  cidx  : Word
  deriving DecidableEq, Repr

/-- A step that has sent requests and acts when they are performed, at a stage of its work (R389 to R394). -/
structure Wait where
  step  : Instr
  stage : Nat
  reqs  : List Nat
  bad   : Bool                  -- one of them came back with an uncorrectable error (R393, R394)
  deriving DecidableEq, Repr

/-- What the device tells the host beside memory: an answer to a request, a report, a read's data. -/
inductive Msg where
  | vector (vd vec : Nat)                                         -- an MSI-X vector (R356)
  | fatal                                                         -- DEVFATAL (R393)
  | portMode (port : Nat) (ok : Bool)                             -- NOMODE when not ok (R14)
  | mapping (accepted : Bool)                                     -- R13, R307
  | hostData (bytes : List Byte) (poison : Bool)                  -- a CXL.mem read (R402)
  | hostDone (error : Bool)                                       -- a CXL.mem write (R402)
  | peerData (peer : Nat) (bytes : List Byte) (poison : Bool)     -- a peer's read or atomic (R404)
  | peerDone (peer : Nat)                                         -- a peer's write (R404)
  | peerCombined (peer : Nat) (flags : BitVec 7)                   -- a peer's K-path operation, with its flags (R404, R313)
  | peerRefused (peer : Nat)                                      -- R404
  | measurements (blocks : List (BitVec 512)) (handover : Bool) (base version : Word) (digest : BitVec 512)
      (signature : BitVec 4096)                                   -- R421
  | repaired (done : Bool)                                        -- R400
  | pageFault (host : Bool) (ctx : Nat)                           -- R89: to the hypervisor, or to the context's guest
  deriving DecidableEq, Repr

/-- The state of the device. -/
structure State where
  variant   : Config.Variant
  agenda    : List Instr
  turn      : Nat               -- the quadrant whose cycle is next in this round; past the last one, the joints' turn (R259)
  ports     : List Port
  joining   : List (List Port)  -- issued joint events that wait for their sampling cycle, each before what is performed after it (R259)
  arrivals  : List Instr        -- engine arrivals of this round (R259)
  again     : List Instr        -- steps that could not act yet, tried again in the next round (log 1)
  waits     : List Wait         -- steps that wait for the requests they have sent
  nextId    : Nat
  freeCount : Nat
  halted    : Bool
  issues    : Nat               -- cycles in which a gang has issued, of all quadrants (R36)
  mem       : List Host.Cell    -- every space, and the data of the tile slots and accumulators (log 4)
  sealed    : List Nat          -- sealed 64 KiB granules: space tag and address / 65536
  sealing   : List Sealing      -- SEALs and UNSEALs that wait for writes in flight, in their order (R112, R229)
  reqs      : List Req
  gangs     : List Gang
  teams     : List Team
  grids     : List Grid
  contexts  : List Context
  vds       : List VD
  queues    : List Queue        -- those that have been notified or set up; the others as `Queue.unlisted` (log 17)
  pools     : List Pool
  hqt       : List (Nat × Word) -- the host queue table's nonzero entries (R372)
  cmds      : List Cmd          -- in the order in which they reached their engines
  colls     : List Coll
  bankOps   : List BankOp       -- in the order in which they reach the banks
  quads     : List Quad
  points    : List UnitPt       -- units that are not at point 0 with nothing pending
  rate      : RateBlock
  cstore    : CommonStore
  hbm       : List Nat          -- surviving stacks, ascending (R395)
  mend      : Mend
  miss      : List (Nat × Word) -- nonzero MISS counters (R391)
  rows      : List RowCount     -- nonzero activation counters (R392)
  badLines  : List Nat          -- lines that stay bad until a whole write (R394): key / 64
  repairs   : List Repair
  spares    : List Nat          -- spare cores left on each die (R5, R400)
  lostCores : List Nat          -- cores with no spare left (R400)
  tier2Gone : List Nat          -- retired second-tier channels (R400)
  link      : Link
  deviceId  : BitVec 8          -- R404
  peersOn   : List Nat          -- peer ids that the host has enabled (R404)
  fabric    : List FabricPort
  ingress   : List Ingress
  tcm       : List Host.Cell    -- the management core's 256 KiB, which no rule reads or writes (R7)
  worrid    : Worrid
  dbg       : Debug
  devLog    : LogHeader
  uc        : DWord
  sec       : BitVec 48
  ns        : Word
  msgs      : List Msg
  deriving DecidableEq, Repr

/-! ### Reset -/

/-- A virtual device at reset (R369, R45, R51; log 6 for the rest). -/
def VD.reset : VD :=
  { quads := 0, weight := 1, dlq := 0, quantum := 1000, qeff := 1000, qzero := false, qadj := false, gqt := 0, qmiss := 0,
    sharew := 0, shareRate := 0x100, energy := 0, seq := 0, dlc := 0, children := [], credits := [0, 0, 0], ring := 0,
    log2n := 0, interval := 0, index := 0 }

/-- A slot at reset (R327). -/
def SlotTag.reset : SlotTag := ⟨false, 0, 0, false, none⟩
/-- An accumulator at reset (R327). -/
def AccTag.reset : AccTag := ⟨0, 0, 0, none⟩

/-- A quadrant at reset (R327, R347, R371; log 6 for the rest). -/
def Quad.reset : Quad :=
  { cycle := 0, vd := none, stay := 0, leaving := none, incoming := none, rinsing := false, portFree := 0, icache := [], fills := [],
    slots := List.replicate 16 SlotTag.reset, accs := List.replicate 8 AccTag.reset, burst := 0, warm := 0, ran := false,
    ready := none, tagged := none, untilTag := 0 }

/-- The rate block at reset (R41 to R45). -/
def RateBlock.reset : RateBlock :=
  { capw := 600, floor := 0x100, clamps := 0, overrun := 0, capadj := false, clamp := false, pmeas := 0, devRate := 0x100,
    freeUntil := 0 }

/-- An ingress channel at reset (R409, R414). -/
def Ingress.reset : Ingress :=
  { en := false, port := 0, log2n := 4, ctx := 0, etype := 0, ring := 0, icb := 0, widx := 0, state := 0, ecode := 0,
    drops := 0, lc := 0, ridx := 0, frames := [], begun := false, slot := 0, clearing := false }

/-- A fabric port at reset: four lanes, Skewendi mode (R14, R405). -/
def FabricPort.reset : FabricPort := ⟨4, false, false⟩

/-- The Worrid block at reset (R417, R420). -/
def Worrid.reset : Worrid :=
  { wver := 0, bootStat := 0, pstat := 0, busy := false, paddr := 0, mr := List.replicate 8 0, wext := 0, table := [], staged := none }

/-- The state of a part of a variant right after reset. -/
def State.resetOf (v : Config.Variant) : State :=
  { variant := v, agenda := [], turn := 0, ports := [], joining := [], arrivals := [], again := [], waits := [], nextId := 1, freeCount := 0, halted := false, issues := 0, mem := [],
    sealed := [], sealing := [], reqs := [], gangs := [], teams := [], grids := [], contexts := [],
    vds := List.replicate 64 VD.reset, queues := [], pools := [], hqt := [], cmds := [], colls := [], bankOps := [],
    quads := List.replicate v.quads Quad.reset, points := [], rate := RateBlock.reset,
    cstore := ⟨32, false, false⟩, hbm := List.range v.hbm, mend := ⟨0, false, false, 0, false, 0⟩, miss := [],
    rows := [], badLines := [], repairs := [], spares := List.replicate v.dies 4, lostCores := [], tier2Gone := [],
    link := ⟨15, false, false, 0, 0, 0, 0⟩, deviceId := 0, peersOn := [], fabric := List.replicate 36 FabricPort.reset,
    ingress := List.replicate 16 Ingress.reset, tcm := [], worrid := Worrid.reset, dbg := ⟨false, false, 0, 0, 0, 0, 0⟩,
    devLog := ⟨0, 0, 0, 0, 0, 0⟩, uc := 0, sec := 0, ns := 0, msgs := [] }

/-- The machine right after reset: the G9 variant (log 2). -/
def State.reset : State := State.resetOf .g9

end Sys2Proof.Machine
end

