-- ==== Sys2Proof/Machine/Parts.lean ====
section
/-!
DEFINITION. The parts of the state and how each is found and changed, who owns a quadrant and what work is charged to (R52, R370), memory
bytes in the one canonical list (R63, log 4, log 5), the map of device memory to channels (R386, R387, R395), and the requests
that a unit of the device sends by itself (R389, R391).
-/
namespace Sys2Proof.Machine
open Sys2Proof

/-! ### Parts of the state -/

/-- The gang of an identifier. -/
def State.gang? (s : State) (gid : Nat) : Option Gang := s.gangs.find? (fun g => g.gid == gid)
/-- Replace the gang with the identifier of `g`. -/
def State.putGang (s : State) (g : Gang) : State :=
  { s with gangs := s.gangs.map (fun h => if h.gid == g.gid then g else h) }
/-- Change the gang of an identifier. -/
def State.onGang (s : State) (gid : Nat) (f : Gang → Gang) : State :=
  { s with gangs := s.gangs.map (fun h => if h.gid == gid then f h else h) }
/-- The team of an identifier. -/
def State.team? (s : State) (id : Nat) : Option Team := s.teams.find? (fun t => t.id == id)
/-- Change the team of an identifier. -/
def State.onTeam (s : State) (id : Nat) (f : Team → Team) : State :=
  { s with teams := s.teams.map (fun t => if t.id == id then f t else t) }
/-- The grid of an identifier. -/
def State.grid? (s : State) (id : Nat) : Option Grid := s.grids.find? (fun g => g.id == id)
/-- Change the grid of an identifier. -/
def State.onGrid (s : State) (id : Nat) (f : Grid → Grid) : State :=
  { s with grids := s.grids.map (fun g => if g.id == id then f g else g) }
/-- The context of an identifier. -/
def State.context? (s : State) (id : Nat) : Option Context := s.contexts.find? (fun c => c.id == id)
/-- Change the context of an identifier. -/
def State.onContext (s : State) (id : Nat) (f : Context → Context) : State :=
  { s with contexts := s.contexts.map (fun c => if c.id == id then f c else c) }
/-- Change a quadrant. -/
def State.onQuad (s : State) (q : Nat) (f : Quad → Quad) : State := { s with quads := modifyAt s.quads q f }
/-- The cycle count of a quadrant. -/
def State.cycleOf (s : State) (q : Nat) : Nat := match s.quads[q]? with | some x => x.cycle | none => 0
/-- The grid of a gang. -/
def State.gridOf (s : State) (g : Gang) : Option Grid :=
  match s.team? g.team with | some t => s.grid? t.grid | none => none
/-- The context of a gang. -/
def State.contextOf (s : State) (g : Gang) : Option Context :=
  match s.gridOf g with | some x => s.context? x.ctx | none => none
/-- `$clock` of a gang in a cycle of its quadrant (R131). -/
def Gang.clockAt (g : Gang) (cycle : Nat) : Nat := (cycle + (2 ^ 64 - g.admitted % 2 ^ 64)) % 2 ^ 64
/-- Change tile slot t of a quadrant. -/
def State.onSlot (s : State) (q t : Nat) (f : SlotTag → SlotTag) : State :=
  s.onQuad q fun x => { x with slots := modifyAt x.slots t f }
/-- Change accumulator a of a quadrant. -/
def State.onAcc (s : State) (q a : Nat) (f : AccTag → AccTag) : State :=
  s.onQuad q fun x => { x with accs := modifyAt x.accs a f }
/-- The context number of a gang, 0 where it has none. -/
def State.ctxOf (s : State) (g : Gang) : Nat := match s.contextOf g with | some k => k.id | none => 0
/-- The VD of a context. -/
def State.vdOfContext (s : State) (ctx : Nat) : Nat := match s.context? ctx with | some c => c.desc.vd | none => 0
/-- Virtual device v. -/
def State.vd? (s : State) (v : Nat) : Option VD := s.vds[v]?
/-- Change a virtual device. -/
def State.onVd (s : State) (v : Nat) (f : VD → VD) : State := { s with vds := modifyAt s.vds v f }
/-- The physical queue q. -/
def State.queue? (s : State) (q : Nat) : Option Queue := s.queues.find? (fun x => x.q == q)
/-- Change a queue. -/
def State.onQueue (s : State) (q : Nat) (f : Queue → Queue) : State :=
  { s with queues := s.queues.map (fun x => if x.q == q then f x else x) }
/-- The command of an identifier. -/
def State.cmd? (s : State) (id : Nat) : Option Cmd := s.cmds.find? (fun c => c.id == id)
/-- Change a command. -/
def State.onCmd (s : State) (id : Nat) (f : Cmd → Cmd) : State :=
  { s with cmds := s.cmds.map (fun c => if c.id == id then f c else c) }
/-- Change a channel. -/
def State.onIngress (s : State) (c : Nat) (f : Ingress → Ingress) : State := { s with ingress := modifyAt s.ingress c f }
/-- Tell the host. -/
def State.tell (s : State) (m : Msg) : State := { s with msgs := s.msgs ++ [m] }
/-- Quadrant q; the reset quadrant where there is none. -/
def State.quad (s : State) (q : Nat) : Quad := s.quads.getD q Quad.reset
/-- A fresh identifier, and the state in which it is used up. -/
def State.fresh (s : State) : Nat × State := (s.nextId, { s with nextId := s.nextId + 1 })

/-- Work that follows, put at the end of the agenda (log 1). -/
def State.later (s : State) (work : List Instr) : State := { s with agenda := s.agenda ++ work }

/-- Work that follows, where it is not to follow already. -/
def State.laterOnce (s : State) (i : Instr) : State := if s.agenda.contains i || s.again.contains i then s else s.later [i]

/-- A step that could not act yet is tried again in the next round (log 1). -/
def State.retry (s : State) (i : Instr) : State := { s with again := s.again ++ [i] }

/-- An issued joint event of the gang waits for its sampling cycle (R259): the gang is not at a boundary. -/
def State.midIssue (s : State) (gid : Nat) : Bool := s.joining.any fun u => u.any fun p => p.gid == gid

/-! ### The VDs of a quadrant (R370, R371) -/

/-- Bit q of QUADS of a VD, where the part has the quadrant and its core is in service. -/
def State.hasQuad (s : State) (v q : Nat) : Bool :=
  (match s.vd? v with | some d => d.quads.getLsbD q | none => false) && decide (q < s.variant.quads) && !s.lostCores.contains (q / 4)
    && !s.repairs.contains (.core (q / 4))

/-- The VDs that share a quadrant (R370). -/
def State.sharers (s : State) (q : Nat) : List Nat := (List.range 64).filter fun v => s.hasQuad v q

/-- The VD that owns a quadrant's cycles (R52, R370, R371): between two stays the outgoing one, else its one VD or the resident
one of its sharers; none where no VD has it. -/
def State.ownerOf (s : State) (q : Nat) : Option Nat :=
  match (s.quad q).leaving, s.sharers q with
  | some v, _ => some v
  | none, [] => none
  | none, [v] => some v
  | none, _ => (s.quad q).vd

/-! ### Rates, points and charges (03) -/

/-- The VD rate ρ_v (R51): the device rate, or the VD's own where it has a share and that is higher. -/
def State.vdRate (s : State) (v : Nat) : Word :=
  match s.vd? v with
  | some d => if d.sharew ≠ 0 ∧ s.rate.devRate.toNat < d.shareRate.toNat then d.shareRate else s.rate.devRate
  | none => s.rate.devRate

/-- The effective local rate λ (R38, R46, R53): ρ_v without an override, else Max(L, Max(Trunc(ρ_v·φ), MIN)), and no less than the
smallest rate that can be in force. -/
def localRate (ρ : Word) (rlim : DWord) (override : Option Word) : Word :=
  match override with
  | none => ρ
  | some l =>
    let floor := ρ.toNat * ((rlim.toNat / 2 ^ 56) + 1) / 256
    BitVec.ofNat 32 (max (max l.toNat (max floor (rlim.toNat % 2 ^ 32))) 0x100)

/-- The VD of a gang, 0 where it has none. -/
def State.vdOf (s : State) (g : Gang) : Nat := match s.gridOf g with | some x => x.vd | none => 0

/-- The effective local rate of a gang (R53, R54): a DRAINING gang's last one. -/
def State.gangRate (s : State) (g : Gang) : Word :=
  match g.life with
  | .draining => g.lastRate
  | _ => localRate (s.vdRate (s.vdOf g)) (match s.contextOf g with | some c => c.desc.rlim | none => 0) g.override

/-- What a unit's operating point is (R55, R61): point 0 where nothing is listed. -/
def State.unitPt (s : State) (u : PowerUnit) : UnitPt :=
  (s.points.find? (fun p => p.unit == u)).getD ⟨u, 0, none, none⟩
/-- Set a unit's operating point; the point-0 state is not listed. -/
def State.setUnit (s : State) (p : UnitPt) : State :=
  let rest := s.points.filter (fun x => x.unit != p.unit)
  { s with points := if p = ⟨p.unit, 0, none, none⟩ then rest else rest ++ [p] }

/-- Charge energy in pJ to a VD (R52). -/
def State.charge (s : State) (v pj : Nat) : State := s.onVd v fun d => { d with energy := d.energy + pj }

/-- `$time` in nanoseconds. -/
def State.timeNs (s : State) : Nat := s.sec.toNat * 10 ^ 9 + s.ns.toNat

/-! ### Memory -/

/-- What a byte that nothing has written reads as (log 5). -/
def memBlank : Byte := 0#8

/-- The byte at a key (log 4). -/
def memRead : List Host.Cell → Nat → Byte
  | [], _ => memBlank
  | (k, b) :: rest, a => if a = k then b else if a < k then memBlank else memRead rest a

/-- Store a byte, keeping the canonical form: keys rising, no blank byte listed. -/
def memWrite : List Host.Cell → Nat → Byte → List Host.Cell
  | [], a, b => if b = memBlank then [] else [(a, b)]
  | (k, x) :: rest, a, b =>
    if a < k then (if b = memBlank then (k, x) :: rest else (a, b) :: (k, x) :: rest)
    else if a = k then (if b = memBlank then rest else (k, b) :: rest)
    else (k, x) :: memWrite rest a b

/-- The canonical form of memory from a lower bound on its keys. -/
def memWfFrom (low : Nat) : List Host.Cell → Bool
  | [] => true
  | (k, b) :: rest => decide (low ≤ k) && decide (b ≠ memBlank) && memWfFrom (k + 1) rest
/-- Memory is in canonical form: keys strictly rising, no entry equal to the blank byte. -/
def Memory.wf (m : List Host.Cell) : Bool := memWfFrom 0 m

/-- n bytes from a key upward, as a little-endian number (R63). -/
def memLoad (m : List Host.Cell) (a : Nat) : Nat → Nat
  | 0 => 0
  | n + 1 => (memRead m a).toNat + 256 * memLoad m (a + 1) n
/-- The low n bytes of a number from a key upward (R63). -/
def memStore (m : List Host.Cell) (a : Nat) : Nat → Nat → List Host.Cell
  | 0, _ => m
  | n + 1, x => memStore (memWrite m a (BitVec.ofNat 8 x)) (a + 1) n (x / 256)
/-- Store a list of bytes from a key upward. -/
def memStoreBytes (m : List Host.Cell) (a : Nat) : List Byte → List Host.Cell
  | [] => m
  | b :: bs => memStoreBytes (memWrite m a b) (a + 1) bs
/-- Bytes as a little-endian number (R63). -/
def bytesNat : List Byte → Nat
  | [] => 0
  | b :: bs => b.toNat + 256 * bytesNat bs
/-- n bytes from a key upward, in address order. -/
def memBytes (m : List Host.Cell) (a : Nat) (n : Nat) : List Byte := (List.range n).map fun i => memRead m (a + i)

/-- The key under which the byte at an address of a space is kept (log 4): spaces do not overlap. -/
def keyOf (sp : Space) (a : Nat) : Nat :=
  (match sp with
  | .device => 0 | .tier2 => 1 | .common => 2 | .far => 3 | .scratch => 4 | .peer id => 16 + id) * 2 ^ 64 + a

/-- Read n bytes at a key as a number. -/
def State.load (s : State) (key n : Nat) : Nat := memLoad s.mem key n
/-- Write n bytes at a key. -/
def State.store (s : State) (key n x : Nat) : State := { s with mem := memStore s.mem key n x }
/-- Write bytes at a key. -/
def State.storeBytes (s : State) (key : Nat) (bs : List Byte) : State := { s with mem := memStoreBytes s.mem key bs }

/-- The key of a byte of a block of a scratch section (R206): a core has 2^20 bytes, a section 2^18, a block 4,096. -/
def blockKey (b : Block) (off : Nat) : Nat :=
  keyOf .scratch (b.core * 2 ^ 20 + b.section_ * 2 ^ 18 + b.block * 4096 + off)

/-- The scratch size of a team: the demand rounded up to 4 KiB (R22, R90). -/
def scratchSize (k : Kernel) : Nat := roundUp k.scratch 4096

/-- The place of a team address in the team's blocks (R23, R206): line a >> 7 lies on the core at place line mod C,
as core-local line line div C, in that core's block line div 32. -/
def Team.place (t : Team) (a : Nat) : Nat × Nat × Nat :=
  let c := max t.cores.length 1
  let line := a / 128
  (line % c, (line / c) / 32, ((line / c) % 32) * 128 + a % 128)

/-- The key of the byte at a team address. -/
def Team.scratchKey (t : Team) (a : Nat) : Nat :=
  let p := t.place a
  let perCore := (t.blocks.filter (fun b => b.core == t.cores.getD p.1 0))
  match perCore[p.2.1]? with
  | some b => blockKey b p.2.2
  | none => keyOf .scratch (2 ^ 40 + a)

/-! ### The map of device memory (R386, R387, R395, R398) -/

/-- Usable device memory in bytes: CAP of `$memcap` (R388, R395), which a mending pass lowers when it starts (R398). -/
def State.memcap (s : State) : Nat := (s.hbm.length - (if s.mend.act then 1 else 0)) * 2 ^ 36

/-- The stacks of the map that serves a device physical address: in a mending pass a granule that is NEW has the new map
(R398, R399). -/
def State.stacksFor (s : State) (dpa : Nat) : List Nat :=
  if s.mend.act ∧ s.mend.next < dpa / 65536 then s.hbm.filter (fun x => x != s.mend.stack) else s.hbm

/-- Stack and local byte of a device physical address (R395). -/
def stackOf (hbm : List Nat) (dpa : Nat) : Nat × Nat :=
  let n := max hbm.length 1
  let g := dpa / 4096
  let q := g / n
  let r := g % n
  (hbm.getD ((r + (q ^^^ (q / 32))) % n) 0, q * 4096 + dpa % 4096)

/-- The memory channel of an address of device memory or the second tier (R386, R387); 0 for another space. -/
def State.channelOf (s : State) (sp : Space) (a : Nat) : Nat :=
  match sp with
  | .device => let p := stackOf (s.stacksFor a) a; 32 * p.1 + (p.2 / 256) % 32
  | .tier2 => 384 + (a / 4096) % 16
  | _ => 0

/-- The channel byte of an address (R386, R387). -/
def State.channelByte (s : State) (sp : Space) (a : Nat) : Nat :=
  match sp with
  | .device => let p := stackOf (s.stacksFor a) a; p.2 / 8192 * 256 + p.2 % 256
  | .tier2 => (a / 4096) / 16 * 4096 + a % 4096
  | _ => a

/-! ### Requests (R213, R389, R391) -/

/-- Time in units of 64 ns, the clock of deadline stamps (R389). -/
def State.now64 (s : State) : Nat := ((s.sec.toNat * 10 ^ 9 + s.ns.toNat) / 64) % 2 ^ 16

/-- The access width in bytes of a memory type (R204, R210). -/
def accWidth (t : Ty) : Nat := tyWidth t / 8

/-- The bytes of a lane's part of a request: width. -/
def Req.width (r : Req) : Nat := accWidth r.ty

/-- A store, or an atomic that returns no value: what a MOVING granule holds (R399). -/
def ReqKind.posted (k : ReqKind) : Bool :=
  match k with | .store => true | .atomic _ r => !r | _ => false

/-- A unit of the device that reads or writes memory by itself: its requester number (R391), its service class and how far ahead of now
its stamp lies (R389), and the context and the team that an error in what it reads concerns (R393), where it works for any. -/
structure Source where
  who   : Nat
  cls   : Nat
  ahead : Nat
  ctx   : Nat
  team  : Nat
  deriving DecidableEq, Repr

/-- The number of no context (R373 has 4,096 of them). -/
def noCtx : Nat := 4096
/-- The identifier of no team and of no gang. -/
def noTeam : Nat := 0

/-- The requester number of the dispatcher (R391). -/
def dispatcherNo : Nat := 1425

/-- The requester number of the host (R391). -/
def hostNo : Nat := 1424
/-- The least number that no requester of R391 has: peers and the mending pass are counted nowhere. -/
def uncounted : Nat := 2 ^ 16

/-- The dispatcher, for a context (R389). DESIGN CHOICE (log 13): its reads have the class of its writes. -/
def dispatcherFor (ctx : Nat) : Source := ⟨dispatcherNo, 6, 512, ctx, noTeam⟩
/-- Ingress channel c in a context (R389, R409). -/
def ingressSource (c ctx : Nat) : Source := ⟨1408 + c, 1, 16, ctx, noTeam⟩
/-- The host over CXL.mem (R389, R402). -/
def hostSource : Source := ⟨hostNo, 3, 64, noCtx, noTeam⟩
/-- A peer; DESIGN CHOICE (log 13): R389 gives it no class, and it has the host's. -/
def peerSource : Source := ⟨uncounted + 1, 3, 64, noCtx, noTeam⟩
/-- The copies of the mending pass (R389, R398). -/
def mendSource : Source := ⟨uncounted + 2, 7, 1024, noCtx, noTeam⟩

/-- A request of a unit: everything but what it does. Its place and OWN follow. -/
def State.unitReq (s : State) (u : Source) (kind : ReqKind) (ty : Ty) (sp : Space) (own addr : Nat) (accs : List LaneAcc) (rel : Bool) :
    Req :=
  { id := 0, gid := 0, team := u.team, ctx := u.ctx, own := own, seq := 0, kind := kind, ty := ty, space := sp,
    channel := s.channelOf sp addr, accs := accs, acq := false, rel := rel, who := u.who, cls := u.cls,
    stamp := (s.now64 + u.ahead) % 2 ^ 16, due := none, quad := 0, sent := s.uc.toNat, served := false }

/-- The memory type of the parts in which a unit stores n bytes at an address: as wide as both allow, so that no part crosses a line. -/
def partTy (n addr : Nat) : Ty :=
  let fits : Nat → Bool := fun w => decide (n % w = 0) && decide (addr % w = 0)
  if fits 16 then .b128 else if fits 8 then .u64 else if fits 4 then .u32 else .u8

/-- The posted stores of a number of n bytes to an address of a space: one request for each line of 64 bytes, in order; with `rel` each
comes after everything that a unit sent before it. -/
def State.storeReqs (s : State) (u : Source) (rel : Bool) (sp : Space) (own addr n x : Nat) : List Req :=
  let w := accWidth (partTy n addr)
  let parts : List LaneAcc := (List.range (n / w)).map fun i => ⟨0, keyOf sp addr + w * i, x / 2 ^ (8 * w * i) % 2 ^ (8 * w), 0⟩
  ((parts.map fun a => a.key / 64).eraseDups).map fun l =>
    s.unitReq u .store (partTy n addr) sp own (64 * l % 2 ^ 64) (parts.filter fun a => decide (a.key / 64 = l)) rel

/-- Put requests in flight. -/
def State.addReqs (s : State) (rs : List Req) : State :=
  { s with reqs := s.reqs ++ rs, nextId := s.nextId + rs.length }

/-- Requests as they leave a unit, each with an identifier; those of no gang stand in the order in which they leave. -/
def State.numbered (s : State) (rs : List Req) : List Req :=
  rs.mapIdx fun i (q : Req) => { q with id := s.nextId + i, seq := if q.gid = 0 then s.nextId + i else q.seq }

/-- A unit sends requests: the controllers, the ports or the banks take them up. -/
def State.send (s : State) (rs : List Req) : State :=
  (s.addReqs (s.numbered rs)).later ((s.numbered rs).map fun q => .storePerformed q.id)

/-- OWN of a structure that the device reads and writes by physical address, which no page gives (R374). DESIGN CHOICE (log 13): what
belongs to a context counts as context memory, what belongs to the device as device-owned. -/
def Source.own (u : Source) : Nat := if u.ctx = noCtx then 3 else 0

/-- A unit stores n bytes at an address of device memory (R389). -/
def State.post (s : State) (u : Source) (addr n x : Nat) : State := s.send (s.storeReqs u false .device u.own addr n x)
/-- A unit stores n bytes at an address of device memory, with release (R422). -/
def State.postRel (s : State) (u : Source) (addr n x : Nat) : State := s.send (s.storeReqs u true .device u.own addr n x)

/-- A store of a unit that is on its way. -/
def Req.unitStore (r : Req) : Bool := r.gid == 0 && r.kind == .store && !r.served

/-- Memory as the units of the device see it: the stores that they have sent are done. -/
def State.seen (s : State) : List Host.Cell :=
  (s.reqs.filter Req.unitStore).foldl (fun m r => r.accs.foldl (fun m a => memStore m a.key r.width a.data) m) s.mem
/-- n bytes at a key as a unit of the device reads them. -/
def State.devLoad (s : State) (key n : Nat) : Nat := memLoad s.seen key n

/-! ### Steps that wait for their requests -/

/-- The entry of a step that waits, at a stage of its work. -/
def State.waitOf (s : State) (i : Instr) (stage : Nat) : Option Wait := s.waits.find? fun w => w.step == i && w.stage == stage
/-- A request of the entry is still on its way. -/
def State.waitRuns (s : State) (w : Wait) : Bool := s.reqs.any fun r => w.reqs.contains r.id

/-- A step sends requests and acts when they are performed: it is tried again until then (R389 to R394). With no request it acts now; a
step that waits at a later stage has passed this one. -/
def State.await (s : State) (i : Instr) (stage : Nat) (rs : List Req) (act : State → State) : State :=
  match s.waitOf i stage with
  | some w => if s.waitRuns w then s.retry i else act { s with waits := s.waits.erase w }
  | none =>
    if rs.isEmpty || s.waits.any (fun w => w.step == i && decide (stage < w.stage)) then act s
    else
      ({ s.send rs with waits := s.waits ++ [⟨i, stage, (s.numbered rs).map (·.id), false⟩] } : State).retry i

/-- A step that has passed a stage of its work and is held there tries again without its requests. -/
def State.holdAt (s : State) (i : Instr) (stage : Nat) : State := ({ s with waits := s.waits ++ [⟨i, stage, [], false⟩] } : State).retry i
/-- A step waits for the requests that it has sent since a state. -/
def State.awaitSince (s t : State) (i : Instr) (stage : Nat) : State :=
  ({ t with waits := t.waits ++ [⟨i, stage, (List.range (t.nextId - s.nextId)).map (s.nextId + ·), false⟩] } : State).retry i
/-- The step waits at the stage. -/
def State.awaits (s : State) (i : Instr) (stage : Nat) : Bool := (s.waitOf i stage).isSome
/-- A request that the step waits for at the stage came back with an uncorrectable error. -/
def State.awaitsBad (s : State) (i : Instr) (stage : Nat) : Bool := match s.waitOf i stage with | some w => w.bad | none => false
/-- A request comes back with an uncorrectable error to the step that waits for it. -/
def State.spoil (s : State) (id : Nat) : State :=
  { s with waits := s.waits.map fun w => if w.reqs.contains id then { w with bad := true } else w }
/-- A step waits for nothing any more. -/
def State.forget (s : State) (i : Instr) : State := { s with waits := s.waits.filter fun w => w.step != i }

end Sys2Proof.Machine
end

