-- ==== Sys2Proof/Machine/Ops.lean ====
section
/-!
DEFINITION. The named operations over the state: shapes and register writes (R132 to R137), results on their way (R142, R143), the
logs (R422), context faults (R266) and the taking of a trap and the return from one (R267 to R271).
-/
namespace Sys2Proof.Machine
open Sys2Proof

/-! ### Shapes and registers -/

/-- The value of a shape in a lane (R132). -/
def Shape.lane (x : Shape) (l : Nat) : Word :=
  match x with
  | .u v => v
  | .a b st => b + BitVec.ofNat 32 l * st
  | .g v => LaneVec.lane v l

/-- The 32 lanes of a shape. -/
def Shape.lanes (x : Shape) : LaneVec := LaneVec.of x.lane

/-- The shape is G. -/
def Shape.isG : Shape → Bool
  | .g _ => true
  | _ => false
/-- The shape is U. -/
def Shape.isU : Shape → Bool
  | .u _ => true
  | _ => false
/-- The 2-bit tag (R132). -/
def Shape.tag : Shape → Nat
  | .u _ => 0
  | .a _ _ => 1
  | .g _ => 2

/-- Press (R135): U when every lane is equal, A when the lanes step by one stride, else G. -/
def press (v : LaneVec) : Shape :=
  let x := LaneVec.lane v
  if laneIds.all (fun l => x l == x 0) then .u (x 0)
  else
    let st := x 1 - x 0
    if laneIds.all (fun l => x l == x 0 + BitVec.ofNat 32 l * st) then .a (x 0) st else .g (LaneVec.of x)

/-- The write mask holds all 32 lanes (R134). -/
def fullWidth (m : Lanes) : Bool := m == 0xFFFFFFFF#32

/-- The register after a write under R135: pressed when full-width, else unfolded and merged. A write to a register
drops its error mark. -/
def Reg.write (r : Reg) (mask : Lanes) (vals : LaneVec) : Reg :=
  if fullWidth mask then ⟨press vals, none⟩ else ⟨.g (LaneVec.merge mask vals r.shape.lanes), r.mark⟩

/-- Register n of a gang; U(0) where there is none. -/
def Gang.reg (g : Gang) (n : Nat) : Reg := g.regs.getD n ⟨.u 0#32, none⟩
/-- Number of registers R of a gang. -/
def Gang.r (g : Gang) : Nat := g.regs.length
/-- Predicate n: p7 is true in every lane (R129). -/
def Gang.pred (g : Gang) (n : Nat) : Lanes := if n = 7 then 0xFFFFFFFF#32 else g.preds.getD n 0#32
/-- k register n in a lane. -/
def Gang.kreg (g : Gang) (n l : Nat) : BitVec 16 := (g.kregs.getD n []).getD l 0#16
/-- Modulo register n. -/
def Gang.modreg (g : Gang) (n : Nat) : ModReg := g.mods.getD n ⟨0#64, 0#32, 0#32⟩
/-- The live lanes (R30). -/
def Gang.live (g : Gang) : Lanes := Lanes.of fun l => (g.lanes.map (·.live)).getD l false
/-- The number of registers tagged G (R137). -/
def Gang.gCount (g : Gang) : Nat := (g.regs.filter (fun r => r.shape.isG)).length
/-- Lane state ℓ. -/
def Gang.lane (g : Gang) (l : Nat) : LaneState := g.lanes.getD l ⟨0#64, 0, false, 0, false⟩

/-- Write a register (R135, R278). -/
def Gang.writeReg (g : Gang) (w : RegWrite) : Gang :=
  { g with regs := modifyAt g.regs w.n (fun r => match w.exact with
      | some x => x
      | none => r.write w.mask w.vals) }
/-- Write a predicate; a write to p7 is discarded (R129). -/
def Gang.writePred (g : Gang) (w : PredWrite) : Gang :=
  { g with preds := modifyAt g.preds w.n (fun p => (p &&& ~~~w.mask) ||| (w.vals &&& w.mask)) }
/-- Write a modulo register (R130). -/
def Gang.writeMod (g : Gang) (w : Nat × ModReg) : Gang := { g with mods := setAt g.mods w.1 w.2 }

/-- Put an error mark on a register (R220). -/
def Gang.markReg (g : Gang) (n : Nat) (m : ErrMark) : Gang :=
  { g with regs := modifyAt g.regs n (fun r => { r with mark := some m }) }

/-- Everything a result writes, at once: registers, predicates, modulo registers, then the error mark. -/
def Gang.applyResult (g : Gang) (r : Result) : Gang :=
  let g := r.regs.foldl Gang.writeReg g
  let g := r.preds.foldl Gang.writePred g
  let g := r.mods.foldl Gang.writeMod g
  match r.err with
  | none => g
  | some m => r.regs.foldl (fun g w => g.markReg w.n m) g

/-- Insert by due cycle, after those that are due no later: the order in which fixed results are written (R142). -/
def insertDue (r : Result) : List Result → List Result
  | [] => [r]
  | x :: xs => if r.due < x.due then r :: x :: xs else x :: insertDue r xs

/-- The fixed results due by a cycle, earliest first, in issue order within a cycle (R142). -/
def Gang.dueFixed (g : Gang) (cycle : Nat) : List Result :=
  (g.results.filter (fun r => r.kind == .fixed && decide (r.due ≤ cycle))).foldl (fun acc r => insertDue r acc) []

/-- The gang as an instruction sampled in a cycle sees it: the fixed results due by then are written (R142). -/
def Gang.viewAt (g : Gang) (cycle : Nat) : Gang := (g.dueFixed cycle).foldl Gang.applyResult g

/-- The gang with every fixed result written: its tags are those the budget counts (R137). -/
def Gang.settled (g : Gang) : Gang :=
  ((g.results.filter (fun r => r.kind == .fixed)).foldl (fun acc r => insertDue r acc) []).foldl Gang.applyResult g

/-- The operand codes of the registers that are pending (R143); a result kept over a pre-emption holds none of them until
the restore is over (log 10). -/
def Gang.pendingCodes (g : Gang) : List Nat :=
  (g.results.filter (fun r => r.kind == .variable && !r.held)).flatMap fun r =>
    r.regs.map (·.n) ++ r.preds.map (fun p => 0x200 + p.n) ++ r.mods.map (fun m => 0x210 + m.1)

/-- The lines reserved for pending full-width writes whose register is not tagged G (R137). -/
def Gang.reserved (g : Gang) : Nat :=
  ((g.results.flatMap (·.reserve)).filter (fun n => !(g.reg n).shape.isG)).eraseDups.length

/-- Some result has not been written (R144). -/
def Gang.outstanding (g : Gang) : Bool :=
  g.results.any fun r => !(r.held || (r.regs.isEmpty && r.preds.isEmpty && r.mods.isEmpty))

/-! ### Traps -/

/-- The causes of R268. -/
inductive Cause where
  | illegal | operand | regidx | shapeOvf | member | brx | align | page | prot | sealed | mrace | lderr | capx | unimpl
  | hdesc | tslot | joint | brk | swtrap | preempt
  deriving DecidableEq, Repr

/-- CODE of `$cause` (R268). -/
def Cause.code : Cause → Nat
  | .illegal => 1 | .operand => 2 | .regidx => 3 | .shapeOvf => 4 | .member => 5 | .brx => 6 | .align => 7 | .page => 8
  | .prot => 9 | .sealed => 10 | .mrace => 11 | .lderr => 12 | .capx => 13 | .unimpl => 14 | .hdesc => 15 | .tslot => 16
  | .joint => 17 | .brk => 18 | .swtrap => 19 | .preempt => 20

/-- A trap: its cause, `$tval` and `$tmask` (R268, R269). -/
structure Trap where
  cause : Cause
  tval  : DWord
  tmask : Lanes
  deriving DecidableEq, Repr

/-- `$cause`: ISET, SEC and CODE (R268). -/
def causeWord (iset : Lanes) (secondary : Bool) (c : Cause) : DWord :=
  iset ++ BitVec.ofNat 32 (c.code + (if secondary then 256 else 0))

/-- Reasons of a context fault (R375). -/
def faultNoVec : Nat := 1
def faultNested : Nat := 2
def faultDepth : Nat := 3
def faultBadSave : Nat := 4
def faultAbort : Nat := 5
def faultTearDown : Nat := 6

/-- Lane ℓ comes before lane m: its key (Y, 65,535 − TRUE, PC) is smaller (R232). -/
def LaneState.before (a b : LaneState) : Bool :=
  if a.y != b.y then !a.y
  else if a.depth != b.depth then decide (b.depth < a.depth)
  else decide (a.pc.toNat < b.pc.toNat)
/-- Equal keys (R232). -/
def LaneState.sameKey (a b : LaneState) : Bool := a.y == b.y && a.depth == b.depth && a.pc == b.pc

/-- The lane of a set with the least key, the lowest on a tie (R232). -/
def Gang.minLane (g : Gang) (m : Lanes) : Option Nat :=
  (Lanes.toList m).foldl (fun acc l => match acc with
    | none => some l
    | some k => if (g.lane l).before (g.lane k) then some l else some k) none

/-- The PC of the live lanes with the minimum key, 0 when no lane is live. -/
def Gang.minPc (g : Gang) : DWord := match g.minLane g.live with | some l => (g.lane l).pc | none => 0#64

/-- Lane states at the first instruction of a handler: the live lanes move to the vector (R267). -/
def enterLanes (lanes : List LaneState) (vector : DWord) : List LaneState :=
  lanes.map fun x => if x.live then ⟨vector, 0, false, 0, true⟩ else x

/-- The gang after it has taken a trap (R267): the shadow, the trap registers, the lanes at the vector, no valid latch
entry, HND 1; the handler issues no earlier than 12 cycles after sampling. -/
def Gang.enterTrap (g : Gang) (vector : DWord) (iset : Lanes) (secondary : Bool) (epc : DWord) (t : Trap) (sample : Nat) :
    Gang :=
  { g with
    shadow := ⟨g.lanes, g.serial⟩
    cause := causeWord iset secondary t.cause
    epc := epc &&& 0x00FFFFFFFFFFFFFC#64
    tval := t.tval
    tmask := t.tmask
    lanes := enterLanes g.lanes vector
    serial := false
    latch := [none, none, none]
    hnd := true
    withdrawn := none
    formed := none
    nextIssue := max g.nextIssue (sample + 12) }

/-- The gang becomes DRAINING (R28) and keeps its effective local rate (R54). -/
def Gang.drain (g : Gang) (rate : Word) : Gang := { g with life := .draining, stopped := false, lastRate := rate }

/-! ### Logs (R422) -/

/-- The header of a log that lies in memory at an address. -/
def State.logHeader (s : State) (at_ : Nat) : LogHeader :=
  let rd := fun (o n : Nat) => s.devLoad (keyOf .device (at_ + o)) n
  ⟨BitVec.ofNat 64 (rd 0 8), BitVec.ofNat 32 (rd 8 4), BitVec.ofNat 32 (rd 12 4), BitVec.ofNat 64 (rd 16 8),
    BitVec.ofNat 32 (rd 24 4), BitVec.ofNat 32 (rd 28 4)⟩

/-- An error record of 32 bytes (R422; log 9 for the places of its fields). -/
def State.errorBytes (s : State) (kind status handle addr : Nat) (pc : DWord) : Nat :=
  s.ns.toNat + (s.sec.toNat % 2 ^ 32) * 2 ^ 32 + kind * 2 ^ 64 + status * 2 ^ 72 + handle * 2 ^ 80
    + (addr % 2 ^ 64) * 2 ^ 128 + pc.toNat * 2 ^ 192

/-- An error record into a context's error ring: the record at its index, then, with release, the index one further (R422). A ring of
no records takes none. -/
def State.logError (s : State) (ctx kind status handle addr : Nat) (pc : DWord) : State :=
  match s.context? ctx with
  | none => s
  | some c =>
    let h := s.logHeader c.desc.elog.toNat
    if h.elen = 0 then s
    else
      let s := s.post (dispatcherFor ctx) (h.ering.toNat + 32 * (h.eidx.toNat % h.elen.toNat)) 32
        (s.errorBytes kind status handle addr pc)
      s.postRel (dispatcherFor ctx) (c.desc.elog.toNat + 12) 4 ((h.eidx.toNat + 1) % 2 ^ 32)

/-- A memory event into the device log (R392, R393, R422). -/
def State.logDevice (s : State) (status addr : Nat) : State :=
  let h := s.devLog
  if h.elen = 0 then s
  else
    let s := s.post (dispatcherFor noCtx) (h.ering.toNat + 32 * (h.eidx.toNat % h.elen.toNat)) 32 (s.errorBytes 3 status 0 addr 0)
    { s with devLog := { s.devLog with eidx := h.eidx + 1 } }

/-! ### Context faults and tear-down -/

/-- Grids of a context admit no further team (R28, R366); those that are left without a team complete as torn down. -/
def Grid.stop (x : Grid) (status : Nat) : Grid :=
  { x with next := x.x * x.y * x.z, failed := match x.failed with | some f => some f | none => some status }

/-- The gang belongs to a context. -/
def State.gangIn (s : State) (ctx : Nat) (g : Gang) : Bool :=
  match s.gridOf g with | some x => x.ctx == ctx | none => false
/-- The grid of an identifier belongs to a context. -/
def State.gridIn (s : State) (ctx id : Nat) : Bool :=
  match s.grid? id with | some x => x.ctx == ctx | none => false

/-- The steps by which a place where commands run takes up what is next there (R290, R330). -/
def CmdPlace.next (p : CmdPlace) : List Instr :=
  match p with
  | .engine e => [.engineCommandStart e]
  | .matrix q => [.matrixCommandStart q .array, .matrixCommandStart q .move, .tstatResult q]
/-- Commands have left their places without ending: the commands behind them may start. -/
def State.freePlaces (s : State) (gone : List Cmd) : State := s.later ((gone.map (·.place)).eraseDups.flatMap CmdPlace.next)

/-- The stager of a gang (R290): ST0 for quadrants Q0 and Q1, ST1 for Q2 and Q3. -/
def stagerOf (g : Gang) : EngineId := .stager (2 * (g.quad / 4) + (g.quad % 4) / 2)
/-- The nest sequencer of a gang's core (R290). -/
def nestOf (g : Gang) : EngineId := .nest (g.quad / 4)
/-- The block engine of a gang's core (R290). -/
def blockOf (g : Gang) : EngineId := .block (g.quad / 4 % 16)
/-- The common-store sequencer of the gang's bay (R6, R312). -/
def bankOfGang (g : Gang) : EngineId := .bank (g.quad / 4 / 4)

/-- The place of a command after its gang has moved (R290, R312, R330, R382). -/
def CmdPlace.moved (p : CmdPlace) (g : Gang) : CmdPlace :=
  match p with
  | .engine (.stager _) => .engine (stagerOf g)
  | .engine (.nest _) => .engine (nestOf g)
  | .engine (.block _) => .engine (blockOf g)
  | .engine (.bank _) => .engine (bankOfGang g)
  | .engine (.moveLane _) => .engine (.moveLane g.quad)
  | .matrix _ => .matrix g.quad

/-- The tag of a slot that a TREST `.tile` sets (R337): FMT, SPC and SGD of the handle it has sampled (R282). -/
def tileTag (old : SlotTag) (k : Cmd) : SlotTag :=
  let h : BitVec 512 := match k.handles with | x :: _ => x.bits | [] => 0#512
  { old with valid := true, fmt := h.extractLsb' 90 6, spc := h.extractLsb' 85 2, scaled := decide (h.extractLsb' 82 3 = 0#3) }

/-- What a matrix command has set at its issue (R334, R337): a TREST `.tile` the tag of its slot, a TZERO the MODE of its
accumulator. -/
def State.setAtIssue (s : State) (k : Cmd) : State :=
  match k.place, k.op with
  | .matrix q, .trest => if k.x.sel = 0#4 then s.onSlot q k.x.x1.toNat (tileTag · k) else s
  | .matrix q, .tzero => s.onAcc q k.x.x1.toNat fun t => { t with mode := BitVec.ofNat 2 (k.x.sel.toNat + 1) }
  | _, _ => s
/-- Matrix commands leave their queue without having run: what they set at issue stands (R334). -/
def State.leaveTags (s : State) (gone : List Cmd) : State :=
  (gone.filter fun k => !k.ended && !k.kept).foldl State.setAtIssue s

/-- The commands of a gang that were kept over a pre-emption are queued again, in their order, where the gang now stands (R295,
R350). -/
def State.requeue (s : State) (g : Gang) : State :=
  let kept : List Cmd := (s.cmds.filter fun (k : Cmd) => k.gid == g.gid && k.kept).map fun (k : Cmd) =>
    { k with kept := false, started := false, walking := false, booked := false, place := k.place.moved g }
  ({ s with cmds := s.cmds.filter (fun (k : Cmd) => !(k.gid == g.gid && k.kept)) ++ kept } : State).freePlaces kept

/-- QEFF and QADJ of a VD (R371, R384): WST is 15.979 µs and the largest STOWT among its contexts. -/
def State.quantumInForce (s : State) (vd : Nat) : State :=
  let stowt := (s.contexts.filter fun c => c.desc.vd == vd && !c.ended).foldl (fun m c => max m c.desc.stowt) 0
  s.onVd vd fun v =>
    if v.quantum.toNat < 26 + stowt then { v with qeff := BitVec.ofNat 32 (26 + stowt), qadj := true } else { v with qeff := v.quantum }

/-- Everything of a context stops (R28, R295, R322, R350, R366, R425): its gangs become DRAINING, its commands stop without
arrival or completion word, its collectives abort, its grids and pools end, a debug stop of it ends. -/
def State.stopContext (s : State) (ctx : Nat) : State :=
  { s.leaveTags (s.cmds.filter fun (c : Cmd) => c.ctx == ctx) with
    gangs := s.gangs.map (fun (g : Gang) => if s.gangIn ctx g then g.drain (s.gangRate g) else g)
    cmds := s.cmds.filter (fun (c : Cmd) => c.ctx != ctx)
    colls := s.colls.map (fun (i : Coll) =>
      if s.cmds.any (fun c => c.ctx == ctx && c.coll == some i.no) then { i with abort := true } else i)
    grids := s.grids.map (fun (x : Grid) => if x.ctx == ctx then x.stop 10 else x)
    pools := s.pools.filter (fun (p : Pool) => !s.gridIn ctx p.grid)
    teams := s.teams.map (fun (t : Team) => if s.gridIn ctx t.grid then { t with stowed := false, preempt := false } else t)
    dbg := if s.dbg.stopped && s.teams.any (fun t => t.id == s.dbg.held && s.gridIn ctx t.grid) then { s.dbg with stopped := false }
      else s.dbg }

/-- The 32 bytes of a context's fault record (R375). -/
def State.faultRecord (s : State) (reason : Nat) (pc : DWord) (dropped : Nat) : Nat :=
  reason + (s.ns.toNat + (s.sec.toNat % 2 ^ 32) * 2 ^ 32) * 2 ^ 64 + pc.toNat * 2 ^ 128 + (dropped % 2 ^ 32) * 2 ^ 192

/-- A context fault or a tear-down (R266, R375): everything of the context stops, and the store of the fault record leaves, with
release. -/
def State.contextFault (s : State) (ctx : Nat) (reason : Nat) (pc : DWord) : State :=
  match s.context? ctx with
  | none => s
  | some c =>
    if c.ended then s
    else
      let gone := s.gangs.filter (s.gangIn ctx)
      let cmds := s.cmds.filter fun (k : Cmd) => k.ctx == ctx
      let s := (((s.stopContext ctx).freePlaces cmds).onContext ctx fun c => { c with ended := true, reason := reason }).quantumInForce
        c.desc.vd
      let s := s.postRel (dispatcherFor ctx) c.desc.frec.toNat 32 (s.faultRecord reason pc c.dropped)
      s.later (gone.map (fun g => Instr.gangFree g.gid) ++ [Instr.admissionStep])

/-- The vector of a trap (R266): the kernel's TRAPV when it is not zero, else the context's; PREEMPT goes to the stow
vector. -/
def State.vectorOf (s : State) (g : Gang) (c : Cause) : DWord :=
  match s.gridOf g, s.contextOf g with
  | some x, some k =>
    if c = .preempt then k.desc.svec else if x.kernel.trapv ≠ 0#64 then x.kernel.trapv else k.desc.tvec
  | _, _ => 0#64

/-- Take a trap at the boundary of an instruction (R266, R267, R270): inside a handler it is a context fault NESTED,
with a vector of 0 a context fault NOVEC. -/
def State.takeTrap (s : State) (gid : Nat) (iset : Lanes) (secondary : Bool) (epc : DWord) (t : Trap) (sample : Nat) :
    State :=
  match s.gang? gid with
  | none => s
  | some g =>
    let ctx := s.ctxOf g
    if g.hnd then s.contextFault ctx faultNested g.minPc
    else
      let v := s.vectorOf g t.cause
      if v = 0#64 then s.contextFault ctx faultNoVec g.minPc
      else s.putGang (g.enterTrap v iset secondary epc t sample)

/-- TRET (R271): the live lanes take back their shadow, those of ISET go to `$epc`; HND 0, no valid latch entry. -/
def Gang.leaveTrap (g : Gang) (sample : Nat) : Gang :=
  let iset : Lanes := g.cause.extractLsb' 32 32
  { g with
    lanes := g.lanes.mapIdx fun l x =>
      if x.live then
        let b := g.shadow.lanes.getD l x
        { b with pc := if iset.getLsbD l then g.epc else b.pc, live := true }
      else x
    serial := g.shadow.serial
    hnd := false
    latch := [none, none, none]
    nextIssue := max g.nextIssue (sample + 8) }

end Sys2Proof.Machine
end

