-- ==== Sys2Proof/Machine/Operands.lean ====
section
/-!
DEFINITION. The operand fields of every instruction: which classes a field accepts (R152 and the entries), how many
registers it names (R62, R154, R210), and what a source reads in a lane (R140, R151, R153).
-/
namespace Sys2Proof.Machine
open Sys2Proof

/-- The classes of operand a field accepts (R152 and the entry that narrows it). -/
inductive OpClass where
  | source        -- every class of R151
  | dest          -- vn, indexed, `zero`
  | pred          -- pn as a destination
  | predSource    -- pn as a source (PGET)
  | modulo        -- mn as a destination (MINIT)
  | address       -- vn or indexed (R202)
  | addressMod    -- vn, indexed or mn (R202)
  | direct        -- vn
  | pairConst     -- vn, 8-bit constant or `zero` (R289)
  | directZero    -- vn or `zero`
  | joint         -- vn, indexed, 8-bit constant or `zero` (R255)
  | wordCount     -- constants 0x300 to 0x30E (R248)
  | dataGroup     -- vn, indexed or `zero` (R210)
  | target        -- vn or indexed (R242)
  deriving DecidableEq, Repr

/-- The class accepts the operand; `ownImm`: the instruction uses IMM for its own purpose, so `imm` is refused (R152). -/
def OpClass.accepts (c : OpClass) (ownImm : Bool) (o : Operand) : Bool :=
  match c, o with
  | _, .unlisted _ => false
  | .source, .imm => !ownImm
  | .source, _ => true
  | .dest, .v _ | .dest, .indexed _ _ | .dest, .zero => true
  | .pred, .p _ => true
  | .predSource, .p _ => true
  | .modulo, .m _ => true
  | .address, .v _ | .address, .indexed _ _ => true
  | .addressMod, .v _ | .addressMod, .indexed _ _ | .addressMod, .m _ => true
  | .direct, .v _ => true
  | .pairConst, .v _ | .pairConst, .const _ | .pairConst, .zero => true
  | .directZero, .v _ | .directZero, .zero => true
  | .joint, .v _ | .joint, .indexed _ _ | .joint, .const _ | .joint, .zero => true
  | .wordCount, .const n => decide (n.toNat ≤ 0x0E)
  | .dataGroup, .v _ | .dataGroup, .indexed _ _ | .dataGroup, .zero => true
  | .target, .v _ | .target, .indexed _ _ => true
  | _, _ => false

/-- One operand field that an instruction uses: its number (0 D, 1 A, 2 B, 3 C), its operand, what it accepts, how many
registers it names, the multiple its register number must be of, and whether it is read. -/
structure FieldUse where
  field : Nat
  op    : Operand
  cls   : OpClass
  count : Nat
  align : Nat
  reads : Bool
  deriving DecidableEq, Repr

/-- The operand fields of an instruction, whether it uses IMM for its own purpose, and the registers it names without
a field. -/
structure Uses where
  fields : List FieldUse
  ownImm : Bool
  extra  : List Nat
  deriving DecidableEq, Repr

/-- A field that names single registers, or even pairs when `wide`. -/
def fieldUse (field : Nat) (op : Operand) (cls : OpClass) (wide reads : Bool) : FieldUse :=
  ⟨field, op, cls, if wide then 2 else 1, if wide then 2 else 1, reads⟩
/-- A register destination. -/
def useD (op : Operand) (wide : Bool) : FieldUse := fieldUse 0 op .dest wide false
/-- A predicate destination. -/
def useP (op : Operand) : FieldUse := fieldUse 0 op .pred false false
/-- A general source in field n. -/
def useS (n : Nat) (op : Operand) (wide : Bool) : FieldUse := fieldUse n op .source wide true
/-- A joint source in field n (R255). -/
def useJ (n : Nat) (op : Operand) : FieldUse := fieldUse n op .joint false true

/-- A destination that is a direct register or `zero` (R255, R291, R331, R367, R368). -/
def useC (op : Operand) : FieldUse := fieldUse 0 op .directZero false false

/-- Two sources and a register destination. -/
def uses2 (x : Args) (wd wa wb : Bool) : Uses := ⟨[useD x.d wd, useS 1 x.a wa, useS 2 x.b wb], false, []⟩
/-- One source and a register destination. -/
def uses1 (x : Args) (wd wa : Bool) : Uses := ⟨[useD x.d wd, useS 1 x.a wa], false, []⟩
/-- Three sources and a register destination. -/
def uses3 (x : Args4) (wd wa wb wc : Bool) : Uses :=
  ⟨[useD x.d wd, useS 1 x.a wa, useS 2 x.b wb, useS 3 x.c wc], false, []⟩
/-- Two sources and a predicate destination. -/
def usesP2 (x : Args) (w : Bool) : Uses := ⟨[useP x.d, useS 1 x.a w, useS 2 x.b w], false, []⟩
/-- No operand. -/
def usesNone : Uses := ⟨[], false, []⟩

/-- Registers of a memory operand by type (R210). -/
def memCount (t : Ty) : Nat := match t with | .b128 => 4 | .u64 | .i64 => 2 | _ => 1
/-- The data or destination field of a load or store (R210). -/
def useData (field : Nat) (op : Operand) (t : Ty) (store : Bool) : FieldUse :=
  ⟨field, op, if store then (if t = .b128 then .dataGroup else .source) else .dest, memCount t, memCount t, store⟩
/-- A load: destination and address (R202, R210). -/
def usesLoad (x : MemArgs) (wide : Bool) : Uses :=
  ⟨[useData 0 x.d x.ty false, fieldUse 1 x.a .addressMod wide true], true, []⟩
/-- A store: address and data. DEDUCED (log 32): `imm` as data is refused, since IMM is the byte offset (R152, R161), although R213
names it among the data. -/
def usesStore (x : MemArgs) (wide : Bool) : Uses :=
  ⟨[fieldUse 1 x.a .addressMod wide true, useData 2 x.b x.ty true], true, []⟩
/-- An atomic (R217): C only for `.cas`. -/
def usesAtom (x : AtomArgs) (wideAddr : Bool) : Uses :=
  ⟨[useD x.d (tyWide x.ty), fieldUse 1 x.a .address wideAddr true, useS 2 x.b (tyWide x.ty)]
    ++ (if x.aop = 7#3 then [useS 3 x.c (tyWide x.ty)] else []), true, []⟩

/-- Registers of an RDSR destination by special register (R273). -/
def sprCount (n : Nat) : Nat :=
  if n = 0x07 then 4 else if n = 0x06 ∨ n = 0x0D ∨ n = 0x0E ∨ n = 0x0F ∨ n = 0x12 then 2 else 1

/-- The direct register number of an operand. -/
def directReg : Operand → Option Nat
  | .v n => some n.toNat
  | _ => none

/-- NW of a DEFER (R248). -/
def deferCount (x : Args) : Nat := match x.b with | .const n => n.toNat | _ => 0

/-- Every instruction of the vector core, with the classes of its fields (R175 to R367). A step of an engine has none. DESIGN CHOICE
(log 32): `vn` as D of R194 (PGET) and of R197 takes an indexed register and `zero` too, as a destination register does elsewhere (R151),
which the same `vn` of R255 does not. -/
def usesOf : Instr → Uses
  | .iadd x | .isub x | .imul x | .imin x | .imax x | .iadds x | .isubs x => uses2 x (tyWide x.ty) (tyWide x.ty) (tyWide x.ty)
  | .and x | .or x | .xor x | .andn x => uses2 x (tyWide x.ty) (tyWide x.ty) (tyWide x.ty)
  | .imulh x | .idiv x | .irem x | .shrr x => uses2 x false false false
  | .imad x | .isad x => uses3 x false false false false
  | .imadw x => uses3 x true false false true
  | .iabs x | .ineg x | .not x | .brev x | .mov x => uses1 x (tyWide x.ty) (tyWide x.ty)
  | .icmp x => usesP2 x (tyWide x.ty)
  | .isel x => uses3 x (tyWide x.ty) (tyWide x.ty) (tyWide x.ty) false
  | .shl x | .shr x | .sra x | .rotl x => uses2 x (tyWide x.ty) (tyWide x.ty) false
  | .lop3 x | .bfx x | .bfi x | .prmt x | .dot2 x | .dot4 x => uses3 x false false false false
  | .clz x | .popc x => uses1 x false (tyWide x.ty)
  | .padd x | .psub x | .pmul x | .pmin x | .pmax x | .pshr x => uses2 x false false false
  | .fadd x | .fsub x | .fmul x | .fmin x | .fmax x => uses2 x false false false
  | .ffma x | .pffma x => uses3 x false false false false
  | .fcmp x => usesP2 x false
  | .frcp x | .frsq x | .fsqrt x | .fexp2 x | .flog2 x | .fsinp x | .fcosp x | .fclass x | .frnd x => uses1 x false false
  | .pfadd x | .pfmul x => uses2 x false false false
  | .cvt x => { uses1 x (tyWide x.ty) (tyWide ((Ty.ofCode (x.imm.extractLsb' 0 6)).getD .untyped)) with ownImm := true }
  | .cvtn x => ⟨[⟨0, x.d, .dest, 1, 1, tyWidth x.ty != 32 || x.ty == .i8x4 || x.ty == .u8x4⟩, useS 1 x.a false, useS 2 x.b false], true, []⟩
  | .cvtq x => ⟨[⟨0, x.d, .direct, 2, 2, false⟩, ⟨1, x.a, .direct, 4, 4, true⟩], true, []⟩
  | .radd x | .rsub x | .rmul x => uses2 x false false false
  | .rcvt x => { uses1 x false false with ownImm := true }
  | .pand x | .por x | .pxor x => usesP2 x false
  | .pnot x | .pset x => ⟨[useP x.d, useS 1 x.a false], false, []⟩
  | .pget x => ⟨[useD x.d false, fieldUse 1 x.a .predSource false true], false, []⟩
  | .slide x | .shfl x | .bcast x => { uses2 x (tyWide x.ty) (tyWide x.ty) false with ownImm := true }
  | .vote x => ⟨[if x.sel.toNat < 2 then useP x.d else useD x.d false, useS 1 x.a false], true, []⟩
  | .redux x | .scan x => { uses1 x false false with ownImm := true }
  | .matchLanes x => ⟨[if x.sel = 1#4 then useP x.d else useD x.d false, useS 1 x.a (tyWide x.ty)], true, []⟩
  | .ld x => usesLoad x true
  | .st x => usesStore x true
  | .lds x | .ldp x => usesLoad x false
  | .sts x => usesStore x false
  | .stp x => usesStore x false
  | .atom x => usesAtom x true
  | .atoms x => usesAtom x false
  | .pf x => ⟨[fieldUse 1 x.a .address true true], true, []⟩
  | .fence _ | .fencex _ => usesNone
  | .seal x | .unseal x => ⟨[fieldUse 1 x.a .address true true, useS 2 x.b false], true, []⟩
  | .minit x => ⟨[⟨0, x.d, .modulo, 1, 1, false⟩, useS 1 x.a (decide (x.sel = 0#4)), useS 2 x.b false], true, []⟩
  | .lea x => ⟨[useD x.d (decide (x.sel = 0#4)), fieldUse 1 x.a .addressMod (decide (x.sel = 0#4)) true], true, []⟩
  | .bra _ | .yield _ | .exit _ | .nop _ | .sleep _ => usesNone
  | .call _ => ⟨[], true, [0, 1]⟩
  | .ret _ => ⟨[], false, [0, 1]⟩
  | .brx x => ⟨[fieldUse 1 x.a .target true true], false, []⟩
  | .callx x => ⟨[fieldUse 1 x.a .target true true], false, [0, 1]⟩
  | .defer x => ⟨[fieldUse 1 x.a .direct false true, fieldUse 2 x.b .wordCount false true], true,
      match x.a with | .v n => (List.range (deferCount x)).map (n.toNat + ·) | _ => []⟩
  | .jinit x | .jwait x => ⟨[useJ 1 x.a], true, []⟩
  | .jarrive x => ⟨[useC x.d, useJ 1 x.a], true, []⟩
  | .jtest x => if x.sel = 0#4 then ⟨[useP x.d, useJ 1 x.a], true, []⟩ else ⟨[fieldUse 0 x.d .direct false false], true, []⟩
  | .regx x => ⟨[useC x.d, useJ 1 x.a, useJ 2 x.b], true, []⟩
  | .trap _ | .tret _ | .brk _ | .clrrate _ => usesNone
  | .rdsr x => ⟨[⟨0, x.d, .dest, sprCount x.imm.toNat, sprCount x.imm.toNat, false⟩], true, []⟩
  | .wrsr x => ⟨[useS 1 x.a (sprCount x.imm.toNat == 2)], true, []⟩
  | .setrate x => ⟨[useS 1 x.a false], false, []⟩
  | .cksum x => ⟨[⟨0, x.d, .direct, 2, 2, decide (x.sel = 0#4)⟩, fieldUse 1 x.a .direct false true], false, []⟩
  | .stsh x => ⟨[fieldUse 0 x.d .dest false false, fieldUse 1 x.a .address (decide (x.sel = 0#4)) true,
      fieldUse 2 x.b .direct false true], true, []⟩
  | .ldsh x => ⟨[fieldUse 0 x.d .direct false false, fieldUse 1 x.a .address (decide (x.sel = 0#4)) true], true, []⟩
  | .getsh x => ⟨[useD x.d false, fieldUse 1 x.a .direct false true], false, []⟩
  | .launch x => ⟨[useC x.d, fieldUse 1 x.a .address true true], true, []⟩
  | .lstat x => ⟨[useC x.d, useS 1 x.a false], false, []⟩
  | .hset x => ⟨[fieldUse 1 x.a .pairConst true true], true, []⟩
  | .hget x => ⟨[fieldUse 0 x.d .directZero true false], true, []⟩
  | .acopy x | .afill x | .bcopy x | .nest x | .nestr x | .nestq x => ⟨[useC x.d, useJ 1 x.a, useJ 2 x.b], true, []⟩
  | .bankop x | .bankred x | .coll x | .cres x => ⟨[useC x.d, useJ 1 x.a, useJ 2 x.b], true, []⟩
  | .tclaim x => ⟨[useC x.d, useJ 1 x.a, useJ 2 x.b], true, []⟩
  | .trel x => ⟨[useJ 1 x.a, useJ 2 x.b], true, []⟩
  | .tzero x | .tmma x | .tmmas x | .tstat x => ⟨[useC x.d], true, []⟩
  | .tdrain x | .tsave x | .trest x => ⟨[useC x.d, useJ 1 x.a], true, []⟩
  | .tburst x => ⟨[useJ 1 x.a], true, []⟩
  | .fixedResultWrite _ | .variableResultReturn _ _ _ | .storePerformed _ | .pageWalkComplete _ | .sleepExpiry _
  | .gangFree _ | .admissionStep | .schedulerIssue _ | .engineCommandStart _ | .commandChunk _ _
  | .commandComplete _ | .bankOperation _ | .collInstanceComplete _ _ _ | .matrixCommandStart _ _
  | .matrixSequencerStep _ | .matrixCommandComplete _ _ | .tstatResult _ | .burstHoldExpiry _ | .adjusterStep _
  | .unitEvaluation _ | .pointChangeApply _ | .clockChangeComplete _ | .pwrcapWrite _ | .ratefloorWrite _
  | .vdshareWrite _ _ | .cspartWrite _ | .registerWrite _ _ | .quantumWrite _ _ | .queueNotify _ _
  | .guestNotify _ _ _ | .launchPacket _ | .poolPacket _ | .copyPacket _ | .signalPacket _ | .waitPacket _
  | .waitPoll _ | .ratePacket _ | .markPacket _ | .copyPacketComplete _ _ | .basketFlushTimeout _ _
  | .quantumExpiry _ | .hostPreemptRequest _ _ _ | .preemptEntry _ | .engineStop _ | .gangStowed _ | .rinseStart _
  | .rinseComplete _ | .teamRestore _ | .contextTeardown _ | .memoryRequest _ _ | .rowRefresh _ _ | .mendGo _
  | .granuleMoving | .granuleCommit | .coreSpare _ | .rowRepair _ _ | .bankSpare _ _ | .channelRetire _
  | .repairComplete _ | .hostMemAccess _ | .farTimeout | .linkDown | .linkUp | .resume | .fabricRequest _ _
  | .fabricLaneFail _ | .portDegradeComplete _ | .portModeRequest _ _ | .ptpMessage _ | .frameArrival _ _ _ _
  | .framePublish _ | .lossSlotWrite _ | .icbPoll _ | .ingressEnable _ _ | .ingressStop _ | .powerUp _
  | .deviceReset | .patchGo _ | .patchCommit | .patchAbandon | .wext _ _ | .getMeasurements | .samplingArm _ _ _ _
  | .sampleRecord _ | .debugArm _ | .teamStop | .teamResume | .mappingRequest _ _ _ | .contextCreate _ _
  | .preemptRequestWithdrawn _ => usesNone

/-! ### What a source reads -/

/-- What an instruction reads from: the gang as sampled, and the immediate as an operand (R153). -/
structure Src where
  g   : Gang
  imm : Word

/-- The register number an operand names in a lane (R140, R151). -/
def Gang.regNo (g : Gang) (o : Operand) (l : Nat) : Option Nat :=
  match o with
  | .v n => some n.toNat
  | .indexed k b => some (8 * b.toNat + (g.kreg k.toNat l).toNat)
  | _ => none

/-- The 32-bit value of a source in a lane (R129, R151, R153). -/
def Src.word (c : Src) (o : Operand) (l : Nat) : Word :=
  match o with
  | .v n => (c.g.reg n.toNat).shape.lane l
  | .indexed _ _ => (c.g.reg ((c.g.regNo o l).getD 0)).shape.lane l
  | .p n => if (c.g.pred n.toNat).getLsbD l then 1#32 else 0#32
  | .k n => (c.g.kreg n.toNat l).setWidth 32
  | .m n => (c.g.modreg n.toNat).off
  | .latch n => match c.g.latch.getD n.toNat none with | some e => e.shape.lane l | none => 0#32
  | .imm => c.imm
  | .zero => 0#32
  | .lane => BitVec.ofNat 32 l
  | .const n => n.signExtend 32
  | .unlisted _ => 0#32

/-- The odd half of a source read as a pair: a register's own odd half, the sign of a constant, 0 of `zero`, `lane`, pn and kn
(R62, R153). DESIGN CHOICE (log 29): of a latch entry and of a modulo register, of which no rule says it, it is 0. -/
def Src.high (c : Src) (o : Operand) (l : Nat) : Word :=
  match o with
  | .v n => (c.g.reg (n.toNat + 1)).shape.lane l
  | .indexed _ _ => (c.g.reg ((c.g.regNo o l).getD 0 + 1)).shape.lane l
  | .imm => if c.imm.msb then 0xFFFFFFFF#32 else 0#32
  | .const n => if n.msb then 0xFFFFFFFF#32 else 0#32
  | _ => 0#32

/-- The value of a source in a lane as a number, of 64 bits when `wide`. -/
def Src.val (c : Src) (o : Operand) (wide : Bool) (l : Nat) : Nat :=
  (c.word o l).toNat + (if wide then (c.high o l).toNat * 2 ^ 32 else 0)

/-- The shape of a source, for the scalar path (R129, R136). DESIGN CHOICE (log 29): an indexed source counts as G there, also
where every lane names the same register. -/
def Src.shape (c : Src) (o : Operand) : Shape :=
  match o with
  | .v n => (c.g.reg n.toNat).shape
  | .m n => .u (c.g.modreg n.toNat).off
  | .latch n => match c.g.latch.getD n.toNat none with | some e => e.shape | none => .u 0#32
  | .imm => .u c.imm
  | .zero => .u 0#32
  | .lane => .a 0#32 1#32
  | .const n => .u (n.signExtend 32)
  | _ => .g (LaneVec.of (c.word o))

/-- The source reads as U, both halves when it is a pair (R136). -/
def Src.isU (c : Src) (o : Operand) (count : Nat) : Bool :=
  match o with
  | .v n => (List.range count).all fun i => (c.g.reg (n.toNat + i)).shape.isU
  | _ => (c.shape o).isU

/-- The registers of a field in the issued lanes. -/
def FieldUse.regs (u : FieldUse) (g : Gang) (lanes : Lanes) : List Nat :=
  match u.op with
  | .v n => (List.range u.count).map (n.toNat + ·)
  | .indexed _ _ => ((Lanes.toList lanes).flatMap fun l =>
      (List.range u.count).map ((g.regNo u.op l).getD 0 + ·)).eraseDups
  | _ => []

/-- The codes of everything a field names: registers, predicates, modulo registers. -/
def FieldUse.codes (u : FieldUse) (g : Gang) (lanes : Lanes) : List Nat :=
  match u.op with
  | .p n => [0x200 + n.toNat]
  | .m n => [0x210 + n.toNat]
  | _ => u.regs g lanes

/-- The codes of everything an instruction names, its guard among them (R143, R221). -/
def namedCodes (i : Instr) (h : Head) (g : Gang) (lanes : Lanes) : List Nat :=
  (0x200 + h.guard.p.toNat) :: ((usesOf i).extra ++ (usesOf i).fields.flatMap (fun u => u.codes g lanes))

/-- The G registers an instruction collects from the banks (R141). -/
def bankRegs (i : Instr) (g : Gang) (lanes : Lanes) : List Nat :=
  (((usesOf i).extra.filter (fun _ => match i with | .ret _ | .defer _ => true | _ => false))
    ++ ((usesOf i).fields.filter (·.reads)).flatMap (fun u => u.regs g lanes)).eraseDups.filter
      (fun n => (g.reg n).shape.isG)

end Sys2Proof.Machine
end

