-- ==== Sys2Proof/Machine/Residues.lean ====
section
/-!
DEFINITION. RES28 words (R76), malformed operands (R77), CRT (R78), and their arithmetic (R192).
-/
namespace Sys2Proof.Machine
open Sys2Proof

/-- M, the product of the moduli 511, 512 and 513. -/
def resM : Nat := 134217216

/-- The three residues of a word, channels 1 to 3 (R76). -/
structure Res28 where
  c1 : Nat
  c2 : Nat
  c3 : Nat
  deriving DecidableEq, Repr

/-- A word is malformed: C1 = 511, C3 > 512, or bits 31:28 not zero (R77). -/
def resMalformed (w : Nat) : Bool :=
  decide (bitsOf w 0 9 = 511) || decide (512 < bitsOf w 18 10) || decide (bitsOf w 28 4 ≠ 0)

/-- The residues of a word, reduced as R77 says. -/
def resRead (w : Nat) : Res28 := ⟨bitsOf w 0 9 % 511, bitsOf w 9 9, bitsOf w 18 10 % 513⟩

/-- The word of three residues, bits 31:28 zero (R76). -/
def resWord (r : Res28) : Nat := r.c3 * 2 ^ 18 + r.c2 * 2 ^ 9 + r.c1

/-- Res(n): the nonnegative remainders of an integer (R76, R78). -/
def resOf (n : Int) : Res28 := ⟨(n % 511).toNat, (n % 512).toNat, (n % 513).toNat⟩

/-- CRT (R78): the signed value of three residues. -/
def resCrt (r : Res28) : Int :=
  let u := (r.c1 * 67239936 + r.c2 * 133955073 + r.c3 * 67239424) % resM
  if 67108608 ≤ u then (u : Int) - resM else u

/-- The channels of two words joined by an operation on integers, each modulo its own modulus (R192). -/
def resOp (op : Int → Int → Int) (a b : Res28) : Res28 :=
  ⟨(op a.c1 b.c1 % 511).toNat, (op a.c2 b.c2 % 512).toNat, (op a.c3 b.c3 % 513).toNat⟩

/-- RNG of R77: an operand is malformed. -/
def resFlags (ws : List Nat) : Flags := flagIf (ws.any resMalformed) fRng

/-- RADD, RSUB and RMUL on words (R192). -/
def resBinary (op : Int → Int → Int) (a b : Nat) : Res :=
  ⟨resWord (resOp op (resRead a) (resRead b)), resFlags [a, b]⟩

/-- Res(n) as a word, RNG outside the signed range (R78, R193). -/
def resFromInt (n : Int) : Res :=
  ⟨resWord (resOf n), flagIf (decide (n < -67108608) || decide (67108607 < n)) fRng⟩

end Sys2Proof.Machine
end

