-- ==== Sys2Proof/Machine/Translate.lean ====
section
/-!
DEFINITION. Address translation in two stages (R87, R88, R374), the map of device memory to channels (R386, R387, R395),
the class and stamp of a request (R389), and fetching the bytes of an instruction (R148).
-/
namespace Sys2Proof.Machine
open Sys2Proof

/-- A walk that ends at an entry that is not present: its replay bit, and whether the host stage failed (R89). -/
structure XErr where
  replay : Bool
  host   : Bool
  deriving DecidableEq, Repr

/-- A leaf entry (R374). -/
structure Leaf where
  base : Nat
  size : Nat
  x    : Bool
  w    : Bool
  r    : Bool
  tgt  : Nat
  own  : Nat
  peer : Nat
  rpl  : Bool
  deriving DecidableEq, Repr

/-- Where a virtual address leads: space and physical address, the permissions of both stages together, and OWN. -/
structure Place where
  space : Space
  addr  : Nat
  x     : Bool
  w     : Bool
  r     : Bool
  own   : Nat
  deriving DecidableEq, Repr

/-- The index into the table of a level: VA bits 55:43, 42:30, 29:21, 20:16 (R374). -/
def levelIndex (level va : Nat) : Nat :=
  match level with
  | 0 => bitsOf va 43 13
  | 1 => bitsOf va 30 13
  | 2 => bitsOf va 21 9
  | _ => bitsOf va 16 5
/-- The bytes a leaf of a level maps (R374). -/
def leafSize (level : Nat) : Nat := match level with | 1 => 2 ^ 30 | 2 => 2 ^ 21 | _ => 2 ^ 16

/-- A walk of a stage from a table of a level on: `rd` reads an entry. A leaf at level 0 and a table at level 3 are not
present. -/
def walkFrom (host : Bool) (rd : Nat → Except XErr Nat) (va : Nat) : (fuel level table : Nat) → Except XErr Leaf
  | 0, _, _ => .error ⟨false, host⟩
  | fuel + 1, level, table =>
    match rd (table + 8 * levelIndex level va) with
    | .error e => .error e
    | .ok e =>
      let addr := bitsOf e 12 44 * 4096
      let rpl := decide (bitsOf e 5 1 = 1)
      if bitsOf e 0 1 = 0 then .error ⟨rpl, host⟩
      else if bitsOf e 1 1 = 1 then
        if level = 0 then .error ⟨rpl, host⟩
        else
          let size := leafSize level
          .ok ⟨addr / size * size, size, decide (bitsOf e 4 1 = 1), decide (bitsOf e 3 1 = 1), decide (bitsOf e 2 1 = 1),
            bitsOf e 8 3, bitsOf e 6 2, bitsOf e 56 8, rpl⟩
      else if level = 3 then .error ⟨rpl, host⟩
      else walkFrom host rd va fuel (level + 1) addr

/-- The space a host-stage leaf targets (R374); none for TGT 5 to 7, which fault as not present. -/
def targetSpace (l : Leaf) : Option Space :=
  match l.tgt with
  | 0 => some .device | 1 => some .tier2 | 2 => some .common | 3 => some .far | 4 => some (.peer l.peer) | _ => none

/-- The second tier has the physical address: the tier is fitted (R13), the address lies in it (R386), and its channel is
not retired (R400). -/
def State.hasSpa (s : State) (spa : Nat) : Bool :=
  s.variant.tier2 && decide (spa < 2 ^ 41) && !s.tier2Gone.contains ((spa / 4096) % 16)

/-- The host stage (R88): an intermediate address to a place. Its tables lie in device memory (log 8). -/
def State.hostStage (s : State) (hroot ia : Nat) : Except XErr Place :=
  match walkFrom true (fun a => .ok (s.load (keyOf .device a) 8)) ia 4 0 hroot with
  | .error e => .error e
  | .ok l =>
    match targetSpace l with
    | none => .error ⟨l.rpl, true⟩
    | some sp =>
      let a := l.base + ia % l.size
      if sp = .tier2 ∧ s.hasSpa a = false then .error ⟨false, true⟩
      else .ok ⟨sp, a, l.x, l.w, l.r, l.own⟩

/-- Both stages (R88): the guest's tables are read at intermediate addresses, through the host stage; the permissions are
those both stages grant. -/
def State.translate (s : State) (d : ContextDesc) (va : Nat) : Except XErr Place :=
  if 2 ^ 56 ≤ va then .error ⟨false, false⟩
  else
    match walkFrom false (fun a => match s.hostStage d.hroot.toNat a with
        | .error e => .error e
        | .ok p => .ok (s.load (keyOf p.space p.addr) 8)) va 4 0 d.groot.toNat with
    | .error e => .error e
    | .ok g =>
      match s.hostStage d.hroot.toNat (g.base + va % g.size) with
      | .error e => .error e
      | .ok p => .ok { p with x := p.x && g.x, w := p.w && g.w, r := p.r && g.r }

/-- The bank of a byte of common memory (R307), as 64 times the bay and the bank of its slice. -/
def State.bankNo (s : State) (cpa : Nat) : Nat :=
  let z := s.cstore.abanks * 131072
  64 * (cpa / z) + (cpa % z / 128) % s.cstore.abanks

/-- The service class of a grid's requests (R389). -/
def Cls.service : Cls → Nat
  | .dl => 0 | .hi => 2 | .lo => 4 | .bg => 6

/-- The stamp of a grid's requests: its DEADLINE for DL, else now and 32, 128 or 512 units (R389). -/
def State.stampOf (s : State) (x : Grid) : Nat :=
  match x.cls with
  | .dl => x.deadline % 2 ^ 16
  | .hi => (s.now64 + 32) % 2 ^ 16
  | .lo => (s.now64 + 128) % 2 ^ 16
  | .bg => (s.now64 + 512) % 2 ^ 16

/-- The bytes of an instruction as the fetch finds them (R148): a replayable fault with its stages, a page fault at a byte, a byte without
execute permission, or the twelve bytes. -/
inductive Fetched where
  | replay (hosts : List Bool)
  | page (va : Nat)
  | prot (va : Nat)
  | bytes (bs : List Byte)
  deriving DecidableEq, Repr

/-- The twelve bytes at a program counter, translated page by page (R148): pages are 64 KiB or larger, so that one
translation serves the bytes of one 64 KiB page. -/
def State.fetchBytes (s : State) (d : ContextDesc) (pc : Nat) : Fetched :=
  let next := (pc / 65536 + 1) * 65536
  let n := min 12 (next - pc)
  let parts := (pc, n, s.translate d pc) :: (if n < 12 then [(next, 12 - n, s.translate d next)] else [])
  match parts.find? (fun p => match p.2.2 with | .error e => !e.replay | .ok _ => false) with
  | some p => .page p.1
  | none =>
    match parts.filterMap (fun p => match p.2.2 with | .error e => some e.host | .ok _ => none) with
    | h :: hs => .replay (h :: hs)
    | [] =>
      match parts.find? (fun p => match p.2.2 with | .error _ => false | .ok q => !q.x) with
      | some p => .prot p.1
      | none => .bytes (parts.flatMap fun p => match p.2.2 with
          | .error _ => []
          | .ok q => memBytes s.mem (keyOf q.space q.addr) p.2.1)

/-! ### Accesses of engines and units by virtual address -/

/-- The 64 KiB granule of a physical address in one number (R111). -/
def granuleOf (sp : Space) (a : Nat) : Nat := keyOf sp a / 65536
/-- The address lies in a sealed granule. -/
def State.isSealed (s : State) (sp : Space) (a : Nat) : Bool := s.sealed.contains (granuleOf sp a)
/-- The address lies in the MOVING granule of a mending pass (R398). -/
def State.isMoving (s : State) (sp : Space) (a : Nat) : Bool :=
  sp == .device && s.mend.act && s.mend.moving && decide (a / 65536 = s.mend.next)

/-- The row of an address in its memory channel (log 3). -/
def State.rowOf (s : State) (sp : Space) (a : Nat) : Nat := Config.rowOf (s.channelOf sp a) (s.channelByte sp a)

/-- A repair of a row of its bank holds the address (R400). -/
def State.rowHeldAt (s : State) (sp : Space) (a : Nat) : Bool :=
  (match sp with | .device | .tier2 => true | _ => false) &&
  s.repairs.any fun x => match x with
    | .row c w => c == s.channelOf sp a && Config.bankOfRow c w == Config.bankOfRow c (s.rowOf sp a)
    | _ => false

/-- A repair holds the operations of a bank of the common store (R400). -/
def State.bankHeld (s : State) (bank : Nat) : Bool := s.repairs.contains (.bank (bank / 64) (bank % 64))

/-- The working ports that lead to a peer (R405), ascending. -/
def State.portsTo (s : State) (peer : Nat) : List Nat :=
  (List.range 36).filter fun p => s.variant.portFitted p && decide (Config.portPeer p = some peer) &&
    (match s.fabric[p]? with | some x => decide (0 < x.lanes) && !x.ethernet | none => false)
/-- The port that carries the requests of a source to a peer (R405). -/
def State.portFor (s : State) (peer source : Nat) : Option Nat :=
  let l := s.portsTo peer
  l[(peer + source) % max l.length 1]?

/-- A repair, or a change of lanes of the port to a peer, holds the accesses of a source at an address (R400, R405). -/
def State.placeHeld (s : State) (source : Nat) (sp : Space) (a : Nat) : Bool :=
  match sp with
  | .device | .tier2 => s.rowHeldAt sp a
  | .common => s.bankHeld (s.bankNo a)
  | .peer id => (match s.portFor id source with | some p => (s.fabric.getD p FabricPort.reset).changing | none => false)
  | _ => false

/-- A place on a peer to which no port is left (R405). -/
def State.cutOff (s : State) (sp : Space) : Bool := match sp with | .peer id => (s.portsTo id).isEmpty | _ => false

/-- The spaces a path reaches (R86), by the path numbers of R91; the scratchpad has no virtual address. -/
def pathReaches (path : Nat) (sp : Space) : Bool :=
  match sp with
  | .scratch => path = 0 || path = 1 || path = 2 || path = 3
  | .common => path ≠ 2 && path ≠ 7
  | .device => true
  | .tier2 => path ≤ 3 || path = 5
  | .far => path = 0 || path = 1 || path = 5
  | .peer _ => path = 0 || path = 1 || path = 4 || path = 5

/-- Why an access of an engine or a unit fails (R293, R292). -/
inductive VErr where
  | replay | moving | fault | prot | sealed | capx | far
  deriving DecidableEq, Repr
/-- The STATUS of R292. -/
def VErr.status : VErr → Nat
  | .replay | .moving => 0 | .fault => 1 | .prot => 2 | .sealed => 3 | .capx => 4 | .far => 5

/-- The far tier is not to be reached: it is down (R403), or the device's boot failed and it offers CXL.io only (R417). -/
def State.farGone (s : State) : Bool := s.link.farDown || s.worrid.bootStat == 3#2

/-- Where an access on a path at a virtual address goes, or why it fails: translation, permission and reach, a far tier that is down
(R403), a peer that no port reaches (R404, R405), capacity, a sealed granule (R293). -/
def State.target (s : State) (d : ContextDesc) (path : Nat) (write : Bool) (va : Nat) : Except VErr Place :=
  match s.translate d va with
  | .error e => .error (if e.replay then .replay else .fault)
  | .ok p =>
    if !(if write then p.w else p.r) || !pathReaches path p.space || s.cutOff p.space then .error .prot
    else if p.space == .far && s.farGone then .error .far
    else if p.space == .device && decide (s.memcap ≤ p.addr) then .error .capx
    else if write && s.isSealed p.space p.addr then .error .sealed
    else .ok p

/-- The same for an access that acts at once: a write to the MOVING granule is held (R399), as is what a repair or a port holds (R400,
R405). -/
def State.reach (s : State) (d : ContextDesc) (source path : Nat) (write : Bool) (va : Nat) : Except VErr Place :=
  match s.target d path write va with
  | .error e => .error e
  | .ok p => if (write && s.isMoving p.space p.addr) || s.placeHeld source p.space p.addr then .error .moving else .ok p

/-- The parts of an access of up to 64 KiB: pages are 64 KiB or larger, so that one translation serves a part. -/
def pageParts (va n : Nat) : List (Nat × Nat) :=
  let k := min n (65536 - va % 65536)
  if k < n then [(va, k), (va + k, n - k)] else [(va, n)]

/-- Where the parts of an access lie: place and length of each, in order of address, or the first failure with its address. -/
def State.targetAll (s : State) (d : ContextDesc) (path : Nat) (write : Bool) (va n : Nat) : Except (VErr × Nat) (List (Place × Nat)) :=
  (pageParts va n).foldl (fun acc q => match acc with
    | .error e => .error e
    | .ok l => match s.target d path write (q.1 % 2 ^ 64) with
      | .error e => .error (e, q.1 % 2 ^ 64)
      | .ok p => .ok (l ++ [(p, q.2)])) (.ok [])

/-- n bytes at a virtual address as a unit reads them: what it has sent is done. -/
def State.vload (s : State) (d : ContextDesc) (path va n : Nat) : Except (VErr × Nat) Nat :=
  match s.targetAll d path false va n with
  | .error e => .error e
  | .ok l => .ok (l.foldr (fun q acc => s.devLoad (keyOf q.1.space q.1.addr) q.2 + 2 ^ (8 * q.2) * acc) 0)

/-- The stores by which a unit writes a number of n bytes at a virtual address, in order of address; with `rel` each comes after what
it sent before. -/
def State.vstoreReqs (s : State) (u : Source) (rel : Bool) (d : ContextDesc) (path va n x : Nat) : Except (VErr × Nat) (List Req) :=
  match s.targetAll d path true va n with
  | .error e => .error e
  | .ok l => .ok (l.foldl (fun (acc : List Req × Nat) q =>
      (acc.1 ++ s.storeReqs u rel q.1.space q.1.own q.1.addr q.2 acc.2, acc.2 / 2 ^ (8 * q.2))) ([], x)).1

/-- A unit sends the stores of n bytes at a virtual address. A replayable fault leaves them to be tried again; what a MOVING granule, a
repair or a port holds is held where it is performed (R399, R400, R405). -/
def State.vstore (s : State) (u : Source) (rel : Bool) (d : ContextDesc) (path va n x : Nat) : Except (VErr × Nat) State :=
  match s.vstoreReqs u rel d path va n x with
  | .error e => .error e
  | .ok rs => .ok (s.send rs)

/-- The requests by which a unit reads n bytes at an address of a space, one for each line of 64 bytes: what is read is taken from memory
when they are served. -/
def State.readReqs (s : State) (u : Source) (sp : Space) (own a n : Nat) : List Req :=
  (List.range ((a % 64 + n + 63) / 64)).map fun i =>
    let at_ := a / 64 * 64 + 64 * i
    s.unitReq u .account .untyped sp own at_ [⟨0, keyOf sp at_, 0, 0⟩] false
/-- The requests by which a unit reads n bytes at a virtual address; none where they cannot be reached. -/
def State.vreadReqs (s : State) (u : Source) (d : ContextDesc) (path va n : Nat) : List Req :=
  match s.targetAll d path false va n with
  | .error _ => []
  | .ok l => l.flatMap fun q => s.readReqs u q.1.space q.1.own q.1.addr q.2

end Sys2Proof.Machine
end

