-- ==== Sys2Proof/Machine/Requests.lean ====
section
/-!
DEFINITION. Requests in flight (R213, R389, R399, R427): their order (R99 to R104), what performing one does (R208, R212, R213, R217,
R218), releases (R95, R96), seals (R111, R112, R229), and the accounts of accesses that act at once (R52, R389 to R392).
-/
namespace Sys2Proof.Machine
open Sys2Proof

/-- A loaded value as it stands in the registers: i8 and i16 sign-extended, u8 and u16 zero-extended (R212). -/
def loadedValue (t : Ty) (x : Nat) : Nat := if tyWidth t < 32 then toLane (tyWidth t) (tySigned t) x else x

/-- A request of an instruction: everything its parts share. -/
structure ReqForm where
  kind  : ReqKind
  ty    : Ty
  acq   : Bool
  rel   : Bool

/-- The request of an instruction for bytes of the handle table, which lies in device memory (R287, R289, R373). -/
def tableReq (s : State) (g : Gang) (x : Grid) (kind : ReqKind) (addr : Nat) (accs : List LaneAcc) : Req :=
  { id := s.nextId, gid := g.gid, team := g.team, ctx := x.ctx, own := 1, seq := g.issued, kind := kind, ty := .u64,
    space := .device, channel := s.channelOf .device addr, accs := accs, acq := false, rel := false, who := g.quad,
    cls := x.cls.service, stamp := s.stampOf x, due := none, quad := g.quad, sent := s.uc.toNat, served := false }

/-- A store or an atomic, whose acknowledgement the drain, the fences and the stow wait for (R427). -/
def ReqKind.writes (k : ReqKind) : Bool :=
  match k with | .store | .atomic _ _ => true | _ => false

/-- Two requests touch a common byte. -/
def Req.overlaps (a b : Req) : Bool :=
  a.accs.any fun x => b.accs.any fun y => decide (x.key < y.key + b.width) && decide (y.key < x.key + a.width)

/-- Two stores of a gang that stay in order whatever their bytes: to the scratchpad, and through one fleet window (R100, R103). -/
def Req.keepsOrder (q r : Req) : Bool :=
  q.kind == .store && r.kind == .store && q.space == r.space &&
    (match r.space with | .scratch | .peer _ => true | _ => false)

/-- A request comes before another of its gang: its instruction does, or its lanes of one instruction. -/
def Req.precedes (q r : Req) : Bool := decide (q.seq < r.seq) || (q.seq == r.seq && decide (q.id < r.id))

/-- A request may be performed now: of the gang's earlier requests that are not performed, none touches a byte of it; of those of earlier
instructions none is an acquire, a release waits for all, an acquire waits for releases, and the stores that keep their order stay in it (R99
to R104). What a release and an acquire order, they order for every party, whatever their scope (log 30). -/
def reqReady (s : State) (r : Req) : Bool :=
  s.reqs.all fun q =>
    q.served || q.gid != r.gid || q.kind == .account || r.kind == .account || !q.precedes r ||
      !(q.overlaps r || (decide (q.seq < r.seq) && (q.acq || r.rel || (q.rel && r.acq) || q.keepsOrder r)))

/-- Op of an atomic (R159, R217, R218): the new value and the flags. DESIGN CHOICE (log 32): an add of res28 is the residue addition of
R217, whose RNG is a malformed word's (R77), and no sum of R79, also where a bank ALU performs it. -/
def atomicOp (t : Ty) (aop old b c : Nat) : Res :=
  let w := tyWidth t
  let n := if t = .f32 ∨ t = .res28 then 32 else w
  match aop with
  | 0 =>
    match t with
    | .f32 => fAdd fmtF32 0 false old b
    | .res28 => resBinary (fun a b => a + b) old b
    | _ => Res.pure ((old + b) % 2 ^ n)
  | 1 => if t = .f32 then fMinMax fmtF32 true old b
    else Res.pure (wrapNat n (min (readInt n (tySigned t) old) (readInt n (tySigned t) b)))
  | 2 => if t = .f32 then fMinMax fmtF32 false old b
    else Res.pure (wrapNat n (max (readInt n (tySigned t) old) (readInt n (tySigned t) b)))
  | 3 => Res.pure (old &&& b)
  | 4 => Res.pure (old ||| b)
  | 5 => Res.pure (old ^^^ b)
  | 6 => Res.pure b
  | _ => Res.pure (if old = c then b else old)

/-- What performing the lanes of a request does: memory, the values read, the flags. -/
structure Performed where
  mem   : List Host.Cell
  vals  : List (Nat × Nat)
  flags : Flags

/-- Perform one lane of a request (R208, R212, R213, R218). -/
def performLane (kind : ReqKind) (t : Ty) (p : Performed) (x : LaneAcc) : Performed :=
  let w := accWidth t
  match kind with
  | .load => { p with vals := p.vals ++ [(x.lane, loadedValue t (memLoad p.mem x.key w))] }
  | .store => { p with mem := memStore p.mem x.key w x.data }
  | .atomic aop _ =>
    let old := memLoad p.mem x.key w
    let r := atomicOp t aop old x.data x.cmp
    ⟨memStore p.mem x.key w r.val, p.vals ++ [(x.lane, old)], p.flags ||| r.flags⟩
  | .account => p

/-- Perform a request: its lanes in ascending order, one after the other (R208, R218). -/
def performReq (m : List Host.Cell) (r : Req) : Performed := r.accs.foldl (performLane r.kind r.ty) ⟨m, [], fNone⟩

/-- Put values read into the writes of a result: word `part` of each lane's value. -/
def fillWrites (ws : List RegWrite) (vals : List (Nat × Nat)) : List RegWrite :=
  ws.map fun w => { w with vals := LaneVec.of (fun l => match vals.find? (fun v => v.1 == l) with
    | some v => BitVec.ofNat 32 (v.2 / 2 ^ (32 * w.part))
    | none => LaneVec.lane w.vals l) }

/-- Flags of an atomic as `$status` takes them: those cleared by a later WRSR stay clear (R75, R218). -/
def flagsAfterClears (g : Gang) (before : Nat) (seq : Nat) (f : Flags) : Flags :=
  g.clears.foldl (fun f c => if seq < c.1 ∧ c.1 < before then f &&& ~~~c.2 else f) f

/-- A register write with bits set in every lane. -/
def orInto (f : Word) (w : RegWrite) : RegWrite := { w with vals := LaneVec.of (fun l => LaneVec.lane w.vals l ||| f) }

/-- The values read for the lanes that have not come back with an error: the others stay zero (R220). -/
def Result.goodVals (x : Result) (vals : List (Nat × Nat)) : List (Nat × Nat) :=
  match x.err with
  | some m => vals.filter fun v => !m.lanes.getLsbD v.1
  | none => vals

/-- The flits of 256 bytes a request sends (R59). -/
def Req.flits (r : Req) : Nat := (r.accs.map fun a => a.key / 256).eraseDups.length

/-- The energy of a flit on a fabric port in pJ (R59). -/
def State.portFlit (s : State) (p : Nat) : Nat := (Config.portPoints.getD (s.unitPt (.port p)).point ⟨64, 7, 10000⟩).energy
/-- The energy of a request on a fabric port in pJ (R59). -/
def State.portEnergy (s : State) (p : Nat) (r : Req) : Nat := s.portFlit p * r.flits

/-- The energy of one operation of a slice at its point (R59, R310). -/
def State.sliceEnergy (s : State) (bay : Nat) : Nat := (Config.slicePoints.getD (s.unitPt (.slice bay)).point ⟨2, 1, 600⟩).energy

/-- The lines of 64 bytes a request touches. -/
def Req.lines (r : Req) : List Nat :=
  (r.accs.flatMap fun a => if r.kind = .account then [a.key / 64]
    else (List.range ((a.key % 64 + r.width + 63) / 64)).map fun i => a.key / 64 + i).eraseDups

/-- The request writes all 64 bytes of a line (R394). -/
def Req.fills (r : Req) (line : Nat) : Bool :=
  match r.kind with
  | .account => r.accs.any fun a => decide (a.key / 64 = line ∧ a.data = 1)
  | .store => (List.range 64).all fun i => r.accs.any fun a => decide (a.key ≤ 64 * line + i ∧ 64 * line + i < a.key + r.width)
  | _ => false

/-- The request reads. -/
def Req.reads (r : Req) : Bool := match r.kind with | .load | .atomic _ _ => true | .account => r.ty == .untyped | .store => false

/-- The first address of a request. -/
def Req.addr (r : Req) : Nat := match r.accs with | a :: _ => a.key % 2 ^ 64 | [] => 0

/-- The energy of a request to the common store or to a peer in pJ (R59): for each lane of an atomic, one operation of its slice for
each 4 bytes (R310); the flits on its port. DESIGN CHOICE (log 32): a plain load or store, or an engine's plain access, of common memory
is no bank operation of R309 and R310, and a slice charges nothing for it. -/
def State.requestEnergy (s : State) (r : Req) : Nat :=
  match r.space with
  | .common => s.sliceEnergy (s.bankNo r.addr / 64) * (match r.kind with
      | .atomic _ _ => r.accs.length * max (r.width / 4) 1
      | _ => 0)
  | .peer id => (match s.portFor id r.who with | some p => s.portEnergy p r | none => 0)
  | _ => 0

/-- Charge energy in pJ for the work of a context to its VD (R52); work for no context is no VD's. -/
def State.chargeCtx (s : State) (ctx pj : Nat) : State :=
  match s.context? ctx with | some c => s.charge c.desc.vd pj | none => s

/-- A request has been performed: memory, its charge (R52, R326), the result it fills, the flags in `$status` and in any RDSR that
waits. -/
def State.perform (s : State) (r : Req) : State :=
  let p := performReq s.mem r
  let s := { s with mem := p.mem }.chargeCtx r.ctx (s.requestEnergy r)
  s.onGang r.gid fun g =>
    { g with
      status := g.status ||| flagsAfterClears g (g.issued + 1) r.seq p.flags
      results := g.results.map fun x =>
        if x.seq = r.seq then { x with regs := fillWrites x.regs (x.goodVals p.vals) }
        else if x.statusRead && decide (r.seq < x.seq) then
          { x with regs := x.regs.map (orInto ((flagsAfterClears g x.seq r.seq p.flags).setWidth 32)) }
        else x }

/-- A request is performed and acknowledged at once: it is no longer in flight. -/
def State.retireReq (s : State) (id : Nat) : State := { s with reqs := s.reqs.filter (fun r => r.id != id) }
/-- A request has been performed and its acknowledgement is on the way. -/
def State.markServed (s : State) (id : Nat) : State :=
  { s with reqs := s.reqs.map (fun r => if r.id == id then { r with served := true } else r) }

/-- The load time of a place for a quadrant (R216). -/
def State.loadTime (s : State) (q : Nat) (p : Place) : Nat :=
  match p.space with
  | .common =>
    let bay := s.bankNo p.addr / 64
    if bay = q / 16 then 70 else if bay / 12 = q / 192 then 110 else 170
  | .device => 480
  | .tier2 => 900
  | .far | .peer _ | .scratch => 2001

/-- The least time of a load, in quadrant cycles after sampling (R216): that of the slowest place it reads; copies in a cache
partition, which shorten it, are not modelled (log 19). -/
def State.leastLoadTime (s : State) (q : Nat) (ps : List Place) : Nat := ps.foldl (fun m p => max m (s.loadTime q p)) 0

/-- A write to the MOVING granule is held (R399). -/
def State.movingHeld (s : State) (r : Req) : Bool :=
  r.kind.posted && r.accs.any fun a => s.isMoving r.space (a.key % 2 ^ 64)

/-- What may follow when an acknowledgement arrives: a DRAINING gang is free, a stowing one is STOWED. -/
def ackWork (gid : Nat) : List Instr := if gid = noTeam then [] else [.gangFree gid, .gangStowed gid]

/-- Walks that ended at an entry with the replay bit look again (R89): gangs that are parked, commands that are held. -/
def State.walkers (s : State) : List Instr :=
  (s.gangs.filter fun g => match g.life with | .parked .walk => true | _ => s.cmds.any fun k => k.gid == g.gid && k.walking).map
    fun g => .pageWalkComplete g.gid

/-! ### Releases -/

/-- A request is performed ahead of its turn, and acknowledged, for a release that follows it: all but those a repair, a MOVING
granule, an earlier request or a link holds. The controller of a memory channel still accounts for it (R389 to R394), as does
STORE_PERFORMED for the other places. -/
def State.performEarly (s : State) (r : Req) : State :=
  let away := match r.space with | .far => s.farGone | .peer id => (s.portFor id r.who).isNone | _ => false
  let kept := s.placeHeld r.who r.space r.addr
  if r.served || r.kind == .account || !reqReady s r || s.movingHeld r || away || kept then s
  else
    let s := s.perform r
    match r.space with
    | .scratch => (s.retireReq r.id).later (ackWork r.gid)
    | .device | .tier2 =>
      let lines : List LaneAcc := r.lines.map fun l => ⟨0, 64 * l, if r.fills l then 1 else 0, 0⟩
      let books : Req := { r with kind := .account, ty := if r.kind == .store then .b128 else .untyped, accs := lines }
      ({ s with reqs := s.reqs.map fun (q : Req) => if q.id == r.id then books else q } : State).later
        (ackWork r.gid ++ s.walkers)
    | _ => s.markServed r.id

/-- The earlier accesses of a gang are performed, in the order of their issue (R95, R96). -/
def State.release (s : State) (gid : Nat) : State :=
  (s.reqs.filter fun r => r.gid == gid).foldl State.performEarly s
/-- The accesses of every gang are performed (R112). -/
def State.performAll (s : State) : State := s.reqs.foldl State.performEarly s

/-- An access of the gang is not performed yet. -/
def State.inFlight (s : State) (gid : Nat) : Bool :=
  s.reqs.any fun r => r.gid == gid && !r.served && r.kind != .account
/-- A repair, a link or an access before it holds an access of the gang, so that it cannot be performed ahead of its turn. -/
def State.blocked (s : State) (gid : Nat) : Bool := s.inFlight gid && (s.release gid).inFlight gid

/-! ### Seals (R111, R112, R229) -/

/-- A write in flight goes to one of the granules. -/
def State.writesInto (s : State) (granules : List Nat) : Bool :=
  s.reqs.any fun r => !r.served && (match r.kind with | .store | .atomic _ _ => true | _ => false) &&
    r.accs.any fun a => granules.contains (granuleOf r.space (a.key % 2 ^ 64))

/-- A SEAL waits until no write to its granules is in flight, and each waits for the earlier ones of its granules (R112, R229). -/
def State.sealWaits (s : State) (x : Sealing) : Bool :=
  (x.close && s.writesInto x.granules) ||
    s.sealing.any fun y => decide (y.id < x.id) && y.granules.any x.granules.contains

/-- The seals of a list that need not wait take effect, in their order. -/
def State.takeSeals : State → List Sealing → State
  | s, [] => s
  | s, x :: rest =>
    if s.sealWaits x then s.takeSeals rest
    else
      let kept := s.sealed.filter fun n => !x.granules.contains n
      State.takeSeals { s with
        sealed := if x.close then kept ++ x.granules else kept
        sealing := s.sealing.filter fun y => y.id != x.id } rest

/-! ### Accounts of accesses that act at once -/

/-- The space of a key (log 4), of those a memory controller, the host link or a fabric port serves. -/
def servedSpace (key : Nat) : Option Space :=
  if key < 2 ^ 64 then some .device else if key < 2 ^ 65 then some .tier2
  else if 3 * 2 ^ 64 ≤ key ∧ key < 4 * 2 ^ 64 then some .far
  else if 16 * 2 ^ 64 ≤ key then some (.peer (key / 2 ^ 64 - 16)) else none

/-- The requests that go ahead of accesses that act at once (R52, R389 to R394): one for each 256 bytes, which lie in one channel and one
granule, direction and OWN, with the 64-byte lines it touches, each as `base` but for its place. An access has its key, its OWN and its
width in bits; `data` is 1 for a line that the writes cover whole (R394). -/
def booksOf (s : State) (base : Req) (accs : List (Nat × Nat × Nat)) (write : Bool) : List Req :=
  let whole : Nat → Nat := fun l =>
    let mine : List (Nat × Nat × Nat) := (accs.filter fun a => decide (a.1 / 64 * 64 = l)).eraseDups
    if write ∧ 512 ≤ mine.foldl (fun (n : Nat) a => n + a.2.2) 0 then 1 else 0
  let lines : List (Space × Nat × Nat) :=
    (accs.filterMap fun a => (servedSpace a.1).map fun sp => (sp, a.1 / 64 * 64, a.2.1)).eraseDups
  let place : Space × Nat × Nat → Space × Nat × Nat := fun l => (l.1, l.2.1 / 256, l.2.2)
  let groups := (lines.map place).eraseDups
  groups.map fun g =>
    { base with
      id := 0, own := g.2.2, kind := .account, ty := if write then .b128 else .untyped, space := g.1,
      channel := s.channelOf g.1 (256 * g.2.1 % 2 ^ 64),
      accs := (lines.filter fun l => place l == g).map fun l => ⟨0, l.2.1, whole l.2.1, 0⟩,
      acq := false, rel := false, due := none, served := false }

/-- The accounts of 64-byte lines that an instruction of a gang reads as it issues: by key and OWN. -/
def State.bookReads (s : State) (g : Gang) (x : Grid) (spots : List (Nat × Nat)) : State :=
  s.send (booksOf s (tableReq s g x .account 0 []) (spots.map fun a => (a.1, a.2, 0)) false)

end Sys2Proof.Machine
end

