-- ==== Sys2Proof/Machine/Issue.lean ====
section
/-!
DEFINITION. The one way an instruction is performed for the lanes of a fetch port: the checks of R168 in their order,
parking on pending registers (R143), deferred load errors (R221), the shape budget (R137, R138), traps of either port
(R170), the operand latch (R145), the switch marker (R144), and the commitment of what an instruction's meaning plans.
-/
namespace Sys2Proof.Machine
open Sys2Proof

/-- What an instruction's meaning is given: the state, the gang as it stands and as sampled (R141), the port, the write
mask (R134), the instruction's address and the sampling cycle. -/
structure Ictx where
  s    : State
  g    : Gang
  v    : Gang
  port : Port
  mask : Lanes
  pc   : DWord
  cyc  : Nat

/-- An instruction that reads memory as it issues: the earlier accesses of its gang are performed before it (R99). -/
def Ictx.settle (c : Ictx) : Ictx :=
  let s := c.s.release c.g.gid
  { c with s := s, g := (s.gang? c.g.gid).getD c.g }

/-- An access behind a fence that is not complete: the accesses that the fence orders are performed before it (R105, R224). -/
def Ictx.fenced (c : Ictx) : Ictx := if c.g.holds.isEmpty then c else c.settle

/-- When a result is written (R142, R143). -/
inductive Timing where
  | fixed (x : Nat)              -- x cycles after sampling
  | variable (x : Nat)           -- pending, and not before x cycles after sampling
  | exact (x : Nat)              -- pending, and x cycles after sampling
  deriving DecidableEq, Repr

/-- What an instruction does, once none of its traps applies. -/
structure Plan where
  s      : State                       -- the state outside the gang
  g      : Gang                        -- the gang, its outstanding results and lanes apart
  regs   : List RegWrite
  preds  : List PredWrite
  mods   : List (Nat × ModReg)
  flags  : Flags
  timing : Timing
  err    : Option ErrMark
  reqs   : Bool                        -- the result waits for memory requests of this instruction
  status : Bool                        -- an RDSR of `$status` (R75)
  lanes  : Option (List LaneState)     -- where the lanes go; none: every issued lane moves to address + 12
  next   : Nat                         -- earliest cycle of the gang's next issue, beyond R141
  park   : Option Park
  quiet  : Bool                        -- its result returns when a command or a phase ends

/-- What the meaning answers. -/
inductive Body where
  | trap (t : Trap)
  | park (p : Park)
  | replay (hosts : List Bool) (formed : List (Nat × Nat))   -- a replayable fault: the failing stages, the lanes' addresses
  | fault (reason : Nat)
  | go (p : Plan)

/-- The plan that changes nothing. -/
def Ictx.plan (c : Ictx) : Plan :=
  { s := c.s, g := c.g, regs := [], preds := [], mods := [], flags := fNone, timing := .fixed 2, err := none,
    reqs := false, status := false, lanes := none, next := 0, park := none, quiet := false }

/-- The lowest lane of the write mask, lane L of R254. -/
def Ictx.lead (c : Ictx) : Nat := (Lanes.lowest c.mask).getD 0
/-- The issuing set. -/
def Ictx.iset (c : Ictx) : Lanes := c.port.lanes
/-- The sources, with the immediate as an operand. -/
def Ictx.src (c : Ictx) (imm : Word) : Src := ⟨c.v, imm⟩
/-- The current cycle of the gang's quadrant. -/
def Ictx.now (c : Ictx) : Nat := c.cyc

/-- The guard in every lane (R150). -/
def guardMask (g : Gang) (h : Guard) : Lanes :=
  if h.neg then ~~~(g.pred h.p.toNat) else g.pred h.p.toNat

/-! ### The checks at decode (R168, steps 3 to 5) -/

/-- The `$feat` bit of the unit an instruction is aimed at, 0 when that bit is 0 in the part's register (R12). -/
def missingFeature (i : Instr) (feat : Word) : Option Nat :=
  let matrix := match i with
    | .tclaim _ | .trel _ | .tzero _ | .tmma _ | .tmmas _ | .tdrain _ | .tsave _ | .trest _ | .tburst _ | .tstat _ => true
    | _ => false
  if matrix && !feat.getLsbD 21 then some 21
  else match i with
    | .tmmas _ => if feat.getLsbD 22 then none else some 22
    | .bcopy _ => if feat.getLsbD 20 then none else some 20
    | _ => none

/-- The field raises OPERAND at decode: its class, an odd or unaligned direct register, an invalid latch entry. -/
def FieldUse.bad (u : FieldUse) (ownImm : Bool) (g : Gang) : Bool :=
  !u.cls.accepts ownImm u.op ||
  (match u.op with
   | .v n => decide (n.toNat % u.align ≠ 0)
   | .latch n => (g.latch.getD n.toNat none).isNone
   | _ => false)

/-- OPERAND for a field (R169). -/
def operandTrap (u : FieldUse) (lanes : Lanes) : Trap :=
  ⟨.operand, BitVec.ofNat 64 (u.field * 2 ^ 16 + u.op.code.toNat), lanes⟩

/-- The first failing field, the lowest number first (R169). -/
def firstField (us : List FieldUse) (bad : FieldUse → Bool) : Option FieldUse :=
  [0, 1, 2, 3].findSome? fun n => us.find? (fun u => u.field == n && bad u)

/-- The least of a list. -/
def leastOf (l : List Nat) : Option Nat := l.foldl (fun acc x => match acc with | none => some x | some y => some (min x y)) none

/-- The registers whose numbers are checked at decode: those of the direct fields; of DEFER the last of its words (R248). -/
def checkedRegs (i : Instr) : List Nat :=
  match i with
  | .defer x => if deferCount x = 0 then [] else (directReg x.a).toList.map fun n => n + deferCount x - 1
  | _ => (usesOf i).fields.flatMap fun f => match f.op with
    | .v n => (List.range f.count).map (n.toNat + ·)
    | _ => []

/-- The traps of steps 3 to 5 (R168). -/
def decodeTrap (i : Instr) (g : Gang) (lanes : Lanes) (feat : Word) : Option Trap :=
  let u := usesOf i
  match missingFeature i feat with
  | some b => some ⟨.unimpl, BitVec.ofNat 64 b, lanes⟩
  | none =>
    match firstField u.fields (fun f => f.bad u.ownImm g) with
    | some f => some (operandTrap f lanes)
    | none =>
      match leastOf ((checkedRegs i).filter (fun n => decide (g.r ≤ n))) with
      | some n => some ⟨.regidx, BitVec.ofNat 64 n, lanes⟩
      | none => none

/-! ### The checks of indexed operands (R140, R154, step 6) -/

/-- The lanes whose operand reaches a register at or above R; none of a direct register that has passed decode. -/
def FieldUse.beyond (u : FieldUse) (g : Gang) (lanes : Lanes) : Lanes :=
  Lanes.of fun l => lanes.getLsbD l && (match g.regNo u.op l with | some n => decide (g.r < n + u.count) | none => false)
/-- The lanes whose operand reaches a register number that is no multiple of what the field asks. -/
def FieldUse.skewed (u : FieldUse) (g : Gang) (lanes : Lanes) : Lanes :=
  Lanes.of fun l => lanes.getLsbD l && (match g.regNo u.op l with | some n => decide (n % u.align ≠ 0) | none => false)

/-- The instructions whose meaning resolves the traps of indexed operands itself: a replayable fault parks a memory access
before they are looked at (R215), and of LEA an uninitialised modulo register comes first (R202). -/
def ownIndexed (i : Instr) : Bool := match i with | .ld _ | .st _ | .atom _ | .lea _ => true | _ => false

/-- The issued lanes of the cross-lane instructions supply A whatever their guard (R196), so they read it (R140). -/
def suppliesA (i : Instr) : Bool := match i with | .slide _ | .shfl _ | .bcast _ => true | _ => false

/-- The instructions without a check of operands at run time: PF never faults after decode (R225), nor does SETRATE (R275); the
registers of DEFER are those of R248, which the decode checks. -/
def neverFaults (i : Instr) : Bool := match i with | .pf _ | .setrate _ | .defer _ => true | _ => false

/-- The format of a handle (R282, R287), after the earlier accesses of its gang (R99, R289). -/
def Ictx.handleTy (c : Ictx) (n : Nat) : Option Ty :=
  (c.s.contextOf c.g).bind fun k =>
    Ty.ofCode (BitVec.ofNat 6 (c.settle.s.load (keyOf .device (k.desc.htab.toNat + 64 * n + 8)) 4 / 2 ^ 26))

/-- AFILL fills elements of 64 bits. -/
def wideFill (x : HandleArgs) (c : Ictx) : Bool := (c.handleTy x.x1.toNat).any tyWide

/-- ILLEGAL of an encoding that a handle decides (R168 step 2, R311): CRES `.dec` takes a RND only into f32. -/
def lateIllegal (i : Instr) (c : Ictx) : Option Trap :=
  match i with
  | .cres x => if x.sel = 0#4 ∧ x.rnd ≠ 0#3 ∧ c.handleTy x.x1.toNat ≠ some .f32 then
      some ⟨.illegal, Illegal.tval ⟨4#4, 0x283#10⟩, c.iset⟩ else none
  | _ => none

/-- The traps of steps 2 to 5 of an instruction that decodes (R168). -/
def earlyTrap (i : Instr) (c : Ictx) : Option Trap :=
  match lateIllegal i c with
  | some t => some t
  | none => decodeTrap i c.g c.port.lanes c.s.variant.feat

/-- The operand fields of an instruction as it runs: the fill value of AFILL is a pair where the elements have 64 bits (R62,
R299). -/
def usesAt (i : Instr) (c : Ictx) : Uses :=
  match i with
  | .afill x => if wideFill x c then { usesOf i with fields := [useC x.d, useJ 1 x.a, fieldUse 2 x.b .joint true true] } else usesOf i
  | _ => usesOf i

/-- The codes of everything an instruction names as it runs. -/
def namedAt (i : Instr) (h : Head) (c : Ictx) : List Nat :=
  namedCodes i h c.v c.port.lanes ++
    (match i with
     | .afill _ => (usesAt i c).fields.flatMap fun u => u.codes c.v c.port.lanes
     | _ => [])

/-- REGIDX and OPERAND of operands whose register is found at run time (R140, R154). -/
def indexedTrap (i : Instr) (c : Ictx) : Option Trap :=
  let us := if neverFaults i then [] else (usesAt i c).fields
  let lanesOf := fun (u : FieldUse) => if suppliesA i && u.field == 1 then c.iset else c.mask
  let far := us.foldl (fun m u => m ||| u.beyond c.v (lanesOf u)) 0#32
  if far ≠ 0#32 then
    let regs := us.flatMap fun u => (Lanes.toList (u.beyond c.v (lanesOf u))).flatMap fun l =>
      ((List.range u.count).map ((c.v.regNo u.op l).getD 0 + ·)).filter (fun n => decide (c.v.r ≤ n))
    some ⟨.regidx, BitVec.ofNat 64 ((leastOf regs).getD 0), far⟩
  else
    match firstField us (fun u => u.skewed c.v (lanesOf u) ≠ 0#32) with
    | some u => some (operandTrap u (u.skewed c.v (lanesOf u)))
    | none => none

/-! ### Deferred load errors (R221) -/

/-- The registers that carry an error mark. -/
def Gang.marked (g : Gang) : List (Nat × ErrMark) :=
  (List.range g.r).filterMap fun n => match (g.reg n).mark with | some m => some (n, m) | none => none

/-- LDERR of the eligible mark the gang issued first, with the gang after its marks are cleared. -/
def ldErr (g : Gang) (eligible : List (Nat × ErrMark)) : Option (Trap × Gang) :=
  match eligible.foldl (fun (acc : Option ErrMark) x => match acc with
      | none => some x.2
      | some m => if x.2.order < m.order then some x.2 else some m) none with
  | none => none
  | some m =>
    some (⟨.lderr, m.reason ++ m.pc.extractLsb' 0 56, m.lanes⟩,
      { g with regs := g.regs.map fun r => match r.mark with
          | some x => if x.order = m.order then { r with mark := none } else r
          | none => r })

/-- A PREEMPT handler's park points, fences and EXIT raise no LDERR (R221: instruction pre-emption never does). -/
def Gang.inStow (g : Gang) : Bool := g.hnd && decide (g.cause.toNat % 256 = 20)

/-- The instructions at which any outstanding mark is raised: EXIT, DEFER, FENCE and FENCEX, and SLEEP and REGX, which
park when some lane performs them (R29, R221). -/
def raisesMarks (i : Instr) (performs : Bool) : Bool :=
  match i with
  | .exit _ | .defer _ | .fence _ | .fencex _ => true
  | .sleep _ | .regx _ => performs
  | _ => false

/-- The registers whose marks an instruction leaves alone: B of STSH (R278), A of GETSH, which reads no lane (R279). -/
def markBlind : Instr → List Nat
  | .stsh x => match x.b with | .v n => [n.toNat] | _ => []
  | .getsh x => match x.a with | .v n => [n.toNat] | _ => []
  | _ => []

/-- The marks eligible at an instruction: all of them at EXIT, DEFER, the fences and a park point, else those it names. -/
def eligibleMarks (i : Instr) (g : Gang) (named : List Nat) (performs : Bool) : List (Nat × ErrMark) :=
  if raisesMarks i performs && !g.inStow then g.marked
  else g.marked.filter (fun x => named.contains x.1 && !(markBlind i).contains x.1)

/-! ### The budget (R137, R138) -/

/-- The writes of a plan that take a line or a reservation, by register number. -/
def takesLine (base : Gang) (late : Bool) (w : RegWrite) : Bool :=
  !(base.reg w.n).shape.isG &&
  (match w.exact with
   | some x => x.shape.isG
   | none => !fullWidth w.mask || late || (press w.vals).isG)
/-- The write frees the register's line. -/
def freesLine (base : Gang) (late : Bool) (w : RegWrite) : Bool :=
  (base.reg w.n).shape.isG && !late &&
  (match w.exact with
   | some x => !x.shape.isG
   | none => fullWidth w.mask && !(press w.vals).isG)

/-- The register numbers of a list of writes, each once. -/
def writtenRegs (ws : List RegWrite) : List Nat := (ws.map (·.n)).eraseDups

/-- SHAPE_OVF of a plan (R137): the lowest register that would take a line, when the count would pass Gmax. -/
def shapeOvf (g : Gang) (ws : List RegWrite) (late : Bool) : Option Nat :=
  let base := g.settled
  let takes := (ws.filter (takesLine base late)).map (·.n) |>.eraseDups
  let frees := ((ws.filter (freesLine base late)).map (·.n)).eraseDups
  let count := base.gCount + base.reserved + takes.length - frees.length
  if !takes.isEmpty && decide (g.gmax < count) then leastOf takes else none

/-! ### Commitment -/

/-- Where the issued lanes go when the instruction does not branch: address + 12 (R146). -/
def advance (g : Gang) (lanes : Lanes) (pc : DWord) : List LaneState :=
  g.lanes.mapIdx fun l x => if lanes.getLsbD l && x.live then { x with pc := pc + 12#64 } else x

/-- The latch after an instruction: each entry serves one instruction fewer, and held operands enter (R145). DESIGN CHOICE
(log 29): a hold bit on a pair copies the even register. -/
def latchAfter (h : Head) (src : Src) (u : Uses) (g : Gang) : List (Option Latch) :=
  let held := fun (n : Nat) (bit : Bool) =>
    if bit then (u.fields.find? (fun f => f.field == n)).map (fun f => (⟨src.shape f.op, 2⟩ : Latch)) else none
  let old := g.latch.map fun e => match e with
    | some x => if x.uses ≤ 1 then none else some { x with uses := x.uses - 1 }
    | none => none
  old.mapIdx fun n e => match held (n + 1) (if n = 0 then h.sched.ha else if n = 1 then h.sched.hb else h.sched.hc) with
    | some x => some x
    | none => e

/-- A pending write reserves a line for its register (R137): a full-width one, and of LDSH, which knows its image, that of a G
image (R278). -/
def reservesLine (w : RegWrite) : Bool :=
  match w.exact with
  | some x => x.shape.isG
  | none => fullWidth w.mask

/-- The result a plan leaves outstanding; none when it writes nothing. -/
def Plan.result (p : Plan) (c : Ictx) : Option Result :=
  if p.regs.isEmpty && p.preds.isEmpty && p.mods.isEmpty && !p.reqs then none
  else
    let k := c.port.sample
    let t := match p.timing with
      | .fixed x => (ResultKind.fixed, k + x, true)
      | .variable x => (ResultKind.variable, k + x, false)
      | .exact x => (ResultKind.variable, k + x, true)
    some { seq := c.g.issued, pc := c.pc, kind := t.1, due := t.2.1, exactDue := t.2.2, regs := p.regs,
           preds := p.preds, mods := p.mods, err := p.err, waitsReqs := p.reqs, statusRead := p.status, held := false,
           reserve := if t.1 = .variable then (p.regs.filter reservesLine).map (·.n) else [] }

/-- The return of a result of variable time, which follows. -/
def Plan.returns (p : Plan) (c : Ictx) : List Instr :=
  match p.timing, p.result c with
  | .variable _, some r => if p.quiet then [] else [.variableResultReturn p.g.gid r.seq none]
  | _, _ => []

/-- A partial variable-latency write unfolds its destination when it performs (R137). -/
def unfoldNow (g : Gang) (p : Plan) : Gang :=
  match p.timing with
  | .fixed _ => g
  | _ => { g with regs := g.regs.mapIdx fun n r =>
      if p.regs.any (fun w => w.n == n && !fullWidth w.mask && w.exact.isNone)
      then { r with shape := .g r.shape.lanes } else r }

/-- The gang after a plan: latch, flags, the outstanding result, the lanes, the next issue cycle, the park. -/
def commitGang (h : Head) (u : Uses) (imm : Word) (c : Ictx) (p : Plan) : Gang :=
  let g := unfoldNow p.g p
  let results := match p.result c with | some r => g.results ++ [r] | none => g.results
  let lanes := match p.lanes with | some l => l | none => advance g c.iset c.pc
  let sw := h.sched.sw || (c.port.secondary && g.marker)
  let parks := match p.park with
    | some k => some k
    | none => if sw && g.life == .ready && { g with results := results }.outstanding then some .marker else none
  let latch := if parks = some .marker ∨ g.life = .parked .marker then [none, none, none] else latchAfter h (c.src imm) u g
  { g with
    latch := latch
    status := g.status ||| p.flags
    results := results
    lanes := lanes
    issued := g.issued + 1
    withdrawn := none
    formed := none
    marker := sw && parks != some .marker
    lastIssue := c.port.order
    nextIssue := max (max g.nextIssue c.port.sample) p.next
    life := match g.life, parks with
      | .ready, some k => .parked k
      | l, _ => l }

/-- The other port's instruction is withdrawn: it issues again in a later cycle (R138, R170). -/
def dropSecondary (s : State) : State :=
  match s.ports with
  | [] => s
  | p :: _ => { s with ports := [p], joining := s.joining.filter fun u => !u.any (fun q => q.gid == p.gid) }

/-- The secondary instruction is withdrawn, without effect, where it would trap (R170): the second time it would trap from the
secondary port, with its gang not parked, it takes its trap there. -/
def Ictx.withdraws (c : Ictx) : Bool := c.port.secondary && (c.g.withdrawn != some c.pc || c.g.life != .ready)

/-- A trap of this issue is taken, or withdraws the secondary instruction (R170). -/
def trapHere (c : Ictx) (s : State) (t : Trap) (sample : Nat) : State :=
  if c.withdraws then s.onGang c.g.gid (fun g => { g with withdrawn := some c.pc })
  else (dropSecondary s).takeTrap c.g.gid c.iset c.port.secondary c.pc t sample

/-- LDERR of this issue (R221): the gang `g` has the marks of the reported load cleared, unless the instruction is withdrawn. -/
def ldErrHere (c : Ictx) (s : State) (t : Trap) (g : Gang) : State :=
  trapHere c (if c.withdraws then s else s.putGang g) t (c.cyc + 1)

/-- The lanes that the primary port would issue next: those with the least key, one of them in serial mode (R232, R237). -/
def Gang.nextSet (g : Gang) : Lanes :=
  match g.minLane g.live with
  | none => 0#32
  | some k =>
    let m := Lanes.of fun l => g.live.getLsbD l && (g.lane l).sameKey (g.lane k)
    if g.serial then (match Lanes.lowest m with | some l => 1#32 <<< l | none => 0#32) else m

/-- A gang that has parked at a switch marker raises an outstanding mark at that boundary, once its issue cycle is over
(R221). -/
def boundaryLdErr (s : State) (gid : Nat) : State :=
  match s.gang? gid with
  | none => s
  | some g =>
    if g.inStow || g.life != .parked .marker then s
    else match ldErr g g.marked with
      | none => s
      | some (t, g') =>
        (s.putGang { g' with life := .ready }).takeTrap gid g.nextSet false g.minPc t (s.cycleOf g.quad + 1)

/-- LDERR at a park point (R221): of all the marks that are outstanding. -/
def Ictx.parkErr (c : Ictx) : Option (Trap × Gang) := if c.g.inStow then none else ldErr c.g c.g.marked

/-- The gang parks at this boundary; an outstanding error mark is raised there instead (R221). The instruction of the secondary
port still issues (R233). -/
def parkHere (c : Ictx) (s : State) (p : Park) : State :=
  if c.port.secondary then s
  else match c.parkErr with
    | some (t, g) => ldErrHere c s t g
    | none => s.onGang c.g.gid (fun g => { g with life := .parked p })

/-- A replayable fault parks the gang with the lane addresses it has formed, which its replay reuses (R203), and goes to the
owner of each failing stage: the hypervisor of the host stage, the guest of its own (R88, R89). -/
def parkWalk (c : Ictx) (s : State) (hosts : List Bool) (formed : List (Nat × Nat)) : State :=
  if c.port.secondary then s
  else match c.parkErr with
    | some (t, g) => ldErrHere c s t g
    | none =>
      hosts.foldl (fun s h => s.tell (.pageFault h (s.ctxOf c.g)))
        (s.onGang c.g.gid fun g => { g with life := .parked .walk, formed := some (c.pc, c.iset, formed) })

/-- The earliest next issue after a control instruction that no lane performs: a taken and a not-taken branch cost the same
(R251). -/
def idleNext (i : Instr) (c : Ictx) : Nat :=
  match i with
  | .bra _ | .call _ | .nop _ | .yield _ | .exit _ | .defer _ => c.cyc + 2
  | .ret _ => c.port.sample + 3
  | .brx _ | .callx _ => c.port.sample + 8
  | _ => 0

/-- The lanes that are live in an issue: those of the gang, and those that the other port issued in the same cycle, which its
instruction may have ended since (R195). -/
def Ictx.live (c : Ictx) : Lanes := c.g.live ||| c.port.mates

/-- The PC of a set of lanes at one address. -/
def Gang.setPc (g : Gang) (m : Lanes) : DWord := match Lanes.lowest m with | some l => (g.lane l).pc | none => 0#64

/-- What an instruction's meaning is given at a port. -/
def ictxOf (h : Head) (p : Port) (g : Gang) (s : State) : Ictx :=
  { s := s, g := g, v := g.viewAt p.sample, port := p, mask := p.lanes &&& guardMask (g.viewAt p.sample) h.guard,
    pc := g.setPc p.lanes, cyc := s.cycleOf g.quad }

/-- A plan takes effect: the gang, and the return of its result when its time has come. -/
def commitPlan (i : Instr) (h : Head) (imm : Word) (c : Ictx) (p : Plan) : State :=
  (p.s.putGang (commitGang h (usesOf i) imm c p)).later (p.returns c)

/-- What comes before an instruction's meaning (R168): the traps at decode, a deferred load error, a park on pending registers,
a guard that no lane passes, the traps of indexed operands; none when the meaning follows. DESIGN CHOICE (log 29): a pending
register parks the gang even where the guard is false in every lane. -/
def beforeBody (i : Instr) (h : Head) (imm : Word) (c : Ictx) : Option State :=
  match earlyTrap i c with
  | some t => some (trapHere c c.s t (c.cyc + 1))
  | none =>
    let named := namedAt i h c
    match ldErr c.g (eligibleMarks i c.g named (c.mask != 0#32)) with
    | some (t, g') => some (ldErrHere c c.s t g')
    | none =>
      let waits := named.filter (fun n => c.g.pendingCodes.contains n)
      if !waits.isEmpty then some (parkHere c c.s (.pending waits))
      else if c.mask = 0#32 then some (commitPlan i h imm c { c.plan with next := idleNext i c })
      else if ownIndexed i then none
      else (indexedTrap i c).map fun t => trapHere c c.s t c.port.sample

/-- A result is written later than a fixed time (R137). -/
def Plan.late (p : Plan) : Bool := match p.timing with | .fixed _ => false | _ => true

/-- What an instruction's meaning answers takes effect: the secondary port withdraws one that would park (R233), traps or passes
the budget (R138, R170). -/
def afterBody (i : Instr) (h : Head) (imm : Word) (c : Ictx) : Body → State
  | .trap t => trapHere c c.s t c.port.sample
  | .park k => parkHere c c.s k
  | .replay hosts formed => parkWalk c c.s hosts formed
  | .fault r =>
    if c.port.secondary then c.s else (dropSecondary c.s).contextFault (c.s.ctxOf c.g) r c.g.minPc
  | .go p =>
    if c.port.secondary && p.park.isSome then c.s
    else match (if p.park.isSome then c.parkErr else none) with
      | some (t, g) => ldErrHere c c.s t g
      | none =>
        match shapeOvf c.g p.regs p.late with
        | some n =>
          if c.port.secondary then c.s else trapHere c c.s ⟨.shapeOvf, BitVec.ofNat 64 n, c.mask⟩ c.port.sample
        | none => commitPlan i h imm c p

/-- An instruction of a gang that its port has issued. -/
def issueOn (i : Instr) (h : Head) (imm : Word) (body : Ictx → Body) (p : Port) (g : Gang) (s : State) : State :=
  let c := ictxOf h p g s
  match beforeBody i h imm c with
  | some t => t
  | none => afterBody i h imm c (body c)

/-- An instruction given to `exec`: it is performed for the fetch port that has issued it; with no port there is no
issue. -/
def issue (i : Instr) (h : Head) (imm : Word) (body : Ictx → Body) (s : State) : Host.Outcome State Fault Refusal :=
  match s.ports with
  | [] => .fault .noIssue
  | p :: _ =>
    match s.gang? p.gid with
    | none => .fault .badPort
    | some g => .next (issueOn i h imm body p g s)

/-! ### Planning register and predicate results -/

/-- The writes of a lane function into a register destination, in halves when `wide`: a direct destination is one write,
an indexed one is a write for each register reached, with the mask narrowed to the lanes that target it (R135). -/
def destWrites (c : Ictx) (d : Operand) (count : Nat) (mask : Lanes) (f : Nat → Nat) : List RegWrite :=
  match d with
  | .v n => (List.range count).map fun j =>
      ⟨n.toNat + j, j, mask, LaneVec.of (fun l => BitVec.ofNat 32 (f l / 2 ^ (32 * j))), none⟩
  | .indexed _ _ =>
    let targets := ((Lanes.toList mask).map fun l => (c.v.regNo d l).getD 0).eraseDups
    targets.flatMap fun t =>
      let m := Lanes.of fun l => mask.getLsbD l && decide ((c.v.regNo d l).getD 0 = t)
      (List.range count).map fun j => ⟨t + j, j, m, LaneVec.of (fun l => BitVec.ofNat 32 (f l / 2 ^ (32 * j))), none⟩
  | _ => []

/-- The write of a lane predicate; p7 discards it (R129). -/
def predWrites (d : Operand) (mask : Lanes) (f : Nat → Bool) : List PredWrite :=
  match d with
  | .p n => if n = 7#3 then [] else [⟨n.toNat, mask, Lanes.of f⟩]
  | _ => []

/-- The flags of the lanes of a mask together (R75). -/
def laneFlags (mask : Lanes) (f : Nat → Flags) : Flags := (Lanes.toList mask).foldl (fun acc l => acc ||| f l) fNone

end Sys2Proof.Machine
end

