-- ==== Sys2Proof/Machine/Lanes.lean ====
section
/-!
DEFINITION. The shared form of an instruction that computes lane by lane (R171): its sources, its result in a register or
a predicate, its flags, and its latency on the scalar path or its own class (R136, R142).
-/
namespace Sys2Proof.Machine
open Sys2Proof

/-- An instruction that computes lane by lane: its operands with which of them are pairs, its immediate as an operand,
and the latency of its class (R142). -/
structure LaneForm where
  head : Head
  d : Operand
  a : Operand
  b : Operand
  c : Operand
  imm : Word
  wd : Bool
  wa : Bool
  wb : Bool
  wc : Bool
  lat : Nat

/-- The form of a three-field instruction; it has no operand C. -/
def formOf (x : Args) (wd wa wb : Bool) (lat : Nat) : LaneForm :=
  ⟨x.head, x.d, x.a, x.b, .zero, x.imm, wd, wa, wb, false, lat⟩
/-- The form of a one-source instruction. -/
def formOf1 (x : Args) (wd wa : Bool) (lat : Nat) : LaneForm :=
  ⟨x.head, x.d, x.a, .zero, .zero, x.imm, wd, wa, false, false, lat⟩
/-- The form of a four-source instruction: `imm` reads IMM[31:10] sign-extended (R153). -/
def formOf4 (x : Args4) (wd wa wb wc : Bool) (lat : Nat) : LaneForm :=
  ⟨x.head, x.d, x.a, x.b, x.c, x.imm.signExtend 32, wd, wa, wb, wc, lat⟩

/-- All sources are U: the scalar path takes any instruction of the integer, packed, float, conversion and residue
groups (R136). -/
def allU (f : LaneForm) (src : Src) : Bool :=
  src.isU f.a (if f.wa then 2 else 1) && src.isU f.b (if f.wb then 2 else 1) && src.isU f.c (if f.wc then 2 else 1)

/-- The source is U or A (R136). -/
def Src.affine (src : Src) (o : Operand) : Bool := !(src.shape o).isG
/-- Both registers of a pair are U or A (R136). -/
def Src.affinePair (src : Src) (o : Operand) : Bool :=
  src.affine o && (match o with | .v n => !(src.g.reg (n.toNat + 1)).shape.isG | _ => true)

/-- The latency of a form: 2 on the scalar path, which a full-width write with the right sources takes (R136, R142). DESIGN CHOICE
(log 32): the write of an instruction with a full write mask counts as full-width here even where an indexed D splits it over several
registers, which R136 leaves open. -/
def pathLatency (f : LaneForm) (mask : Lanes) (scalar : Bool) : Nat := if fullWidth mask && scalar then 2 else f.lat

/-- The result of lane ℓ. -/
def laneResult (f : LaneForm) (op : Nat → Nat → Nat → Res) (src : Src) (l : Nat) : Res :=
  op (src.val f.a f.wa l) (src.val f.b f.wb l) (src.val f.c f.wc l)

/-- The meaning of an instruction that writes D[ℓ] ← Op(A[ℓ], B[ℓ], C[ℓ]) in the lanes of the write mask (R171). -/
def laneBody (f : LaneForm) (scalar : LaneForm → Src → Bool) (op : Nat → Nat → Nat → Res) (c : Ictx) : Body :=
  let src := c.src f.imm
  .go { c.plan with
    regs := destWrites c f.d (if f.wd then 2 else 1) c.mask (fun l => (laneResult f op src l).val)
    flags := laneFlags c.mask (fun l => (laneResult f op src l).flags)
    timing := .fixed (pathLatency f c.mask (scalar f src)) }

/-- The meaning of an instruction that writes a lane predicate, 2 cycles after sampling (R142). -/
def predBody (f : LaneForm) (op : Nat → Nat → Bool × Flags) (c : Ictx) : Body :=
  let src := c.src f.imm
  let r := fun l => op (src.val f.a f.wa l) (src.val f.b f.wb l)
  .go { c.plan with
    preds := predWrites f.d c.mask (fun l => (r l).1)
    flags := laneFlags c.mask (fun l => (r l).2)
    timing := .fixed 2 }

/-- Perform a lane form for its instruction. -/
def laneOp (i : Instr) (f : LaneForm) (op : Nat → Nat → Nat → Res) (s : State) : Host.Outcome State Fault Refusal :=
  issue i f.head f.imm (laneBody f allU op) s
/-- Perform a lane form whose scalar path takes more shapes than U (R136). -/
def laneOpA (i : Instr) (f : LaneForm) (scalar : LaneForm → Src → Bool) (op : Nat → Nat → Nat → Res) (s : State) :
    Host.Outcome State Fault Refusal :=
  issue i f.head f.imm (laneBody f scalar op) s
/-- Perform a lane form that writes a predicate. -/
def predOp (i : Instr) (f : LaneForm) (op : Nat → Nat → Bool × Flags) (s : State) : Host.Outcome State Fault Refusal :=
  issue i f.head f.imm (predBody f op) s

end Sys2Proof.Machine
end

