-- ==== Sys2Proof/Machine/Integer.lean ====
section
/-!
DEFINITION. The integer instructions (R172 to R179).
-/
namespace Sys2Proof.Machine
open Sys2Proof

/-- A lane integer operation on exact integers, written by Sat or Wrap at n bits (R173). -/
def intOp (n : Nat) (signed sat : Bool) (f : Int → Int → Int → Int) (a b c : Nat) : Res :=
  narrow n signed sat (f (readInt n signed a) (readInt n signed b) (readInt n signed c))

/-- The scalar path of IADD and ISUB: all U, or A and U sources in a 32-bit type without saturation (R136). -/
def addScalar (x : Args) (f : LaneForm) (src : Src) : Bool :=
  allU f src || (!x.sat && !tyWide x.ty && src.affine f.a && src.affine f.b)
/-- The scalar path of IMUL: all U, or A times U in a 32-bit type without saturation (R136). -/
def mulScalar (x : Args) (f : LaneForm) (src : Src) : Bool :=
  allU f src || (!x.sat && !tyWide x.ty &&
    ((src.affine f.a && src.isU f.b 1) || (src.isU f.a 1 && src.affine f.b)))
/-- The scalar path of SHL: all U, or A shifted by U(c), c < 32 (R136). -/
def shlScalar (x : Args) (f : LaneForm) (src : Src) : Bool :=
  allU f src || (!tyWide x.ty && src.affine f.a && src.isU f.b 1 && decide ((src.word f.b 0).toNat < 32))
/-- The scalar path of MOV: U or A (R136). -/
def movScalar (x : Args) (f : LaneForm) (src : Src) : Bool := allU f src || (if tyWide x.ty then src.affinePair f.a else src.affine f.a)

/-- The form of a two-source instruction of one width. -/
def form2 (x : Args) (lat : Nat) : LaneForm := formOf x (tyWide x.ty) (tyWide x.ty) (tyWide x.ty) lat

/-- IADD (R173, R175). -/
def execIadd (x : Args) (s : State) : Host.Outcome State Fault Refusal :=
  laneOpA (.iadd x) (form2 x 4) (addScalar x) (intOp (tyWidth x.ty) (tySigned x.ty) x.sat (fun a b _ => a + b)) s

/-- ISUB (R173, R175). -/
def execIsub (x : Args) (s : State) : Host.Outcome State Fault Refusal :=
  laneOpA (.isub x) (form2 x 4) (addScalar x) (intOp (tyWidth x.ty) (tySigned x.ty) x.sat (fun a b _ => a - b)) s

/-- IMUL (R173, R175). -/
def execImul (x : Args) (s : State) : Host.Outcome State Fault Refusal :=
  laneOpA (.imul x) (form2 x 6) (mulScalar x) (intOp (tyWidth x.ty) (tySigned x.ty) x.sat (fun a b _ => a * b)) s

/-- IMULH: the floor of the exact 64-bit product over 2^32 (R175). -/
def execImulh (x : Args) (s : State) : Host.Outcome State Fault Refusal :=
  laneOp (.imulh x) (formOf x false false false 6) (intOp 32 (tySigned x.ty) false (fun a b _ => a * b / 4294967296)) s

/-- IMAD (R173, R175). -/
def execImad (x : Args4) (s : State) : Host.Outcome State Fault Refusal :=
  laneOp (.imad x) (formOf4 x false false false false 6) (intOp 32 (tySigned x.ty) x.sat (fun a b c => a * b + c)) s

/-- IMADW: the exact product of 32-bit A and B plus the 64-bit C, written at 64 bits (R175). -/
def imadwLane (signed sat : Bool) (a b c : Nat) : Res :=
  narrow 64 signed sat (readInt 32 signed a * readInt 32 signed b + readInt 64 signed c)

/-- IMADW (R175). -/
def execImadw (x : Args4) (s : State) : Host.Outcome State Fault Refusal :=
  laneOp (.imadw x) (formOf4 x true false false true 6) (imadwLane (tySigned x.ty) x.sat) s

/-- IDIV (R176): by zero all ones and NVL; −2^31 by −1 wraps or is clamped; else the quotient toward zero. -/
def idivLane (signed sat : Bool) (a b : Nat) : Res :=
  let x := readInt 32 signed a
  let y := readInt 32 signed b
  if y = 0 then ⟨0xFFFFFFFF, fNvl⟩ else narrow 32 signed sat (Int.tdiv x y)
/-- IREM (R176): by zero A and NVL; else the remainder with the sign of A. -/
def iremLane (signed : Bool) (a b : Nat) : Res :=
  let x := readInt 32 signed a
  let y := readInt 32 signed b
  if y = 0 then ⟨a % 2 ^ 32, fNvl⟩ else Res.pure (wrapNat 32 (Int.tmod x y))

/-- IDIV (R176). -/
def execIdiv (x : Args) (s : State) : Host.Outcome State Fault Refusal :=
  laneOp (.idiv x) (formOf x false false false 36) (fun a b _ => idivLane (tySigned x.ty) x.sat a b) s

/-- IREM (R176). -/
def execIrem (x : Args) (s : State) : Host.Outcome State Fault Refusal :=
  laneOp (.irem x) (formOf x false false false 36) (fun a b _ => iremLane (tySigned x.ty) a b) s

/-- IMIN (R175). -/
def execImin (x : Args) (s : State) : Host.Outcome State Fault Refusal :=
  laneOp (.imin x) (form2 x 4) (intOp (tyWidth x.ty) (tySigned x.ty) false (fun a b _ => min a b)) s

/-- IMAX (R175). -/
def execImax (x : Args) (s : State) : Host.Outcome State Fault Refusal :=
  laneOp (.imax x) (form2 x 4) (intOp (tyWidth x.ty) (tySigned x.ty) false (fun a b _ => max a b)) s

/-- IABS (R173, R175). -/
def execIabs (x : Args) (s : State) : Host.Outcome State Fault Refusal :=
  laneOp (.iabs x) (formOf1 x (tyWide x.ty) (tyWide x.ty) 4) (intOp (tyWidth x.ty) (tySigned x.ty) x.sat (fun a _ _ => (a.natAbs : Int))) s

/-- INEG (R173, R175). -/
def execIneg (x : Args) (s : State) : Host.Outcome State Fault Refusal :=
  laneOp (.ineg x) (formOf1 x (tyWide x.ty) (tyWide x.ty) 4) (intOp (tyWidth x.ty) (tySigned x.ty) x.sat (fun a _ _ => -a)) s

/-- ISAD: |A − B| + C formed exactly (R175). -/
def execIsad (x : Args4) (s : State) : Host.Outcome State Fault Refusal :=
  laneOp (.isad x) (formOf4 x false false false false 6) (intOp 32 (tySigned x.ty) x.sat (fun a b c => ((a - b).natAbs : Int) + c)) s

/-- IADDS (R175). -/
def execIadds (x : Args) (s : State) : Host.Outcome State Fault Refusal :=
  laneOp (.iadds x) (form2 x 4) (intOp (tyWidth x.ty) (tySigned x.ty) x.sat (fun a b _ => a + b * (2 ^ x.sel.toNat : Nat))) s

/-- ISUBS (R175). -/
def execIsubs (x : Args) (s : State) : Host.Outcome State Fault Refusal :=
  laneOp (.isubs x) (form2 x 4) (intOp (tyWidth x.ty) (tySigned x.ty) x.sat (fun a b _ => a - b * (2 ^ x.sel.toNat : Nat))) s

/-- ICMP: condition SEL between A and B under the signedness of TY (R158, R179). -/
def icmpLane (t : Ty) (sel : Nat) (a b : Nat) : Bool × Flags :=
  let x := readInt (tyWidth t) (tySigned t) a
  let y := readInt (tyWidth t) (tySigned t) b
  (condHolds sel (decide (x < y)) (decide (x = y)) (decide (y < x)), fNone)

/-- ICMP (R158, R179). -/
def execIcmp (x : Args) (s : State) : Host.Outcome State Fault Refusal :=
  predOp (.icmp x) (form2 x 2) (icmpLane x.ty x.sel.toNat) s

/-- ISEL: A where C is not zero, else B (R175, R179). -/
def execIsel (x : Args4) (s : State) : Host.Outcome State Fault Refusal :=
  laneOp (.isel x) (formOf4 x (tyWide x.ty) (tyWide x.ty) (tyWide x.ty) false 4) (fun a b c => Res.pure (if c = 0 then b else a)) s

/-- SHL, SHR, SRA and ROTL of an n-bit A by the unsigned amount c (R177). -/
def shlLane (n a c : Nat) : Nat := if c < n then a * 2 ^ c % 2 ^ n else 0
def shrLane (n a c : Nat) : Nat := if c < n then a % 2 ^ n / 2 ^ c else 0
def sraLane (n a c : Nat) : Nat := wrapNat n (signedOf n a / (2 ^ (min c n) : Nat))
def rotlLane (n a c : Nat) : Nat :=
  let k := c % n
  (a % 2 ^ n * 2 ^ k) % 2 ^ n + a % 2 ^ n / 2 ^ (n - k)

/-- SHL (R177). -/
def execShl (x : Args) (s : State) : Host.Outcome State Fault Refusal :=
  laneOpA (.shl x) (formOf x (tyWide x.ty) (tyWide x.ty) false 4) (shlScalar x) (fun a b _ => Res.pure (shlLane (tyWidth x.ty) a b)) s

/-- SHR (R177). -/
def execShr (x : Args) (s : State) : Host.Outcome State Fault Refusal :=
  laneOp (.shr x) (formOf x (tyWide x.ty) (tyWide x.ty) false 4) (fun a b _ => Res.pure (shrLane (tyWidth x.ty) a b)) s

/-- SRA (R177). -/
def execSra (x : Args) (s : State) : Host.Outcome State Fault Refusal :=
  laneOp (.sra x) (formOf x (tyWide x.ty) (tyWide x.ty) false 4) (fun a b _ => Res.pure (sraLane (tyWidth x.ty) a b)) s

/-- ROTL (R177). -/
def execRotl (x : Args) (s : State) : Host.Outcome State Fault Refusal :=
  laneOp (.rotl x) (formOf x (tyWide x.ty) (tyWide x.ty) false 4) (fun a b _ => Res.pure (rotlLane (tyWidth x.ty) a b)) s

/-- The result width of SHRR: 32, 16 or 8 (R177). -/
def shrrWidth (sel : Nat) : Nat := if sel = 0 then 32 else if sel = 1 then 16 else 8
/-- SHRR (R177): A over 2^Min(c, 40) rounded once, then Sat or Wrap at the result width, widened to the lane. -/
def shrrLane (signed sat : Bool) (w rnd : Nat) (a c : Nat) : Res :=
  let y := (roundInt rnd (readInt 32 signed a) (2 ^ min c 40)).1
  let r := narrow w signed sat y
  ⟨toLane w signed r.val, r.flags⟩

/-- SHRR (R177). -/
def execShrr (x : Args) (s : State) : Host.Outcome State Fault Refusal :=
  laneOp (.shrr x) (formOf x false false false 4)
    (fun a b _ => shrrLane (tySigned x.ty) x.sat (shrrWidth x.sel.toNat) x.rnd.toNat a b) s

/-- AND (R175). -/
def execAnd (x : Args) (s : State) : Host.Outcome State Fault Refusal :=
  laneOp (.and x) (form2 x 4) (fun a b _ => Res.pure (a &&& b)) s

/-- OR (R175). -/
def execOr (x : Args) (s : State) : Host.Outcome State Fault Refusal :=
  laneOp (.or x) (form2 x 4) (fun a b _ => Res.pure (a ||| b)) s

/-- XOR (R175). -/
def execXor (x : Args) (s : State) : Host.Outcome State Fault Refusal :=
  laneOp (.xor x) (form2 x 4) (fun a b _ => Res.pure (a ^^^ b)) s

/-- ANDN (R175). -/
def execAndn (x : Args) (s : State) : Host.Outcome State Fault Refusal :=
  laneOp (.andn x) (form2 x 4) (fun a b _ => Res.pure (a &&& (b ^^^ (2 ^ tyWidth x.ty - 1)))) s

/-- NOT (R175). -/
def execNot (x : Args) (s : State) : Host.Outcome State Fault Refusal :=
  laneOp (.not x) (formOf1 x (tyWide x.ty) (tyWide x.ty) 4) (fun a _ _ => Res.pure (a ^^^ (2 ^ tyWidth x.ty - 1))) s

/-- LOP3 (R178): bit i of D is entry 4·A[i] + 2·B[i] + C[i] of the truth table. -/
def lop3Lane (table a b c : Nat) : Nat :=
  (List.range 32).foldl (fun acc i =>
    acc + bitsOf table (4 * bitsOf a i 1 + 2 * bitsOf b i 1 + bitsOf c i 1) 1 * 2 ^ i) 0
/-- The truth table of LOP3 is the whole MOD field (R157). -/
def lop3Table (x : Args4) : Nat := (if x.sat then 128 else 0) + x.sel.toNat * 8 + x.rnd.toNat

/-- LOP3 (R178). -/
def execLop3 (x : Args4) (s : State) : Host.Outcome State Fault Refusal :=
  laneOp (.lop3 x) (formOf4 x false false false false 4) (fun a b c => Res.pure (lop3Lane (lop3Table x) a b c)) s

/-- The number of leading zero bits of an n-bit value (R175). -/
def clzLane (n a : Nat) : Nat := if a % 2 ^ n = 0 then n else n - 1 - Nat.log2 (a % 2 ^ n)
/-- The number of one bits (R175). -/
def popcLane (n a : Nat) : Nat := (List.range n).foldl (fun acc i => acc + bitsOf a i 1) 0
/-- Bit i of the result is bit n−1−i of A (R175). -/
def brevLane (n a : Nat) : Nat := (List.range n).foldl (fun acc i => acc + bitsOf a (n - 1 - i) 1 * 2 ^ i) 0

/-- CLZ (R175). -/
def execClz (x : Args) (s : State) : Host.Outcome State Fault Refusal :=
  laneOp (.clz x) (formOf1 x false (tyWide x.ty) 4) (fun a _ _ => Res.pure (clzLane (tyWidth x.ty) a)) s

/-- POPC (R175). -/
def execPopc (x : Args) (s : State) : Host.Outcome State Fault Refusal :=
  laneOp (.popc x) (formOf1 x false (tyWide x.ty) 4) (fun a _ _ => Res.pure (popcLane (tyWidth x.ty) a)) s

/-- BREV (R175). -/
def execBrev (x : Args) (s : State) : Host.Outcome State Fault Refusal :=
  laneOp (.brev x) (formOf1 x (tyWide x.ty) (tyWide x.ty) 4) (fun a _ _ => Res.pure (brevLane (tyWidth x.ty) a)) s

/-- BFX (R178): w bits of A from position p, zero- or sign-extended. -/
def bfxLane (signed : Bool) (a b c : Nat) : Nat :=
  let p := b % 256
  let w := c % 256
  if w = 0 ∨ 32 ≤ p then 0
  else
    let w' := min w (32 - p)
    toLane w' signed (bitsOf a p w')
/-- BFI (R178): the low bits of A put into B at position p, width w. -/
def bfiLane (a b c : Nat) : Nat :=
  let p := c % 256
  let w := c / 256 % 256
  if w = 0 ∨ 32 ≤ p then b
  else
    let w' := min w (32 - p)
    let k := (2 ^ w' - 1) * 2 ^ p
    (b &&& (k ^^^ 0xFFFFFFFF)) ||| (a * 2 ^ p &&& k)
/-- PRMT (R178): each byte of D a byte of A or B, or its sign spread over the byte. -/
def prmtLane (a b c : Nat) : Nat :=
  (List.range 4).foldl (fun acc i =>
    let sel := bitsOf c (4 * i) 4
    let y := if sel % 8 < 4 then bitsOf a (8 * (sel % 8)) 8 else bitsOf b (8 * (sel % 8 - 4)) 8
    let y := if 8 ≤ sel then (if 128 ≤ y then 255 else 0) else y
    acc + y * 2 ^ (8 * i)) 0

/-- BFX (R178). -/
def execBfx (x : Args4) (s : State) : Host.Outcome State Fault Refusal :=
  laneOp (.bfx x) (formOf4 x false false false false 4) (fun a b c => Res.pure (bfxLane (tySigned x.ty) a b c)) s

/-- BFI (R178). -/
def execBfi (x : Args4) (s : State) : Host.Outcome State Fault Refusal :=
  laneOp (.bfi x) (formOf4 x false false false false 4) (fun a b c => Res.pure (bfiLane a b c)) s

/-- PRMT (R178). -/
def execPrmt (x : Args4) (s : State) : Host.Outcome State Fault Refusal :=
  laneOp (.prmt x) (formOf4 x false false false false 4) (fun a b c => Res.pure (prmtLane a b c)) s

/-- MOV (R175, R179). -/
def execMov (x : Args) (s : State) : Host.Outcome State Fault Refusal :=
  laneOpA (.mov x) (formOf1 x (tyWide x.ty) (tyWide x.ty) 4) (movScalar x) (fun a _ _ => Res.pure a) s

end Sys2Proof.Machine
end

