-- ==== Sys2Proof/Machine/Packed.lean ====
section
/-!
DEFINITION. The packed instructions (R65, R180).
-/
namespace Sys2Proof.Machine
open Sys2Proof

/-- The element width of a packed type. -/
def elemWidth (t : Ty) : Nat := match t with | .i8x4 | .u8x4 => 8 | _ => 16

/-- An operation on the elements of packed words, each with its own flags (R65, R180). -/
def packed (e : Nat) (f : Nat → Nat → Nat → Res) (a b c : Nat) : Res :=
  (List.range (32 / e)).foldl (fun acc i =>
    let r := f (bitsOf a (e * i) e) (bitsOf b (e * i) e) (bitsOf c (e * i) e)
    ⟨acc.val + r.val * 2 ^ (e * i), acc.flags ||| r.flags⟩) (Res.pure 0)

/-- C plus the sum of the element products, formed exactly, at 32 bits (R180). -/
def dotLane (t : Ty) (sat : Bool) (a b c : Nat) : Res :=
  let e := elemWidth t
  narrow 32 (tySigned t) sat ((List.range (32 / e)).foldl (fun (acc : Int) i =>
    acc + readInt e (tySigned t) (bitsOf a (e * i) e) * readInt e (tySigned t) (bitsOf b (e * i) e))
    (readInt 32 (tySigned t) c))

/-- A packed operation on element integers with Sat or Wrap at the element width (R180). -/
def packedInt (t : Ty) (sat : Bool) (f : Int → Int → Int) : Nat → Nat → Nat → Res :=
  packed (elemWidth t) (fun a b _ => intOp (elemWidth t) (tySigned t) sat (fun x y _ => f x y) a b 0)

/-- DOT2 (R180). -/
def execDot2 (x : Args4) (s : State) : Host.Outcome State Fault Refusal :=
  laneOp (.dot2 x) (formOf4 x false false false false 6) (dotLane x.ty x.sat) s

/-- DOT4 (R180). -/
def execDot4 (x : Args4) (s : State) : Host.Outcome State Fault Refusal :=
  laneOp (.dot4 x) (formOf4 x false false false false 6) (dotLane x.ty x.sat) s

/-- PADD (R65, R180). -/
def execPadd (x : Args) (s : State) : Host.Outcome State Fault Refusal :=
  laneOp (.padd x) (formOf x false false false 4) (packedInt x.ty x.sat (fun a b => a + b)) s

/-- PSUB (R65, R180). -/
def execPsub (x : Args) (s : State) : Host.Outcome State Fault Refusal :=
  laneOp (.psub x) (formOf x false false false 4) (packedInt x.ty x.sat (fun a b => a - b)) s

/-- PMUL (R65, R180). -/
def execPmul (x : Args) (s : State) : Host.Outcome State Fault Refusal :=
  laneOp (.pmul x) (formOf x false false false 6) (packedInt x.ty x.sat (fun a b => a * b)) s

/-- PMIN (R65, R180). -/
def execPmin (x : Args) (s : State) : Host.Outcome State Fault Refusal :=
  laneOp (.pmin x) (formOf x false false false 4) (packedInt x.ty false (fun a b => min a b)) s

/-- PMAX (R65, R180). -/
def execPmax (x : Args) (s : State) : Host.Outcome State Fault Refusal :=
  laneOp (.pmax x) (formOf x false false false 4) (packedInt x.ty false (fun a b => max a b)) s

/-- PSHR: each element over 2^(Bi mod e), rounded (R180). -/
def pshrLane (t : Ty) (rnd : Nat) : Nat → Nat → Nat → Res :=
  let e := elemWidth t
  packed e (fun a b _ => Res.pure (wrapNat e (roundInt rnd (readInt e (tySigned t) a) (2 ^ (b % e))).1))

/-- PSHR (R180). -/
def execPshr (x : Args) (s : State) : Host.Outcome State Fault Refusal :=
  laneOp (.pshr x) (formOf x false false false 4) (pshrLane x.ty x.rnd.toNat) s

/-- One operand taken as a result: a float NaN becomes the canonical one, a signalling one sets NVL (R67), and a malformed residue
word is reduced and sets RNG (R77). -/
def soleOperand (t : Ty) (v : Nat) : Res :=
  let float := fun (f : FFmt) (v : Nat) => match f.value v with
    | .nan signalling => f.nanRes (flagIf signalling fNvl)
    | _ => Res.pure v
  match t with
  | .f32 => float fmtF32 v
  | .bf16x2 => packed 16 (fun a _ _ => float fmtBF16 a) v 0 0
  | .res28 => ⟨resWord (resRead v), resFlags [v]⟩
  | _ => Res.pure v

end Sys2Proof.Machine
end

