-- ==== Sys2Proof/Machine/Convert.lean ====
section
/-!
DEFINITION. The conversions (R189 to R191) and the residue instructions (R192, R193).
-/
namespace Sys2Proof.Machine
open Sys2Proof

/-- The source format of a conversion: IMM[5:0] (R161, R189). -/
def srcTy (imm : Word) : Ty := (Ty.ofCode (imm.extractLsb' 0 6)).getD .untyped

/-- One conversion (R73, R189) from type `st` to type `dt`, in the bits of `dt`. -/
def convert (st dt : Ty) (rnd : Nat) (sat : Bool) (a : Nat) : Res :=
  match tyIsFloat st, tyIsFloat dt with
  | false, false => narrow (tyWidth dt) (tySigned dt) sat (readInt (tyWidth st) (tySigned st) a)
  | false, true => (tyFloat dt).roundIntVal rnd sat (readInt (tyWidth st) (tySigned st) a)
  | true, false => floatToInt (tyFloat st) (tyWidth dt) (tySigned dt) rnd a
  | true, true => floatToFloat (tyFloat st) (tyFloat dt) rnd sat a

/-- The result of a conversion as it stands in a register: a narrow signed integer sign-extended (R62). -/
def convertLane (st dt : Ty) (rnd : Nat) (sat : Bool) (a : Nat) : Res :=
  let r := convert st dt rnd sat a
  if tyWidth dt < 32 then ⟨toLane (tyWidth dt) (tySigned dt) r.val, r.flags⟩ else r

/-- CVT (R73, R189). -/
def execCvt (x : Args) (s : State) : Host.Outcome State Fault Refusal :=
  laneOp (.cvt x) (formOf1 x (tyWide x.ty) (tyWide (srcTy x.imm)) 6)
    (fun a _ _ => convertLane (srcTy x.imm) x.ty x.rnd.toNat x.sat a) s

/-- The element type of a CVTN result (R190). -/
def cvtnElem : Ty → Ty
  | .f16x2 => .f16 | .bf16x2 => .bf16 | .i16x2 => .i16 | .u16x2 => .u16 | .i8x4 => .i8 | .u8x4 => .u8 | t => t
/-- CVTN (R190): two conversions packed; the 8-bit results go into the half SEL of D, whose other bytes stay. -/
def cvtnLane (x : Args) (a b old : Nat) : Res :=
  let e := cvtnElem x.ty
  let p := convert (srcTy x.imm) e x.rnd.toNat x.sat a
  let q := convert (srcTy x.imm) e x.rnd.toNat x.sat b
  let w := tyWidth e
  let pair := p.val + q.val * 2 ^ w
  if w = 16 then ⟨pair, p.flags ||| q.flags⟩
  else
    ⟨(if x.sel = 0#4 then old / 65536 * 65536 + pair else pair * 65536 + old % 65536), p.flags ||| q.flags⟩
/-- CVTN reads D as its third source when its results are 8 bits wide (R190). -/
def cvtnForm (x : Args) : LaneForm :=
  ⟨x.head, x.d, x.a, x.b, if tyWidth (cvtnElem x.ty) = 8 then x.d else .zero, x.imm, false, false, false, false, 6⟩

/-- CVTN (R190). -/
def execCvtn (x : Args) (s : State) : Host.Outcome State Fault Refusal :=
  laneOp (.cvtn x) (cvtnForm x) (cvtnLane x) s

/-- The value of an SC16 word with E ≥ 1 as a numerator over 2^134 (R81): (256 + F) · 2^(E − 1). -/
def sc16Num (w : Nat) : Nat := if w / 256 % 256 = 0 then 0 else (256 + w % 256) * 2 ^ (w / 256 % 256 - 1)
/-- The exponent of the denominator of `sc16Num`. -/
def sc16Den : Nat := 134

/-- The least SC16 word with E ≥ 1 whose value times qmax is at least num/den (R191): the words in order of value, one
bit at a time. -/
def leastScale (qmax num den : Nat) : Nat :=
  let enough := fun w => decide (num * 2 ^ sc16Den ≤ sc16Num w * qmax * den)
  let top := (List.range 16).reverse.foldl (fun acc b =>
    let t := acc + 2 ^ b
    if enough (256 + t - 1) then acc else t) 0
  256 + top

/-- A finite element as sign, numerator and denominator; none for a NaN or an infinity. -/
def finiteOf (x : Nat) : Option (Bool × Nat × Nat) :=
  match fmtF32.value x with
  | .fin n m e => let q := ratOf m e; some (n, q.1, q.2)
  | _ => none

/-- The largest finite magnitude of a group, as numerator and denominator; none when there is none or it is 0. -/
def groupMax (xs : List Nat) : Option (Nat × Nat) :=
  xs.foldl (fun acc x => match finiteOf x with
    | none => acc
    | some (_, n, d) =>
      if n = 0 then acc
      else match acc with
        | none => some (n, d)
        | some (n', d') => if n' * d < n * d' then some (n, d) else acc) none

/-- One element quantised (R191): its integer and the flags. -/
def quantise (qmax scale rnd : Nat) (x : Nat) : Int × Flags :=
  match fmtF32.value x with
  | .nan _ => (0, fNvl)
  | .inf n => (if n then -(qmax : Int) else qmax, fNvl)
  | .fin n m e =>
    if sc16Num scale = 0 then (0, fNone)
    else
      let q := ratOf m e
      let r := roundMag rnd n (q.1 * 2 ^ sc16Den) (q.2 * sc16Num scale)
      let y := min r.1 qmax
      (if n then -(y : Int) else y, flagIf r.2 fInx)

/-- The scale of a group for elements bounded by qmax (R191). -/
def groupScale (qmax : Nat) (xs : List Nat) : Nat :=
  match groupMax xs with | none => 0 | some (n, d) => leastScale qmax n d

/-- CVTQ (R191): the lanes of the write mask hold one group, four elements a lane. -/
def cvtqBody (x : Args) (c : Ictx) : Body :=
  match directReg x.d, directReg x.a with
  | some d, some a =>
    let qmax := if x.ty = .d8 then 127 else 7
    let w := if x.ty = .d8 then 8 else 4
    let el := fun l j => ((c.v.reg (a + j)).shape.lane l).toNat
    let scale := groupScale qmax ((Lanes.toList c.mask).flatMap fun l => (List.range 4).map (el l))
    let q := fun l j => quantise qmax scale x.rnd.toNat (el l j)
    let word := fun l => (List.range 4).foldl (fun acc j => acc + wrapNat w (q l j).1 * 2 ^ (w * j)) 0
    let uniform := (List.range 4).all fun j => (c.v.reg (a + j)).shape.isU
    .go { c.plan with
      regs := [⟨d, 0, c.mask, LaneVec.of (fun l => BitVec.ofNat 32 (word l)), none⟩,
               ⟨d + 1, 0, c.mask, LaneVec.of (fun _ => BitVec.ofNat 32 scale), none⟩]
      flags := laneFlags c.mask (fun l => (q l 0).2 ||| (q l 1).2 ||| (q l 2).2 ||| (q l 3).2)
      timing := .fixed (if fullWidth c.mask && uniform then 2 else 10) }
  | _, _ => .go c.plan

/-- CVTQ (R191). -/
def execCvtq (x : Args) (s : State) : Host.Outcome State Fault Refusal :=
  issue (.cvtq x) x.head x.imm (cvtqBody x) s

/-- RADD (R77, R192). -/
def execRadd (x : Args) (s : State) : Host.Outcome State Fault Refusal :=
  laneOp (.radd x) (formOf x false false false 6) (fun a b _ => resBinary (fun a b => a + b) a b) s

/-- RSUB (R77, R192). -/
def execRsub (x : Args) (s : State) : Host.Outcome State Fault Refusal :=
  laneOp (.rsub x) (formOf x false false false 6) (fun a b _ => resBinary (fun a b => a - b) a b) s

/-- RMUL (R77, R192). -/
def execRmul (x : Args) (s : State) : Host.Outcome State Fault Refusal :=
  laneOp (.rmul x) (formOf x false false false 6) (fun a b _ => resBinary (fun a b => a * b) a b) s

/-- RCVT (R78, R193): to and from RES28. -/
def rcvtLane (t st : Ty) (rnd : Nat) (a : Nat) : Res :=
  match t with
  | .res28 => resFromInt (readInt 32 (tySigned st) a)
  | .f32 => (fmtF32.roundIntVal rnd false (resCrt (resRead a))).also (resFlags [a])
  | _ => ⟨wrapNat 32 (resCrt (resRead a)), resFlags [a]⟩

/-- RCVT (R193). -/
def execRcvt (x : Args) (s : State) : Host.Outcome State Fault Refusal :=
  laneOp (.rcvt x) (formOf1 x false false 6) (fun a _ _ => rcvtLane x.ty (srcTy x.imm) x.rnd.toNat a) s

end Sys2Proof.Machine
end

