-- ==== Sys2Proof/Machine/CrossLane.lean ====
section
/-!
DEFINITION. The predicate instructions (R194) and the cross-lane instructions (R195 to R201).
-/
namespace Sys2Proof.Machine
open Sys2Proof

/-- The form of a predicate instruction. -/
def predForm (x : Args) : LaneForm := formOf x false false false 2

/-- PAND (R194). -/
def execPand (x : Args) (s : State) : Host.Outcome State Fault Refusal :=
  predOp (.pand x) (predForm x) (fun a b => (decide (a ≠ 0) && decide (b ≠ 0), fNone)) s
/-- POR (R194). -/
def execPor (x : Args) (s : State) : Host.Outcome State Fault Refusal :=
  predOp (.por x) (predForm x) (fun a b => (decide (a ≠ 0) || decide (b ≠ 0), fNone)) s
/-- PXOR (R194). -/
def execPxor (x : Args) (s : State) : Host.Outcome State Fault Refusal :=
  predOp (.pxor x) (predForm x) (fun a b => (decide (a ≠ 0) != decide (b ≠ 0), fNone)) s
/-- PNOT (R194). -/
def execPnot (x : Args) (s : State) : Host.Outcome State Fault Refusal :=
  predOp (.pnot x) (predForm x) (fun a _ => (decide (a = 0), fNone)) s

/-- PGET (R194): the predicate's bit of every lane, issued or not, in each lane of the write mask. -/
def pgetBody (x : Args) (c : Ictx) : Body :=
  let m := match x.a with | .p n => c.v.pred n.toNat | _ => 0#32
  .go { c.plan with regs := destWrites c x.d 1 c.mask (fun _ => m.toNat), timing := .fixed 2 }
/-- PGET (R194). -/
def execPget (x : Args) (s : State) : Host.Outcome State Fault Refusal := issue (.pget x) x.head x.imm (pgetBody x) s

/-- PSET (R194): bit ℓ of A[ℓ]. -/
def psetBody (x : Args) (c : Ictx) : Body :=
  let src := c.src x.imm
  .go { c.plan with preds := predWrites x.d c.mask (fun l => (src.word x.a l).getLsbD l), timing := .fixed 2 }
/-- PSET (R194). -/
def execPset (x : Args) (s : State) : Host.Outcome State Fault Refusal := issue (.pset x) x.head x.imm (psetBody x) s

/-! ### Members and supplies (R195, R196) -/

/-- M: the member mask, or the issuing set where IMM is 0 (R195). -/
def members (imm : Word) (c : Ictx) : Lanes := if imm = 0#32 then c.iset else imm

/-- MEMBER (R195): a lane of I is missing from M, or M names a live lane outside I. -/
def memberTrap (imm : Word) (c : Ictx) : Option Trap :=
  let m := members imm c
  let off := (c.iset &&& ~~~m) ||| (m &&& c.live &&& ~~~c.iset)
  if off = 0#32 then none else some ⟨.member, m.setWidth 64, off⟩

/-- The exited lanes of M (R196). -/
def exitedMembers (imm : Word) (c : Ictx) : Lanes := members imm c &&& ~~~c.live

/-- What lane k supplies to SLIDE, SHFL and BCAST, and whether it is an exited lane of M (R196). -/
def supply (x : Args) (c : Ictx) (k : Int) : Nat × Bool :=
  if k < 0 ∨ 31 < k then (0, false)
  else
    let l := k.toNat
    if c.iset.getLsbD l && (members x.imm c).getLsbD l then ((c.src 0#32).val x.a (tyWide x.ty) l, false)
    else (0, (exitedMembers x.imm c).getLsbD l)

/-- A cross-lane move: lane ℓ takes what lane `from ℓ` supplies, 8 cycles after sampling (R142, R198). -/
def moveBody (x : Args) (source : Ictx → Nat → Int) (c : Ictx) : Body :=
  match memberTrap x.imm c with
  | some t => .trap t
  | none =>
    .go { c.plan with
      regs := destWrites c x.d (if tyWide x.ty then 2 else 1) c.mask (fun l => (supply x c (source c l)).1)
      flags := laneFlags c.mask (fun l => flagIf (supply x c (source c l)).2 fExr)
      timing := .fixed 8 }

/-- The lane SLIDE reads: ℓ + b, ℓ − b, or (ℓ + b) mod 32 (R198). -/
def slideSource (x : Args) (c : Ictx) (l : Nat) : Int :=
  let b := ((c.src 0#32).word x.b l).toNat
  match x.sel.toNat with
  | 0 => (l + b : Nat)
  | 1 => (l : Int) - b
  | _ => ((l + b) % 32 : Nat)
/-- The lane SHFL reads (R198). -/
def shflSource (x : Args) (c : Ictx) (l : Nat) : Int :=
  let b := ((c.src 0#32).word x.b l).toNat % 32
  ((if x.sel = 0#4 then b else l ^^^ b : Nat) : Int)
/-- The lane BCAST reads: B of the lowest lane of the write mask (R198). -/
def bcastSource (x : Args) (c : Ictx) (_ : Nat) : Int := (((c.src 0#32).word x.b c.lead).toNat % 32 : Nat)

/-- SLIDE (R198). -/
def execSlide (x : Args) (s : State) : Host.Outcome State Fault Refusal :=
  issue (.slide x) x.head x.imm (moveBody x (slideSource x)) s
/-- SHFL (R198). -/
def execShfl (x : Args) (s : State) : Host.Outcome State Fault Refusal :=
  issue (.shfl x) x.head x.imm (moveBody x (shflSource x)) s
/-- BCAST (R198). -/
def execBcast (x : Args) (s : State) : Host.Outcome State Fault Refusal :=
  issue (.bcast x) x.head x.imm (moveBody x (bcastSource x)) s

/-- EXR where M names an exited lane (R196). -/
def exitedFlag (imm : Word) (c : Ictx) : Flags := flagIf (exitedMembers imm c != 0#32) fExr

/-- VOTE (R199): contributing lanes are those of the write mask; the same value in each. -/
def voteBody (x : Args) (c : Ictx) : Body :=
  match memberTrap x.imm c with
  | some t => .trap t
  | none =>
    let t : Lanes := Lanes.of fun l => c.mask.getLsbD l && decide ((c.src 0#32).word x.a l ≠ 0#32)
    let plan := { c.plan with flags := exitedFlag x.imm c, timing := .fixed 8 }
    match x.sel.toNat with
    | 0 => .go { plan with preds := predWrites x.d c.mask (fun _ => decide (t ≠ 0#32)) }
    | 1 => .go { plan with preds := predWrites x.d c.mask (fun _ => decide (t = c.mask)) }
    | 2 => .go { plan with regs := destWrites c x.d 1 c.mask (fun _ => t.toNat) }
    | _ => .go { plan with regs := destWrites c x.d 1 c.mask (fun _ => t.count) }
/-- VOTE (R199). -/
def execVote (x : Args) (s : State) : Host.Outcome State Fault Refusal := issue (.vote x) x.head x.imm (voteBody x) s

/-- MATCH (R199): lanes whose full A is equal, or whether all contributing lanes agree. -/
def matchBody (x : Args) (c : Ictx) : Body :=
  match memberTrap x.imm c with
  | some t => .trap t
  | none =>
    let val := fun l => (c.src 0#32).val x.a (tyWide x.ty) l
    let same := fun l => Lanes.of fun m => c.mask.getLsbD m && decide (val m = val l)
    let plan := { c.plan with flags := exitedFlag x.imm c, timing := .fixed 8 }
    if x.sel = 0#4 then .go { plan with regs := destWrites c x.d 1 c.mask (fun l => (same l).toNat) }
    else .go { plan with preds := predWrites x.d c.mask (fun _ => decide (same c.lead = c.mask)) }
/-- MATCH (R199). -/
def execMatchLanes (x : Args) (s : State) : Host.Outcome State Fault Refusal :=
  issue (.matchLanes x) x.head x.imm (matchBody x) s

/-! ### REDUX and SCAN (R200, R201) -/

/-- The identity of an operation in a type (R196). -/
def reduxIdentity (t : Ty) (op : Nat) : Nat :=
  match op with
  | 0 => if t = .f32 then 0x80000000 else 0
  | 1 => if t = .f32 then 0x7F800000 else wrapNat 32 (highest 32 (tySigned t))
  | 2 => if t = .f32 then 0xFF800000 else wrapNat 32 (lowest 32 (tySigned t))
  | 3 => 0xFFFFFFFF
  | _ => 0

/-- One Op of the tree (R200). -/
def reduxOp (t : Ty) (op rnd : Nat) (a b : Nat) : Res :=
  match op with
  | 0 =>
    match t with
    | .f32 => fAdd fmtF32 rnd false a b
    | .res28 => resBinary (fun a b => a + b) a b
    | _ => Res.pure ((a + b) % 2 ^ 32)
  | 1 => if t = .f32 then fMinMax fmtF32 true a b
    else Res.pure (wrapNat 32 (min (readInt 32 (tySigned t) a) (readInt 32 (tySigned t) b)))
  | 2 => if t = .f32 then fMinMax fmtF32 false a b
    else Res.pure (wrapNat 32 (max (readInt 32 (tySigned t) a) (readInt 32 (tySigned t) b)))
  | 3 => Res.pure (a &&& b)
  | 4 => Res.pure (a ||| b)
  | _ => Res.pure (a ^^^ b)

/-- Combine neighbours: x[ℓ] ← Op(x[ℓ], x[ℓ + 1]) for even ℓ, and only those are kept (R200). -/
def pairUp (op : Nat → Nat → Res) : List Res → List Res
  | a :: b :: rest =>
    let r := op a.val b.val
    ⟨r.val, r.flags ||| a.flags ||| b.flags⟩ :: pairUp op rest
  | l => l

/-- The tree of R200 over 32 contributions. -/
def reduxTree (op : Nat → Nat → Res) (xs : List Res) : Res :=
  match pairUp op (pairUp op (pairUp op (pairUp op (pairUp op xs)))) with
  | r :: _ => r
  | [] => Res.pure 0

/-- The contributions: A in the contributing lanes, else the identity (R196). -/
def contributions (x : Args) (c : Ictx) (op : Nat) : List Nat :=
  laneIds.map fun l => if c.mask.getLsbD l then ((c.src 0#32).word x.a l).toNat else reduxIdentity x.ty op

/-- The exact sum of signed or unsigned words. -/
def integerSum (t : Ty) (xs : List Nat) : Int := xs.foldl (fun acc v => acc + readInt 32 (tySigned t) v) 0

/-- The flags that the inputs of a reduction set whatever becomes of them: NVL of a signalling NaN (R67), RNG of a malformed word
(R77, R200). -/
def inputFlags (t : Ty) (xs : List Nat) : Flags := xs.foldl (fun f v => f ||| (soleOperand t v).flags) fNone

/-- REDUX (R200): one value in every lane of the write mask, 14 cycles after sampling. -/
def reduxBody (x : Args) (c : Ictx) : Body :=
  match memberTrap x.imm c with
  | some t => .trap t
  | none =>
    let op := x.sel.toNat
    let xs := contributions x c op
    let r := if x.sat then narrow 32 (tySigned x.ty) true (integerSum x.ty xs)
      else reduxTree (reduxOp x.ty op x.rnd.toNat) (xs.map Res.pure)
    .go { c.plan with
      regs := destWrites c x.d 1 c.mask (fun _ => r.val)
      flags := r.flags ||| inputFlags x.ty xs ||| exitedFlag x.imm c
      timing := .fixed 14 }
/-- REDUX (R200). -/
def execRedux (x : Args) (s : State) : Host.Outcome State Fault Refusal := issue (.redux x) x.head x.imm (reduxBody x) s

/-- One pass of the tree of R201 at distance d, with the flags of its Ops. -/
def scanPass (op : Nat → Nat → Res) (d : Nat) (xs : List Nat × Flags) : List Nat × Flags :=
  let rs := laneIds.map fun l => if d ≤ l then op (xs.1.getD (l - d) 0) (xs.1.getD l 0) else Res.pure (xs.1.getD l 0)
  (rs.map (·.val), rs.foldl (fun f r => f ||| r.flags) xs.2)

/-- SCAN (R201): the prefix through lane ℓ, or before it for SEL 8 and above; 14 cycles after sampling. A prefix of one lane is
that lane's operand taken as a result. -/
def scanBody (x : Args) (c : Ictx) : Body :=
  match memberTrap x.imm c with
  | some t => .trap t
  | none =>
    let op := x.sel.toNat % 8
    let raw := contributions x c op
    let xs := if 8 ≤ x.sel.toNat then reduxIdentity x.ty op :: raw.take 31 else raw
    let f := reduxOp x.ty op x.rnd.toNat
    let tree := [1, 2, 4, 8, 16].foldl (fun acc d => scanPass f d acc) (xs, fNone)
    let exact := fun l => narrow 32 (tySigned x.ty) true (integerSum x.ty (xs.take (l + 1)))
    .go { c.plan with
      regs := destWrites c x.d 1 c.mask (fun l => if x.sat then (exact l).val else (soleOperand x.ty (tree.1.getD l 0)).val)
      flags := (if x.sat then laneFlags c.mask (fun l => (exact l).flags) else tree.2)
        ||| inputFlags x.ty raw ||| exitedFlag x.imm c
      timing := .fixed 14 }
/-- SCAN (R201). -/
def execScan (x : Args) (s : State) : Host.Outcome State Fault Refusal := issue (.scan x) x.head x.imm (scanBody x) s

end Sys2Proof.Machine
end

