-- ==== Sys2Proof/Machine/Float.lean ====
section
/-!
DEFINITION. The float instructions (R181 to R188).
-/
namespace Sys2Proof.Machine
open Sys2Proof

/-- FADD (R68, R181, R182). -/
def execFadd (x : Args) (s : State) : Host.Outcome State Fault Refusal :=
  laneOp (.fadd x) (formOf x false false false 6) (fun a b _ => fAdd fmtF32 x.rnd.toNat x.sat a b) s

/-- FSUB (R68, R181, R182). -/
def execFsub (x : Args) (s : State) : Host.Outcome State Fault Refusal :=
  laneOp (.fsub x) (formOf x false false false 6) (fun a b _ => fSub fmtF32 x.rnd.toNat x.sat a b) s

/-- FMUL (R68, R181, R182). -/
def execFmul (x : Args) (s : State) : Host.Outcome State Fault Refusal :=
  laneOp (.fmul x) (formOf x false false false 6) (fun a b _ => fMul fmtF32 x.rnd.toNat x.sat a b) s

/-- FFMA (R68, R181, R182). -/
def execFfma (x : Args4) (s : State) : Host.Outcome State Fault Refusal :=
  laneOp (.ffma x) (formOf4 x false false false false 6) (fun a b c => fFma fmtF32 x.rnd.toNat x.sat a b c) s

/-- FMIN (R182). -/
def execFmin (x : Args) (s : State) : Host.Outcome State Fault Refusal :=
  laneOp (.fmin x) (formOf x false false false 6) (fun a b _ => fMinMax fmtF32 true a b) s

/-- FMAX (R182). -/
def execFmax (x : Args) (s : State) : Host.Outcome State Fault Refusal :=
  laneOp (.fmax x) (formOf x false false false 6) (fun a b _ => fMinMax fmtF32 false a b) s

/-- FCMP (R158, R183). -/
def execFcmp (x : Args) (s : State) : Host.Outcome State Fault Refusal :=
  predOp (.fcmp x) (formOf x false false false 2) (fCmp fmtF32 x.sel.toNat) s

/-- FRCP (R184, R185). -/
def execFrcp (x : Args) (s : State) : Host.Outcome State Fault Refusal :=
  laneOp (.frcp x) (formOf1 x false false 16) (fun a _ _ => fRcp fmtF32 x.rnd.toNat x.sat a) s

/-- FRSQ (R184, R185). -/
def execFrsq (x : Args) (s : State) : Host.Outcome State Fault Refusal :=
  laneOp (.frsq x) (formOf1 x false false 16) (fun a _ _ => fRsq fmtF32 x.sat a) s

/-- FSQRT (R184, R185). -/
def execFsqrt (x : Args) (s : State) : Host.Outcome State Fault Refusal :=
  laneOp (.fsqrt x) (formOf1 x false false 16) (fun a _ _ => fSqrt fmtF32 x.rnd.toNat x.sat a) s

/-- FEXP2 (R184, R185). -/
def execFexp2 (x : Args) (s : State) : Host.Outcome State Fault Refusal :=
  laneOp (.fexp2 x) (formOf1 x false false 16) (fun a _ _ => fExp2 fmtF32 x.sat a) s

/-- FLOG2 (R184, R185). -/
def execFlog2 (x : Args) (s : State) : Host.Outcome State Fault Refusal :=
  laneOp (.flog2 x) (formOf1 x false false 16) (fun a _ _ => fLog2 fmtF32 x.sat a) s

/-- FSINP (R184, R185). -/
def execFsinp (x : Args) (s : State) : Host.Outcome State Fault Refusal :=
  laneOp (.fsinp x) (formOf1 x false false 16) (fun a _ _ => fSinp fmtF32 x.sat a) s

/-- FCOSP (R184, R185). -/
def execFcosp (x : Args) (s : State) : Host.Outcome State Fault Refusal :=
  laneOp (.fcosp x) (formOf1 x false false 16) (fun a _ _ => fCosp fmtF32 x.sat a) s

/-- FCLASS (R186). -/
def execFclass (x : Args) (s : State) : Host.Outcome State Fault Refusal :=
  laneOp (.fclass x) (formOf1 x false false 6) (fun a _ _ => Res.pure (fClass (tyFloat x.ty) a)) s

/-- FRND (R187). -/
def execFrnd (x : Args) (s : State) : Host.Outcome State Fault Refusal :=
  laneOp (.frnd x) (formOf1 x false false 6) (fun a _ _ => fRnd fmtF32 x.rnd.toNat a) s

/-- PFADD (R188). -/
def execPfadd (x : Args) (s : State) : Host.Outcome State Fault Refusal :=
  laneOp (.pfadd x) (formOf x false false false 6) (packed 16 (fun a b _ => fAdd (tyFloat x.ty) x.rnd.toNat x.sat a b)) s

/-- PFMUL (R188). -/
def execPfmul (x : Args) (s : State) : Host.Outcome State Fault Refusal :=
  laneOp (.pfmul x) (formOf x false false false 6) (packed 16 (fun a b _ => fMul (tyFloat x.ty) x.rnd.toNat x.sat a b)) s

/-- PFFMA (R188). -/
def execPffma (x : Args4) (s : State) : Host.Outcome State Fault Refusal :=
  laneOp (.pffma x) (formOf4 x false false false false 6) (packed 16 (fun a b c => fFma (tyFloat x.ty) x.rnd.toNat x.sat a b c)) s

end Sys2Proof.Machine
end

