-- ==== Sys2Proof/Machine/Access.lean ====
section
/-!
DEFINITION. Memory accesses of a gang: scratch banks and passes (R206, R207, R209), the race check (R113, R114), the
traps of R215 in their order, and the requests that perform loads, stores and atomics (R208, R212, R213, R218, R427).
-/
namespace Sys2Proof.Machine
open Sys2Proof

/-- One lane's access: the lane, its virtual or team address, and the number of a packed access in its row. -/
structure LaneAddr where
  lane : Nat
  addr : Nat
  deriving DecidableEq, Repr

/-! ### Scratch banks and passes -/

/-- The bank of a team address under a span in bytes (R206). -/
def bankOf (span a : Nat) : Nat := (a / 4) % 32 ^^^ ((a / 128) % max (span / 16) 1)

/-- The groups of lanes that one access of a width is served in (R207). -/
def passGroups (w : Nat) : List (List Nat) :=
  if w ≤ 4 then [List.range 32]
  else if w = 8 then [List.range 16, (List.range 16).map (16 + ·)]
  else (List.range 4).map fun g => (List.range 8).map (8 * g + ·)

/-- The words of 4 bytes an access touches (R207). -/
def wordsOf (w a : Nat) : List Nat := (List.range (max (w / 4) 1)).map (a / 4 + ·)

/-- The passes of a scratch access (R207); an ATOMS (`each`) never merges lanes. -/
def passes (span w : Nat) (each : Bool) (accs : List LaneAddr) : Nat :=
  (passGroups w).foldl (fun total group =>
    let mine := accs.filter (fun x => group.contains x.lane)
    let words := mine.flatMap (fun x => wordsOf w x.addr)
    let words := if each then words else words.eraseDups
    total + (List.range 32).foldl (fun m b => max m (words.filter (fun x => bankOf span (4 * x) == b)).length) 0) 0

/-- Some access reaches a line of another core of a joined team scratchpad (R209). -/
def crossesCore (t : Team) (g : Gang) (accs : List LaneAddr) : Bool :=
  accs.any fun x => t.cores.getD (t.place x.addr).1 0 != g.quad / 4

/-! ### The race check -/

/-- The race state of a granule; none is EMPTY (R113). -/
def Team.raceOf (t : Team) (granule : Nat) : Option Race := (t.race.find? (fun r => r.1 == granule)).map (·.2)

/-- A plain access of gang g conflicts with the granule's state: MRACE (R113). -/
def raceConflict (r : Option Race) (g : Nat) (write : Bool) : Bool :=
  match r, write with
  | none, _ => false
  | some (.read h), true => g != h
  | some (.read _), false => false
  | some .readMany, w => w
  | some (.write h), _ => g != h
/-- The granule's state after an access without conflict (R113). -/
def raceNext (r : Option Race) (g : Nat) (write : Bool) : Race :=
  match r, write with
  | _, true => .write g
  | none, false => .read g
  | some (.read h), false => if g = h then .read h else .readMany
  | some r, false => r
/-- The race states after the accesses of one instruction. -/
def Team.raceAfter (t : Team) (g : Nat) (write : Bool) (granules : List Nat) : List (Nat × Race) :=
  granules.foldl (fun acc k =>
    let old := (acc.find? (fun r => r.1 == k)).map (·.2)
    (k, raceNext old g write) :: acc.filter (fun r => r.1 != k)) t.race

/-! ### Traps of an access -/

/-- The lanes of a list for which a test holds, and the lowest of their addresses. -/
def failing (accs : List LaneAddr) (bad : LaneAddr → Bool) : Option (Nat × Lanes) :=
  match accs.filter bad with
  | [] => none
  | x :: xs => some (xs.foldl (fun m y => min m y.addr) x.addr,
      Lanes.of fun l => (x :: xs).any (fun y => y.lane == l))

/-- A trap of an access where some lane fails: `$tval` the lowest failing address, `$tmask` the lanes (R215). -/
def accTrap (cause : Cause) (accs : List LaneAddr) (bad : LaneAddr → Bool) : Option Trap :=
  (failing accs bad).map fun f => ⟨cause, BitVec.ofNat 64 f.1, f.2⟩

/-- ALIGN (R204). -/
def alignTrap (w : Nat) (accs : List LaneAddr) : Option Trap := accTrap .align accs (fun x => decide (x.addr % w ≠ 0))

/-- What the lanes of a virtual access lead to: each lane with its translation. -/
abbrev Walks := List (LaneAddr × Except XErr Place)

/-- Translate each lane of an access (R88, R89). -/
def walksOf (s : State) (d : ContextDesc) (accs : List LaneAddr) : Walks := accs.map fun x => (x, s.translate d x.addr)
/-- Some lane ends at an entry with the replay bit and no lane at one without it: the gang parks (R89, R215). -/
def replayable (ws : Walks) : Bool :=
  ws.any (fun x => match x.2 with | .error e => e.replay | .ok _ => false) &&
    ws.all (fun x => match x.2 with | .error e => e.replay | .ok _ => true)
/-- The stages that fail, each once (R89). -/
def stagesOf (ws : Walks) : List Bool :=
  (ws.filterMap fun x => match x.2 with | .error e => some e.host | .ok _ => none).eraseDups
/-- The addresses of an instruction's lanes: where it replays after a replayable fault, those it first formed (R203). -/
def Ictx.reuse (c : Ictx) (accs : List LaneAddr) : List LaneAddr :=
  match c.g.formed with
  | some (pc, lanes, l) =>
    if pc = c.pc ∧ lanes = c.iset then
      accs.map fun y => match l.find? (fun z => z.1 == y.lane) with | some z => ⟨y.lane, z.2⟩ | none => y
    else accs
  | none => accs
/-- What a replay of an access keeps (R203). -/
def keptAddrs (accs : List LaneAddr) : List (Nat × Nat) := accs.map fun y => (y.lane, y.addr)
/-- A lane's translation, if it has one. -/
def placeOf (ws : Walks) (x : LaneAddr) : Option Place :=
  match ws.find? (fun y => y.1 == x) with
  | some (_, .ok p) => some p
  | _ => none
/-- The lane faults fatally. -/
def fatal (ws : Walks) (x : LaneAddr) : Bool :=
  ws.any fun y => y.1 == x && (match y.2 with | .error e => !e.replay | .ok _ => false)
/-- A test on a lane's place; false where the lane has none. -/
def atPlace (ws : Walks) (f : Place → Bool) (x : LaneAddr) : Bool :=
  match placeOf ws x with | some p => f p | none => false

/-- The traps of a virtual access, in the order of R215 from PAGE on: PAGE, PROT, LDERR of a far tier that is down,
CAPX, SEALED. `reads` and `writes` say which permissions it needs; `pc` is the instruction's own (R222). -/
def virtualTrap (s : State) (ws : Walks) (reads writes : Bool) (extraProt : Place → Bool) (pc : DWord) : Option Trap :=
  let accs := ws.map (·.1)
  match accTrap .page accs (fatal ws) with
  | some t => some t
  | none =>
    match accTrap .prot accs (atPlace ws fun p => (reads && !p.r) || (writes && !p.w) || extraProt p) with
    | some t => some t
    | none =>
      match failing accs (atPlace ws fun p => p.space == .far && s.farGone) with
      | some f => some ⟨.lderr, 3#8 ++ pc.extractLsb' 0 56, f.2⟩
      | none =>
        match accTrap .capx accs (atPlace ws fun p => p.space == .device && decide (s.memcap ≤ p.addr)) with
        | some t => some t
        | none =>
          if writes then accTrap .sealed accs (atPlace ws fun p => s.isSealed p.space p.addr) else none

/-! ### Requests -/

/-- The requests of a virtual access: one for each 128-byte line its lanes reach (R216), which lies in one memory channel or
one bank of common memory, in the order of the first lane that reaches it; for each lane one of its own where they reach the line through pages
of different OWN (R374). -/
def virtualReqs (s : State) (g : Gang) (x : Grid) (ws : Walks) (f : ReqForm) (data cmp : Nat → Nat) : List Req :=
  let placed := ws.filterMap fun y => match y.2 with | .ok p => some (y.1, p) | .error _ => none
  let line := fun (p : Place) => (p.space, p.addr / 128)
  let group := fun (y : LaneAddr × Place) =>
    (y.2.space, y.2.addr / 128, if placed.any fun z => line z.2 == line y.2 && z.2.own != y.2.own then y.1.lane + 1 else 0)
  let groups := (placed.map group).eraseDups
  groups.mapIdx fun i k =>
    let mine := placed.filter fun y => group y == k
    { id := s.nextId + i, gid := g.gid, team := g.team, ctx := x.ctx,
      own := (match mine with | y :: _ => y.2.own | [] => 0), seq := g.issued, kind := f.kind, ty := f.ty,
      space := k.1, channel := s.channelOf k.1 (128 * k.2.1),
      accs := mine.map fun y => ⟨y.1.lane, keyOf y.2.space y.2.addr, data y.1.lane, cmp y.1.lane⟩,
      acq := f.acq, rel := f.rel, who := g.quad, cls := x.cls.service, stamp := s.stampOf x, due := none,
      quad := g.quad, sent := s.uc.toNat, served := false }

/-- The first cycle in which a scratch access that is sampled in a cycle may start its passes, and the state in which
the port is taken (R209). -/
def State.takePort (s : State) (quad sample count : Nat) : Nat × State :=
  let start := max (sample + 1) ((s.quads.map (·.portFree)).getD quad 0)
  (start, s.onQuad quad fun q => { q with portFree := start + count })

end Sys2Proof.Machine
end

