-- ==== Sys2Proof/Machine/Memory.lean ====
section
/-!
DEFINITION. The memory group (R202 to R229): loads, stores, packed forms, atomics, prefetch, fences, sealing, modulo
set-up and address arithmetic.
-/
namespace Sys2Proof.Machine
open Sys2Proof

/-- How an instruction forms its addresses (R202): operand A, the signed offset as an integer, whether the address is a
team address, and the width. -/
structure AddrForm where
  a    : Operand
  off  : Int
  team : Bool
  w    : Nat

/-- Bits of an address. -/
def AddrForm.bits (f : AddrForm) : Nat := if f.team then 32 else 64

/-- The modulo register an address names, if it is one. -/
def AddrForm.modNo (f : AddrForm) : Option Nat := match f.a with | .m n => some n.toNat | _ => none

/-- The address of element j in lane ℓ: j is ℓ for the plain forms, and the lane's rank in the write mask, with `base`
its lowest lane, for the packed ones (R202, R214). -/
def AddrForm.at (f : AddrForm) (v : Gang) (lane j : Nat) (packed : Bool) : Nat :=
  match f.modNo with
  | some n =>
    let m := v.modreg n
    let o := (m.off.toNat + j * f.w) % m.len.toNat
    (m.base.toNat + o) % 2 ^ f.bits
  | none =>
    let a := (⟨v, 0#32⟩ : Src).val f.a (!f.team) lane
    wrapNat f.bits ((a : Int) + f.off + (if packed then (j * f.w : Nat) else 0))

/-- The accesses of the write mask (R202); a packed form takes its base from the lowest lane (R214). -/
def AddrForm.accesses (f : AddrForm) (c : Ictx) (packed : Bool) : List LaneAddr :=
  let ls := Lanes.toList c.mask
  if packed then ls.mapIdx fun j l => ⟨l, f.at c.v c.lead j true⟩
  else ls.map fun l => ⟨l, f.at c.v l l false⟩

/-- OPERAND for a modulo register whose LEN is 0 (R202). -/
def AddrForm.uninitialised (f : AddrForm) (c : Ictx) : Option Trap :=
  match f.modNo with
  | some n => if (c.v.modreg n).len = 0#32 then
      some ⟨.operand, BitVec.ofNat 64 (2 ^ 16 + f.a.code.toNat), c.iset⟩ else none
  | none => none

/-- OFF moved on by a number of bytes, modulo LEN (R203). -/
def AddrForm.advance (f : AddrForm) (g v : Gang) (bytes : Nat) : Gang :=
  match f.modNo with
  | some n =>
    let m := v.modreg n
    g.writeMod (n, { m with off := BitVec.ofNat 32 ((m.off.toNat + bytes) % m.len.toNat) })
  | none => g

/-- How far an instruction moves OFF: 32·w, or the lanes it moves times w (R203). -/
def stepBytes (f : AddrForm) (c : Ictx) (packed : Bool) : Nat := (if packed then c.mask.count else 32) * f.w

/-- A source of `count` registers in a lane as one number (R210). -/
def Src.wideVal (src : Src) (o : Operand) (count l : Nat) : Nat :=
  if count ≤ 2 then src.val o (count == 2) l
  else match src.g.regNo o l with
    | some n => (List.range count).foldl (fun acc j => acc + ((src.g.reg (n + j)).shape.lane l).toNat * 2 ^ (32 * j)) 0
    | none => 0

/-- What an access of the memory group is. -/
structure AccessForm where
  addr   : AddrForm
  kind   : ReqKind
  ty     : Ty
  ord    : BitVec 2
  packed : Bool
  each   : Bool
  dest   : Option Operand
  data   : Operand
  cmp    : Operand
  extra  : Place → Bool

/-- The access reads memory. -/
def AccessForm.reads (f : AccessForm) : Bool := match f.kind with | .store => false | _ => true
/-- The access writes memory. -/
def AccessForm.writes (f : AccessForm) : Bool := match f.kind with | .load => false | _ => true
/-- Its request form: ORD 1 and 3 acquire, 2 and 3 release (R159). -/
def AccessForm.req (f : AccessForm) : ReqForm := ⟨f.kind, f.ty, f.ord.getLsbD 0, f.ord.getLsbD 1⟩

/-- Its register result before the values come: zeros in the lanes of the write mask. -/
def AccessForm.result (f : AccessForm) (c : Ictx) : List RegWrite :=
  match f.dest with
  | some d => destWrites c d (memCount f.ty) c.mask (fun _ => 0)
  | none => []

/-- The data of a lane. -/
def AccessForm.dataOf (f : AccessForm) (c : Ictx) (l : Nat) : Nat := (c.src 0#32).wideVal f.data (memCount f.ty) l
/-- The comparison value of a lane. -/
def AccessForm.cmpOf (f : AccessForm) (c : Ictx) (l : Nat) : Nat := (c.src 0#32).wideVal f.cmp (memCount f.ty) l

/-- The step that performs a request: the controller serves device memory and the second tier, a bank ALU an atomic to
common memory (R309), every other unit its own. -/
def performStep (s : State) (r : Req) : Instr :=
  match r.space, r.kind, r.accs with
  | .device, _, _ | .tier2, _, _ => .memoryRequest r.channel none
  | .common, .atomic _ _, a :: _ => .bankOperation (s.bankNo (a.key % 2 ^ 64))
  | _, _, _ => .storePerformed r.id
/-- The steps that follow a request: it is performed, then acknowledged. -/
def reqWork (s : State) (rs : List Req) : List Instr := rs.flatMap fun r => [performStep s r, .storePerformed r.id]

/-- The lanes whose address can be formed: their address register exists, and a modulo register has a LEN (R202). -/
def AddrForm.forms (f : AddrForm) (c : Ictx) (y : LaneAddr) : Bool :=
  (f.uninitialised c).isNone &&
    (match c.v.regNo f.a y.lane with
     | some n => decide (n + (if f.team then 1 else 2) ≤ c.v.r) && (f.team || decide (n % 2 = 0))
     | none => true)

/-- A virtual access (R212, R213, R215, R218). -/
def virtualBody (i : Instr) (f : AccessForm) (c : Ictx) : Body :=
  match c.s.gridOf c.g, c.s.contextOf c.g with
  | some x, some k =>
    let accs := c.reuse (f.addr.accesses c false)
    let early := walksOf c.s k.desc (accs.filter (f.addr.forms c))
    if replayable early then .replay (stagesOf early) (keptAddrs accs)
    else match indexedTrap i c with
    | some t => .trap t
    | none =>
    match f.addr.uninitialised c with
    | some t => .trap t
    | none =>
      let ws := walksOf c.s k.desc accs
      match alignTrap f.addr.w accs with
        | some t => .trap t
        | none =>
          match virtualTrap c.s ws f.reads f.writes f.extra c.pc with
          | some t => .trap t
          | none =>
            let rs := virtualReqs c.s c.g x ws f.req (f.dataOf c) (f.cmpOf c)
            let returns := f.reads && (match f.kind with | .atomic _ r => r | _ => true)
            let held := if f.kind.posted then (rs.find? (fun r => r.accs.any (fun a => c.s.isMoving r.space (a.key % 2 ^ 64)))) else none
            .go { c.plan with
              s := (c.s.addReqs rs).later (reqWork c.s rs)
              g := f.addr.advance c.g c.v (stepBytes f.addr c false)
              regs := if returns then f.result c else []
              reqs := returns
              timing := if returns then .variable (c.s.leastLoadTime c.g.quad (ws.filterMap fun y => y.2.toOption)) else .fixed 2
              park := held.map (fun r => .moving r.id) }
  | _, _ => .go c.plan

/-- MRACE of a plain scratch access under `.racecheck` (R113, R114): the granule of the lowest failing address. -/
def mraceTrap (t : Team) (k : Kernel) (g : Nat) (plain write : Bool) (accs : List LaneAddr) : Option Trap :=
  if !(k.rcen && plain) then none
  else match accTrap .mrace accs (fun x => raceConflict (t.raceOf (x.addr / 16)) g write) with
    | none => none
    | some tr =>
      let low := tr.tval.toNat / 16
      some ⟨.mrace, BitVec.ofNat 64 (low * 16),
        Lanes.of fun l => accs.any (fun x => x.lane == l && x.addr / 16 == low)⟩

/-- A scratch access (R207, R209, R212 to R215, R218): performed in its last pass, its result 16 or 20 cycles after that
and 12 more when it reaches another core. -/
def scratchBody (f : AccessForm) (c : Ictx) : Body :=
  match c.s.gridOf c.g, c.s.team? c.g.team with
  | some x, some t =>
    match f.addr.uninitialised c with
    | some tr => .trap tr
    | none =>
      let accs := f.addr.accesses c f.packed
      match alignTrap f.addr.w accs with
      | some tr => .trap tr
      | none =>
        match accTrap .prot accs (fun y => decide (scratchSize x.kernel ≤ y.addr)) with
        | some tr => .trap tr
        | none =>
          let plain := decide (f.ord = 0#2) && !f.each
          match mraceTrap t x.kernel c.g.gidx plain f.writes accs with
          | some tr => .trap tr
          | none =>
            let count := passes x.span f.addr.w f.each accs
            let p := c.s.takePort c.g.quad c.port.sample count
            let last := p.1 + count - 1
            let r : Req := {
              id := c.s.nextId, gid := c.g.gid, team := c.g.team, ctx := x.ctx, own := 1, seq := c.g.issued,
              kind := f.kind, ty := f.ty, space := .scratch, channel := 0,
              accs := accs.map (fun y => ⟨y.lane, t.scratchKey y.addr, f.dataOf c y.lane, f.cmpOf c y.lane⟩),
              acq := f.req.acq, rel := f.req.rel, who := c.g.quad, cls := x.cls.service, stamp := 0, due := some last,
              quad := c.g.quad, sent := c.s.uc.toNat, served := false }
            let returns := f.reads && (match f.kind with | .atomic _ b => b | _ => true)
            let after := (if f.each then 20 else 16) + (if crossesCore t c.g accs then 12 else 0)
            let s := p.2.addReqs [r]
            let s := if x.kernel.rcen && plain then
                s.onTeam t.id (fun t => { t with race := t.raceAfter c.g.gidx f.writes (accs.map (fun y => y.addr / 16)).eraseDups })
              else s
            .go { c.plan with
              s := s
              g := f.addr.advance c.g c.v (stepBytes f.addr c f.packed)
              regs := if returns then f.result c else []
              reqs := returns
              timing := if returns then .exact (last + after - c.port.sample) else .fixed 2 }
  | _, _ => .go c.plan

/-- The address of a load or store. -/
def memAddr (x : MemArgs) (team : Bool) : AddrForm := ⟨x.a, x.off.toInt, team, accWidth x.ty⟩
/-- A load. -/
def loadForm (x : MemArgs) (team packed : Bool) : AccessForm :=
  ⟨memAddr x team, .load, x.ty, x.ord, packed, false, some x.d, .zero, .zero, fun _ => false⟩
/-- A store. -/
def storeForm (x : MemArgs) (team packed : Bool) : AccessForm :=
  ⟨memAddr x team, .store, x.ty, x.ord, packed, false, none, x.b, .zero, fun _ => false⟩

/-- LD (R212, R215). -/
def execLd (x : MemArgs) (s : State) : Host.Outcome State Fault Refusal :=
  issue (.ld x) x.head 0#32 (virtualBody (.ld x) (loadForm x false false)) s
/-- ST (R213, R215). -/
def execSt (x : MemArgs) (s : State) : Host.Outcome State Fault Refusal :=
  issue (.st x) x.head 0#32 (virtualBody (.st x) (storeForm x false false)) s
/-- LDS (R212, R215). -/
def execLds (x : MemArgs) (s : State) : Host.Outcome State Fault Refusal :=
  issue (.lds x) x.head 0#32 (scratchBody (loadForm x true false)) s
/-- STS (R213, R215). -/
def execSts (x : MemArgs) (s : State) : Host.Outcome State Fault Refusal :=
  issue (.sts x) x.head 0#32 (scratchBody (storeForm x true false)) s
/-- LDP (R214). -/
def execLdp (x : MemArgs) (s : State) : Host.Outcome State Fault Refusal :=
  issue (.ldp x) x.head 0#32 (scratchBody (loadForm x true true)) s
/-- STP (R214). -/
def execStp (x : MemArgs) (s : State) : Host.Outcome State Fault Refusal :=
  issue (.stp x) x.head 0#32 (scratchBody (storeForm x true true)) s

/-- An atomic returns its old value unless D is `zero` (R217). -/
def atomReturns (x : AtomArgs) : Bool := x.d != .zero
/-- An atomic (R217, R218); f32 and res28 to the far tier lack permission (R219). -/
def atomForm (x : AtomArgs) (team : Bool) : AccessForm :=
  ⟨⟨x.a, x.off.toInt, team, accWidth x.ty⟩, .atomic x.aop.toNat (atomReturns x), x.ty, x.ord, false, true, some x.d, x.b, x.c,
    fun p => p.space == .far && (x.ty == .f32 || x.ty == .res28)⟩

/-- ATOM (R217 to R219). -/
def execAtom (x : AtomArgs) (s : State) : Host.Outcome State Fault Refusal :=
  issue (.atom x) x.head 0#32 (virtualBody (.atom x) (atomForm x false)) s
/-- ATOMS (R217 to R219). -/
def execAtoms (x : AtomArgs) (s : State) : Host.Outcome State Fault Refusal :=
  issue (.atoms x) x.head 0#32 (scratchBody (atomForm x true)) s

/-- PF (R225): changes no value, and the device may drop it. -/
def execPf (x : Args) (s : State) : Host.Outcome State Fault Refusal :=
  issue (.pf x) x.head 0#32 (fun c => .go c.plan) s

/-- FENCE (R105, R223, R224): at gang scope it completes at once; else it holds later accesses until the ordered earlier
ones are complete. -/
def fenceBody (x : Args) (c : Ictx) : Body :=
  if x.rnd = 0#3 then .go c.plan
  else
    let h : Hold := ⟨c.g.issued, decide (x.sel ≠ 2#4), decide (x.sel ≠ 1#4), 0#8, decide (x.sel ≠ 2#4), true, false, false⟩
    .go { c.plan with g := { c.g with holds := c.g.holds ++ [h] } }
/-- FENCE (R223). -/
def execFence (x : Args) (s : State) : Host.Outcome State Fault Refusal :=
  issue (.fence x) x.head x.imm (fenceBody x) s

/-- FENCEX (R106, R224): it waits for the gang's accesses on C when C is in the from-mask (R98 to R104), for its commands on the
other paths of the from-mask, and for its acquires, by which writes of others happen before it (R95). -/
def fencexBody (x : Args) (c : Ictx) : Body :=
  if x.rnd = 0#3 then .go c.plan
  else
    let from' := x.imm.extractLsb' 0 8
    let h : Hold := ⟨c.g.issued, from'.getLsbD 0, from'.getLsbD 0, from' &&& 0xFE#8, true, true, true, true⟩
    .go { c.plan with g := { c.g with holds := c.g.holds ++ [h] } }
/-- FENCEX (R223). -/
def execFencex (x : Args) (s : State) : Host.Outcome State Fault Refusal :=
  issue (.fencex x) x.head x.imm (fencexBody x) s

/-- The granules a lane names (R228). -/
def namedGranules (addr n : Nat) : List Nat := (List.range n).map fun i => addr + 65536 * i

/-- SEAL and UNSEAL (R111, R112, R228, R229). DESIGN CHOICE (log 32): a lane with n = 0, which names no granule, raises no ALIGN, of which
R228 does not speak. -/
def sealBody (x : Args) (close : Bool) (c : Ictx) : Body :=
  match c.s.contextOf c.g with
  | none => .go c.plan
  | some k =>
    let src := c.src 0#32
    let f : AddrForm := ⟨x.a, x.imm.toInt, false, 1⟩
    let count := fun l => (src.word x.b l).toNat
    let accs := c.reuse ((f.accesses c false).filter (fun y => decide (count y.lane ≠ 0)))
    match alignTrap 65536 accs with
    | some t => .trap t
    | none =>
      let parts := accs.flatMap fun y => (namedGranules y.addr (count y.lane)).map fun a => (⟨y.lane, a % 2 ^ 64⟩ : LaneAddr)
      let ws := walksOf c.s k.desc parts
      if replayable ws then .replay (stagesOf ws) (keptAddrs accs)
      else match accTrap .page parts (fatal ws) with
        | some t => .trap t
        | none =>
          let wrong := fun (y : LaneAddr) => decide (16384 < count y.lane) || parts.any (fun z => z.lane == y.lane &&
            atPlace ws (fun p => !p.w || !(p.space == .device || p.space == .tier2)) z)
          match accTrap .prot accs wrong with
          | some t => .trap t
          | none =>
            let ids := (ws.filterMap fun z => match z.2 with | .ok p => some (granuleOf p.space p.addr) | .error _ => none).eraseDups
            let s := c.s.performAll
            let x : Sealing := ⟨s.nextId, c.g.gid, ids, close⟩
            let s := { s with sealing := s.sealing ++ [x], nextId := s.nextId + 1 }
            let s := s.takeSeals s.sealing
            let h : Hold := ⟨c.g.issued, false, true, 0#8, true, true, false, true⟩
            .go { c.plan with
              s := s.later (if s.sealing.contains x then [.storePerformed x.id] else [])
              g := { (s.gang? c.g.gid).getD c.g with holds := c.g.holds ++ [h] } }
/-- SEAL (R228). -/
def execSeal (x : Args) (s : State) : Host.Outcome State Fault Refusal :=
  issue (.seal x) x.head 0#32 (sealBody x true) s
/-- UNSEAL (R228). -/
def execUnseal (x : Args) (s : State) : Host.Outcome State Fault Refusal :=
  issue (.unseal x) x.head 0#32 (sealBody x false) s

/-- MINIT (R227): from the lowest lane of the write mask; LEN 0 clears the register. DESIGN CHOICE (log 32): `$tmask` of its ALIGN, which
R227 does not name, is the write mask. -/
def minitBody (x : Args) (c : Ictx) : Body :=
  match x.d with
  | .m n =>
    let src := c.src 0#32
    let base := if x.sel = 0#4 then src.val x.a true c.lead else (src.word x.a c.lead).toNat
    let len := (src.word x.b c.lead).toNat
    let off := x.imm.toNat
    let bad := if len = 0 then none
      else if base % 16 ≠ 0 then some base
      else if len % 16 ≠ 0 then some len
      else if len ≤ off ∨ off % 4 ≠ 0 then some off else none
    match bad with
    | some v => .trap ⟨.align, BitVec.ofNat 64 v, c.mask⟩
    | none =>
      let m : ModReg := if len = 0 then ⟨0#64, 0#32, 0#32⟩
        else ⟨BitVec.ofNat 64 base, BitVec.ofNat 32 len, BitVec.ofNat 32 off⟩
      .go { c.plan with mods := [(n.toNat, m)], timing := .variable 4 }
  | _ => .go c.plan
/-- MINIT (R227). -/
def execMinit (x : Args) (s : State) : Host.Outcome State Fault Refusal :=
  issue (.minit x) x.head 0#32 (minitBody x) s

/-- LEA (R226): the addresses of R202, with no check beyond an uninitialised modulo register, which comes before those of
indexed operands. -/
def leaBody (x : Args) (c : Ictx) : Body :=
  let f : AddrForm := ⟨x.a, x.imm.toInt, decide (x.sel ≠ 0#4), accWidth x.ty⟩
  match (match f.uninitialised c with | some t => some t | none => indexedTrap (.lea x) c) with
  | some t => .trap t
  | none =>
    .go { c.plan with
      g := f.advance c.g c.v (32 * f.w)
      regs := destWrites c x.d (if f.team then 1 else 2) c.mask (fun l => f.at c.v l l false)
      timing := .fixed 4 }
/-- LEA (R226). -/
def execLea (x : Args) (s : State) : Host.Outcome State Fault Refusal := issue (.lea x) x.head 0#32 (leaBody x) s

end Sys2Proof.Machine
end

