-- ==== Sys2Proof/Machine/Control.lean ====
section
/-!
DEFINITION. The control group but DEFER (R235, R237, R241 to R247, R250, R251): branches, calls, returns, yields, exits,
no-operations and sleep.
-/
namespace Sys2Proof.Machine
open Sys2Proof

/-- The yield threshold of a gang's context: YTHR, 4,096 when it is 0 (R235). -/
def yieldThreshold (s : State) (g : Gang) : Nat :=
  match s.contextOf g with
  | some k => if k.desc.ythr = 0 then 4096 else k.desc.ythr
  | none => 4096

/-- Where the issued lanes go: those of the write mask as `f` says, the others to address + 12. -/
def moveLanes (c : Ictx) (f : Nat → LaneState → LaneState) : List LaneState :=
  c.g.lanes.mapIdx fun l x =>
    if c.iset.getLsbD l && x.live then (if c.mask.getLsbD l then f l x else { x with pc := c.pc + 12#64 }) else x

/-- A taken branch of a lane to a target: backward, it counts in SPIN and sets Y at the threshold (R235). -/
def branchLane (ythr : Nat) (pc target : DWord) (x : LaneState) : LaneState :=
  if target.toNat ≤ pc.toNat then
    if ythr ≤ x.spin + 1 then { x with pc := target, y := true, spin := 0 }
    else { x with pc := target, spin := x.spin + 1 }
  else { x with pc := target }

/-- The target of a displacement in 4-byte units from the instruction's own address (R161, R241). -/
def dispTarget (pc : DWord) (imm : Word) : DWord := pc + 4#64 * imm.signExtend 64

/-- BRA (R241). -/
def braBody (x : Args) (c : Ictx) : Body :=
  let t := dispTarget c.pc x.imm
  .go { c.plan with
    lanes := some (moveLanes c fun _ l => branchLane (yieldThreshold c.s c.g) c.pc t l)
    next := c.cyc + 2 }
/-- BRA (R241). -/
def execBra (x : Args) (s : State) : Host.Outcome State Fault Refusal := issue (.bra x) x.head 0#32 (braBody x) s

/-- What the check of a computed target finds in a lane (R242). -/
inductive Landing where
  | good
  | bad
  | replay (hosts : List Bool)
  deriving DecidableEq, Repr

/-- The check of R242: alignment, bits 63:56, execute permission on the pages of t and t + 8, and the LP bit. -/
def landing (s : State) (d : ContextDesc) (t : Nat) : Landing :=
  if t % 4 ≠ 0 ∨ 2 ^ 56 ≤ t then .bad
  else match s.fetchBytes d t with
    | .replay hosts => .replay hosts
    | .page _ | .prot _ => .bad
    | .bytes bs => if (bs.getD 11 0#8).getLsbD 6 then .good else .bad

/-- The 64-bit target of lane ℓ. -/
def targetOf (x : Args) (c : Ictx) (l : Nat) : Nat := (c.src 0#32).val x.a true l

/-- BRX for offending lanes: the lowest offending target and the lanes (R242, R244). -/
def brxTrap (c : Ictx) (target : Nat → Nat) (bad : Nat → Bool) : Option Trap :=
  accTrap .brx ((Lanes.toList c.mask).map fun l => ⟨l, target l⟩) (fun y => bad y.lane)

/-- The landing checks of BRX and CALLX: the trap, or a replayable fault, or go on (R242). DESIGN CHOICE (log 32): where one lane offends and
the page of another is a replayable fault, between which R242 states no order, BRX is raised. -/
def checkTargets (x : Args) (c : Ictx) (go : Unit → Body) : Body :=
  match c.s.contextOf c.g with
  | none => .go c.plan
  | some k =>
    let land := fun l => landing c.s k.desc (targetOf x c l)
    match brxTrap c (targetOf x c) (fun l => land l == .bad) with
    | some t => .trap t
    | none =>
      match (Lanes.toList c.mask).flatMap (fun l => match land l with | .replay hosts => hosts | _ => []) with
      | [] => go ()
      | hosts => .replay hosts.eraseDups []

/-- BRX (R242). -/
def brxBody (x : Args) (c : Ictx) : Body :=
  checkTargets x c fun _ => .go { c.plan with
    lanes := some (moveLanes c fun l s => branchLane (yieldThreshold c.s c.g) c.pc (BitVec.ofNat 64 (targetOf x c l)) s)
    next := c.port.sample + 8 }
/-- BRX (R242). -/
def execBrx (x : Args) (s : State) : Host.Outcome State Fault Refusal := issue (.brx x) x.head x.imm (brxBody x) s

/-- REGIDX of the link pair when R is below 2 (R243, R244). DESIGN CHOICE (log 32): its `$tmask`, which R243 does not name, is the write
mask. -/
def linkTrap (c : Ictx) : Option Trap := if c.g.r < 2 then some ⟨.regidx, 1#64, c.mask⟩ else none

/-- A call (R237, R243): the link pair, one level deeper, serial mode from a depth of 256 on. -/
def callPlan (c : Ictx) (target : Nat → DWord) (next : Nat) : Body :=
  if (Lanes.toList c.mask).any (fun l => decide (65535 ≤ (c.g.lane l).depth)) then .fault faultDepth
  else
    let back := c.pc + 12#64
    let deep := (Lanes.toList c.mask).any (fun l => decide (255 ≤ (c.g.lane l).depth))
    .go { c.plan with
      g := { c.g with serial := c.g.serial || deep }
      regs := [⟨0, 0, c.mask, LaneVec.of (fun _ => back.extractLsb' 0 32), none⟩,
               ⟨1, 1, c.mask, LaneVec.of (fun _ => back.extractLsb' 32 32), none⟩]
      lanes := some (moveLanes c fun l s => { s with pc := target l, depth := s.depth + 1 })
      timing := .fixed 4
      next := next }

/-- CALL (R243). -/
def callBody (x : Args) (c : Ictx) : Body :=
  match linkTrap c with
  | some t => .trap t
  | none => callPlan c (fun _ => dispTarget c.pc x.imm) (c.cyc + 2)
/-- CALL (R243). -/
def execCall (x : Args) (s : State) : Host.Outcome State Fault Refusal := issue (.call x) x.head 0#32 (callBody x) s

/-- CALLX (R242, R243). -/
def callxBody (x : Args) (c : Ictx) : Body :=
  match linkTrap c with
  | some t => .trap t
  | none => checkTargets x c fun _ => callPlan c (fun l => BitVec.ofNat 64 (targetOf x c l)) (c.port.sample + 8)
/-- CALLX (R242, R243). -/
def execCallx (x : Args) (s : State) : Host.Outcome State Fault Refusal := issue (.callx x) x.head x.imm (callxBody x) s

/-- The return address in a lane: the link pair v0:v1 (R244). -/
def linkOf (c : Ictx) (l : Nat) : Nat := (c.src 0#32).val (.v 0#8) true l

/-- RET (R244). -/
def retBody (c : Ictx) : Body :=
  match linkTrap c with
  | some t => .trap t
  | none =>
    match brxTrap c (linkOf c) (fun l => decide ((c.g.lane l).depth = 0) || decide (linkOf c l % 4 ≠ 0)
        || decide (2 ^ 56 ≤ linkOf c l)) with
    | some t => .trap t
    | none => .go { c.plan with
        lanes := some (moveLanes c fun l s => { s with pc := BitVec.ofNat 64 (linkOf c l), depth := s.depth - 1 })
        next := c.port.sample + 3 }
/-- RET (R244). -/
def execRet (x : Args) (s : State) : Host.Outcome State Fault Refusal := issue (.ret x) x.head 0#32 retBody s

/-- YIELD (R246). -/
def yieldBody (c : Ictx) : Body :=
  .go { c.plan with
    lanes := some (moveLanes c fun _ s => { s with pc := c.pc + 12#64, y := true, spin := 0 })
    next := c.cyc + 2 }
/-- YIELD (R246). -/
def execYield (x : Args) (s : State) : Host.Outcome State Fault Refusal := issue (.yield x) x.head 0#32 yieldBody s

/-- NOP and NOP.join (R245). -/
def execNop (x : Args) (s : State) : Host.Outcome State Fault Refusal :=
  issue (.nop x) x.head 0#32 (fun c => .go { c.plan with next := c.cyc + 2 }) s

/-- The lanes after those of the write mask have exited (R30, R247). -/
def exitLanes (c : Ictx) : List LaneState := moveLanes c fun _ s => { s with live := false }

/-- The plan of lanes that exit: with no live lane left the gang drains (R28, R247), and becomes FREE when everything it
issued is acknowledged. -/
def exitPlan (c : Ictx) (s : State) : Plan :=
  let lanes := exitLanes c
  let gone := lanes.all (fun l => !l.live)
  { c.plan with
    s := if gone then s.later [.gangFree c.g.gid] else s
    g := if gone then c.g.drain (s.gangRate c.g) else c.g
    lanes := some lanes
    next := c.cyc + 2 }

/-- EXIT (R247); in a PREEMPT handler it stows the gang whatever its write mask (R379). -/
def exitBody (c : Ictx) : Body :=
  if c.g.inStow then
    .go { c.plan with s := c.s.later [.gangStowed c.g.gid], g := { c.g with life := .stowing }, lanes := some c.g.lanes }
  else .go (exitPlan c c.s)
/-- EXIT (R247, R379). -/
def execExit (x : Args) (s : State) : Host.Outcome State Fault Refusal := issue (.exit x) x.head 0#32 exitBody s

/-- SLEEP (R250): parked until IMM cycles after its issue; a pre-emption that is pending ends it at once, outside a handler, which holds
it (R270). -/
def sleepBody (x : Args) (c : Ictx) : Body :=
  .go { c.plan with park := if c.g.preempt && !c.g.hnd then none else some (.sleep (c.cyc + x.imm.toNat)) }
/-- SLEEP (R250). -/
def execSleep (x : Args) (s : State) : Host.Outcome State Fault Refusal := issue (.sleep x) x.head 0#32 (sleepBody x) s

end Sys2Proof.Machine
end

