-- ==== Sys2Proof/Machine/Joints.lean ====
section
/-!
DEFINITION. Joints (R252 to R261) and the barrier checksum (R262, R264, R265): arrivals, waits, tests, REGX transfers,
and the arrival of a command at its joint.
-/
namespace Sys2Proof.Machine
open Sys2Proof

/-- The joint that no command names (R162). -/
def noJoint : Nat := 0x1F

/-- A joint as it stands at admission (R252). -/
def Joint.idle : Joint := ⟨.idle, 0, 0, 0, 0, [], []⟩
/-- Joint j of a team. -/
def Team.joint (t : Team) (j : Nat) : Joint := t.joints.getD j Joint.idle
/-- Replace joint j. -/
def Team.setJoint (t : Team) (j : Nat) (x : Joint) : Team := { t with joints := setAt t.joints j x }
/-- The joint is pending (R253). -/
def Joint.pending (x : Joint) : Bool := decide (0 < x.arr) || decide (0 < x.out)
/-- Phase p is complete (R253). -/
def Joint.complete (x : Joint) (p : Nat) : Bool :=
  let d := (x.phase + 2 ^ 32 - p % 2 ^ 32) % 2 ^ 32
  decide (1 ≤ d ∧ d ≤ 2 ^ 31)

/-- The reasons of JOINT (R257). -/
inductive JointReason where
  | overrun | reinit | broken | uninit | zero | range
  deriving DecidableEq, Repr
/-- Their codes (R257). -/
def JointReason.code : JointReason → Nat
  | .overrun => 1 | .reinit => 2 | .broken => 3 | .uninit => 4 | .zero => 5 | .range => 6
/-- JOINT (R257): the joint in bits 12:8, the reason in bits 7:0; the issuing set. -/
def jointTrap (j : Nat) (r : JointReason) (iset : Lanes) : Trap := ⟨.joint, BitVec.ofNat 64 (j * 256 + r.code), iset⟩

/-- The fold of R262. -/
def fold64 (c : DWord) (x : Word) : DWord := (c ^^^ x.setWidth 64) * 0x100000001B3#64
/-- C0 of R262. -/
def checkSeed : DWord := 0x9E3779B97F4A7C15#64

/-- The cycles of R260 from an event at a joint to a gang: the team's first core, or another core. -/
def jointDelay (t : Team) (g : Gang) (near far : Nat) : Nat := if g.quad / 4 = t.cores.getD 0 0 then near else far

/-- A switch marker waits behind the park of the gang and takes over from it (R144). -/
def Gang.toMarker (g : Gang) : Bool := (match g.life with | .parked _ => true | _ => false) && g.marker && g.outstanding

/-- A gang leaves its park and may issue from a cycle on (R28); a switch marker that waits behind the park takes over, and no
latch entry is valid then (R145). -/
def Gang.wake (g : Gang) (cycle : Nat) : Gang :=
  { g with
    life := match g.life with
      | .parked _ => if g.toMarker then .parked .marker else .ready
      | l => l
    latch := if g.toMarker then [none, none, none] else g.latch
    marker := false
    nextIssue := max g.nextIssue cycle }

/-- The gang waits at joint j for phase p, by JWAIT or REGX. -/
def Gang.waitsAt (g : Gang) (j p : Nat) : Bool :=
  match g.life with
  | .parked (.joint k q _ _ _ _) => decide (k = j ∧ q = p)
  | .parked (.regx k q _ _ _) => decide (k = j ∧ q = p)
  | _ => false
/-- The gang waits at joint j for any phase. -/
def Gang.waitsAnyAt (g : Gang) (j : Nat) : Bool :=
  match g.life with
  | .parked (.joint k _ _ _ _ _) => decide (k = j)
  | .parked (.regx k _ _ _ _) => decide (k = j)
  | _ => false

/-- Give the outstanding result of an instruction its value, in all its lanes. -/
def Gang.setResult (g : Gang) (seq value : Nat) : Gang :=
  { g with results := g.results.map fun r =>
    if r.seq = seq then { r with regs := r.regs.map fun w => { w with vals := LaneVec.of (fun _ => BitVec.ofNat 32 value) } }
    else r }

/-- The same, to be written in a quadrant cycle. -/
def Gang.setResultAt (g : Gang) (seq value due : Nat) : Gang :=
  let g := g.setResult seq value
  { g with results := g.results.map fun r => if r.seq = seq then { r with due := due, exactDue := true } else r }

/-! ### REGX (R261) -/

/-- The statuses of a transfer (R261). -/
def regxStatus (t : Team) (gangs : List Gang) (all : List Regx) (r : Regx) : Nat × Option (Gang × Gang) :=
  match all.find? (fun q => q.give != r.give && q.gidx == r.partner && q.partner == r.gidx && q.lines == r.lines) with
  | none => (1, none)
  | some q =>
    let giver := if r.give then r else q
    let taker := if r.give then q else r
    match gangs.find? (fun g => g.team == t.id && g.gidx == giver.gidx),
          gangs.find? (fun g => g.team == t.id && g.gidx == taker.gidx) with
    | some g, some h =>
      if r.partner = r.gidx then (1, none)
      else if g.gmax < giver.lines + g.gCount then (2, none)
      else if r.lines = 0 ∨ r.lines % 8 ≠ 0 ∨ h.r < h.gmax + r.lines then (3, none)
      else if g.quad ≠ h.quad then (4, none)
      else (0, some (g, h))
    | _, _ => (1, none)

/-- Apply one giver's transfer: its own status and its partner's, and the budgets when it is made. -/
def applyGive (t : Team) (all : List Regx) (s : State) (r : Regx) : State :=
  let st := regxStatus t s.gangs all r
  let s := match st.2 with
    | some (g, h) =>
      (s.onGang g.gid fun g => { g with gmax := g.gmax - r.lines }).onGang h.gid fun h => { h with gmax := h.gmax + r.lines }
    | none => s
  let s := s.onGang r.gid (fun g => g.setResult r.seq st.1)
  match all.find? (fun q => !q.give && q.gidx == r.partner && q.partner == r.gidx && q.lines == r.lines) with
  | some q => s.onGang q.gid (fun g => g.setResult q.seq st.1)
  | none => s

/-- Insert a request by ascending GIDX. -/
def insertRegx (r : Regx) : List Regx → List Regx
  | [] => [r]
  | x :: xs => if r.gidx < x.gidx then r :: x :: xs else x :: insertRegx r xs

/-- The transfers of a phase (R261): the givers in ascending GIDX; a taker without a giver learns NOMATCH. -/
def applyTransfers (t : Team) (all : List Regx) (s : State) : State :=
  let s := all.foldl (fun s r => if r.give then s else s.onGang r.gid (fun g => g.setResult r.seq 1)) s
  let s := ((all.filter (·.give)).foldl (fun acc r => insertRegx r acc) []).foldl (applyGive t all) s
  s.later (all.map fun r => .variableResultReturn r.gid r.seq none)

/-! ### The barrier checksum and the end of a wait (R260, R264, R265) -/

/-- The barrier checksum after a JWAIT (R264). -/
def checkAfter (g v : Gang) (j p : Nat) : DWord :=
  let live := Lanes.toList g.live
  let c := fold64 (fold64 (fold64 g.ck (BitVec.ofNat 32 j)) (BitVec.ofNat 32 p)) g.live
  v.regs.foldl (fun c r => live.foldl (fun c l => fold64 c (r.shape.lane l)) c) c

/-- Cycles the checksum keeps the gang: one per G register and one per eight others, rounded up (R265). -/
def checkTime (v : Gang) : Nat := v.gCount + (v.r - v.gCount + 7) / 8

/-- A 16-byte checksum record (R264): CK, GIDX in bits 15:0, the joint number in bits 20:16, and p. -/
def checkRecord (g : Gang) (ck : DWord) (j p : Nat) : Nat :=
  ck.toNat + g.gidx * 2 ^ 64 + j * 2 ^ 80 + p % 2 ^ 32 * 2 ^ 96

/-- The record into the context's checksum ring, then the index one further (R264, R422). -/
def logCheck (s : State) (ctx : Nat) (record : Nat) : State :=
  match s.context? ctx with
  | none => s
  | some c =>
    let h := s.logHeader c.desc.elog.toNat
    if c.desc.cklog = false ∨ h.clen = 0 then s
    else
      let s := s.post (dispatcherFor ctx) (h.cring.toNat + 16 * (h.cidx.toNat % h.clen.toNat)) 16 record
      s.postRel (dispatcherFor ctx) (c.desc.elog.toNat + 28) 4 ((h.cidx.toNat + 1) % 2 ^ 32)

/-- The phase that a gang waits for completes, in the coming cycle of its quadrant: it is READY 4 cycles after that on the team's first
core and 16 on another (R260). A JWAIT goes on behind its own address, and its checksum takes in what it sampled, in the time that takes (R264, R265). -/
def endWait (t : Team) (s : State) (g : Gang) : State :=
  let ready := s.cycleOf g.quad + 1 + jointDelay t g 4 16
  match g.life with
  | .parked (.joint j p ck time lanes pc) =>
    (logCheck s (s.ctxOf g) (checkRecord g ck j p)).onGang g.gid fun g =>
      { g.wake (ready + time) with ck := ck, lanes := advance g lanes pc }
  | _ => s.onGang g.gid fun g => g.wake ready

/-! ### Arrivals and completion (R253, R258) -/

/-- Complete the phase of a joint in one step (R253): ARR and PHASE, the race check, the REGX transfers, and the gangs
that waited for it, 4 cycles later on the team's first core and 16 on another (R260). -/
def completePhase (s : State) (team j : Nat) : State :=
  match s.team? team with
  | none => s
  | some t =>
    let x := t.joint j
    let k := (s.grid? t.grid).map (·.kernel)
    let check := match k with | some k => k.rcen && k.rcj == j | none => false
    let s := s.onTeam team fun t =>
      { t.setJoint j { x with arr := 0, phase := (x.phase + 1) % 2 ^ 32, regx := [] } with race := if check then [] else t.race }
    let s := applyTransfers t x.regx s
    (s.gangs.filter fun g => g.team == team && g.waitsAt j x.phase).foldl (endWait t) s

/-- An arrival of weight w that does not pass N: ARR grows, and the phase completes when it reaches N (R253, R256). -/
def arrive (s : State) (team j w : Nat) : State :=
  match s.team? team with
  | none => s
  | some t =>
    let x := t.joint j
    let s := s.onTeam team fun t => t.setJoint j { x with arr := x.arr + w }
    if x.arr + w = x.n then completePhase s team j else s

/-- A joint with one more arrival among its last sixteen (R425). -/
def Joint.record (x : Joint) (a : Arrival) : Joint :=
  { x with arrivals := (x.arrivals ++ [a]).drop (x.arrivals.length + 1 - 16) }

/-- The source kind and number of a command's arrival (R425, R57). -/
def CmdPlace.source : CmdPlace → Nat × Nat
  | .engine (.stager u) => (1, u)
  | .engine (.block k) => (2, k)
  | .engine (.nest n) => (3, n)
  | .engine (.bank b) => (5, b)
  | .engine (.moveLane q) => (4, q)
  | .matrix q => (4, q)

/-- A gang parked on a joint that breaks (R258) takes JOINT at the address of its JWAIT or REGX; a REGX's request is gone. A gang that the
fault of another has ended by then takes none. -/
def breakPark (j : Nat) (s : State) (gid : Nat) : State :=
  match s.gang? gid with
  | none => s
  | some g => match g.life with
    | .parked (.regx _ _ seq lanes pc) =>
      (s.onGang gid fun g => { g with life := .ready, results := g.results.filter (fun r => r.seq != seq) }).takeTrap gid
        lanes false pc (jointTrap j .broken lanes) (s.cycleOf g.quad + 1)
    | .parked (.joint _ _ _ _ lanes pc) =>
      (s.onGang gid fun g => { g with life := .ready, marker := false }).takeTrap gid lanes false pc (jointTrap j .broken lanes)
        (s.cycleOf g.quad + 1)
    | _ => s

/-- A joint breaks (R258). -/
def breakJoint (s : State) (team j : Nat) : State :=
  let s := s.onTeam team fun t => t.setJoint j { t.joint j with st := .broken, regx := [] }
  ((s.gangs.filter fun g => g.team == team && g.waitsAnyAt j).map (·.gid)).foldl (breakPark j) s

/-- A command that names joint j ends (R258, R294): OUT falls by 1; with weight w > 0 it arrives, unless that would pass N
or the joint is not OPEN, or it failed: then it adds nothing and breaks the joint. `none` is a failed command. -/
def commandArrive (s : State) (team j : Nat) (place : CmdPlace) (w : Option Nat) (status : Nat) : State :=
  if j = noJoint then s
  else match s.team? team with
  | none => s
  | some t =>
    let x := t.joint j
    let src := place.source
    let s := s.onTeam team fun t =>
      t.setJoint j { x.record ⟨w.getD 0, x.phase, src.1, src.2, status, x.arr⟩ with out := x.out - 1 }
    match w with
    | some w => if x.st = .open_ ∧ x.arr + w ≤ x.n then arrive s team j w else breakJoint s team j
    | none => breakJoint s team j

/-- JOINT at the issue of a command that names joint j, when the joint is IDLE or BROKEN or not one of the kernel's
(R162, R258). -/
def commandJointTrap (c : Ictx) (j : Nat) : Option Trap :=
  if j = noJoint then none
  else match c.s.team? c.g.team with
  | none => none
  | some t =>
    if t.joints.length ≤ j then some (jointTrap j .range c.iset)
    else match (t.joint j).st with
      | .idle => some (jointTrap j .uninit c.iset)
      | .broken => some (jointTrap j .broken c.iset)
      | .open_ => none

/-- The issue of a command that names joint j adds 1 to OUT (R258). -/
def commandOut (s : State) (team j : Nat) : State :=
  if j = noJoint then s else s.onTeam team fun t => let x := t.joint j; t.setJoint j { x with out := x.out + 1 }

/-! ### The joint instructions -/

/-- The joint of an instruction and its team: JOINT with reason RANGE when the kernel has fewer (R162, R257). -/
def withJoint (x : HandleArgs) (c : Ictx) (f : Team → Joint → Body) : Body :=
  match c.s.team? c.g.team with
  | none => .go c.plan
  | some t =>
    let j := x.jnt.toNat
    if t.joints.length ≤ j then .trap (jointTrap j .range c.iset) else f t (t.joint j)

/-- A source in lane L (R254). -/
def leadVal (c : Ictx) (o : Operand) : Nat := ((c.src 0#32).word o c.lead).toNat

/-- JINIT (R256). -/
def jinitBody (x : HandleArgs) (c : Ictx) : Body :=
  withJoint x c fun t q =>
    let n := leadVal c x.a
    if (q.st = .broken ∧ 0 < q.out) ∨ (q.st ≠ .broken ∧ q.pending = true) then .trap (jointTrap x.jnt.toNat .reinit c.iset)
    else .go { c.plan with
      s := c.s.onTeam t.id fun t => t.setJoint x.jnt.toNat { q with st := if n = 0 then .idle else .open_, n := n, arr := 0 } }
/-- JINIT (R256). -/
def execJinit (x : HandleArgs) (s : State) : Host.Outcome State Fault Refusal :=
  issue (.jinit x) x.head 0#32 (jinitBody x) s

/-- The traps of an arrival of weight w by a gang (R256). -/
def arriveTrap (c : Ictx) (j w : Nat) (q : Joint) : Option Trap :=
  if q.st = .idle then some (jointTrap j .uninit c.iset)
  else if q.st = .broken then some (jointTrap j .broken c.iset)
  else if w = 0 then some (jointTrap j .zero c.iset)
  else if q.n < q.arr + w then some (jointTrap j .overrun c.iset)
  else none

/-- The gang's own arrival in the team's arrival record (R425). -/
def gangArrive (s : State) (g : Gang) (j w : Nat) (q : Joint) : State :=
  arrive (s.onTeam g.team fun t => t.setJoint j (q.record ⟨w, q.phase, 0, g.gidx, 0, q.arr⟩)) g.team j w

/-- JARRIVE (R256, R260): a release at team scope (R95). -/
def jarriveBody (x : HandleArgs) (c : Ictx) : Body :=
  withJoint x c fun t q =>
    let w := leadVal c x.a
    match arriveTrap c x.jnt.toNat w q with
    | some tr => .trap tr
    | none =>
      let s := gangArrive (c.s.release c.g.gid) c.g x.jnt.toNat w q
      .go { c.plan with
        s := s
        g := (s.gang? c.g.gid).getD c.g
        regs := destWrites c x.d 1 c.mask (fun _ => q.phase)
        timing := .variable (jointDelay t c.g 10 22) }
/-- JARRIVE (R256). -/
def execJarrive (x : HandleArgs) (s : State) : Host.Outcome State Fault Refusal :=
  issue (.jarrive x) x.head 0#32 (jarriveBody x) s

/-- JWAIT (R256, R264, R265): it waits for the registers that are pending, then takes in its checksum the registers as sampled;
where its phase is not complete it parks with what it has sampled, and `endWait` lets it go on. -/
def jwaitBody (x : HandleArgs) (c : Ictx) : Body :=
  withJoint x c fun _ q =>
    let j := x.jnt.toNat
    let p := leadVal c x.a
    if q.st = .idle then .trap (jointTrap j .uninit c.iset)
    else if q.st = .broken then .trap (jointTrap j .broken c.iset)
    else
      let waits := c.g.pendingCodes.filter (fun n => decide (n < 0x200))
      if !waits.isEmpty then .park (.pending waits)
      else
        let ck := checkAfter c.g c.v j p
        if q.complete p then
          .go { c.plan with
            s := logCheck c.s (c.s.ctxOf c.g) (checkRecord c.g ck j p)
            g := { c.g with ck := ck }
            next := c.port.sample + checkTime c.v }
        else .go { c.plan with lanes := some c.g.lanes, park := some (.joint j p ck (checkTime c.v) c.iset c.pc) }
/-- JWAIT (R256). -/
def execJwait (x : HandleArgs) (s : State) : Host.Outcome State Fault Refusal :=
  issue (.jwait x) x.head 0#32 (jwaitBody x) s

/-- JTEST (R256, R260). -/
def jtestBody (x : HandleArgs) (c : Ictx) : Body :=
  withJoint x c fun t q =>
    if q.st = .broken then .trap (jointTrap x.jnt.toNat .broken c.iset)
    else if x.sel = 0#4 then
      let done := decide (q.st ≠ .idle) && q.complete (leadVal c x.a)
      .go { c.plan with preds := predWrites x.d c.mask (fun _ => done), timing := .variable (jointDelay t c.g 10 22) }
    else .go { c.plan with regs := destWrites c x.d 1 c.mask (fun _ => q.phase), timing := .variable (jointDelay t c.g 10 22) }
/-- JTEST (R256). -/
def execJtest (x : HandleArgs) (s : State) : Host.Outcome State Fault Refusal :=
  issue (.jtest x) x.head 0#32 (jtestBody x) s

/-- REGX (R261): a JARRIVE of weight 1, whose request waits for the phase; D is written when the phase completes. -/
def regxBody (x : HandleArgs) (c : Ictx) : Body :=
  withJoint x c fun t q =>
    let j := x.jnt.toNat
    match arriveTrap c j 1 q with
    | some tr => .trap tr
    | none =>
      let seq := c.g.issued
      let req : Regx := ⟨c.g.gidx, leadVal c x.b, leadVal c x.a, decide (x.sel = 0#4), c.g.gid, seq⟩
      let r : Result := { seq := seq, pc := c.pc, kind := .variable, due := 0, exactDue := false,
                          regs := destWrites c x.d 1 c.mask (fun _ => 0), preds := [], mods := [], reserve := [],
                          err := none, waitsReqs := false, statusRead := false, held := false }
      let kept := (((c.s.release c.g.gid).gang? c.g.gid).getD c.g).results
      let s := (c.s.release c.g.gid).onGang c.g.gid fun g => { g with results := [r] }
      let s := gangArrive s c.g j 1 { q with regx := q.regx ++ [req] }
      let g := (s.gang? c.g.gid).getD c.g
      .go { c.plan with
        s := s
        g := { g with results := kept }
        regs := g.results.flatMap (·.regs)
        timing := .variable (jointDelay t c.g 10 22)
        quiet := true
        park := if q.arr + 1 = q.n then none else some (.regx j q.phase seq c.iset c.pc) }
/-- REGX (R261). -/
def execRegx (x : HandleArgs) (s : State) : Host.Outcome State Fault Refusal :=
  issue (.regx x) x.head 0#32 (regxBody x) s

end Sys2Proof.Machine
end

