-- ==== Sys2Proof/Machine/System.lean ====
section
/-!
DEFINITION. The system group (R263, R266 to R279): traps and their return, breakpoints and the precise team stop, special
registers, the local rate, checksums, and the saving of shaped registers.
-/
namespace Sys2Proof.Machine
open Sys2Proof

/-! ### The team header and the precise stop (R380, R425) -/

/-- `$grid` of a grid (R20). -/
def Grid.word (x : Grid) : Word := BitVec.ofNat 32 (x.vd * 2 ^ 26 + x.seq % 2 ^ 26)

/-- ST as the header holds it (R252, R380). -/
def JointSt.code : JointSt → Nat
  | .idle => 0 | .open_ => 1 | .broken => 2

/-- A joint in the team header (R380): N, ARR, PHASE, then OUT in bits 15:0 and ST in bits 17:16. -/
def Joint.header (x : Joint) : Nat :=
  x.n + x.arr * 2 ^ 32 + x.phase * 2 ^ 64 + (x.out % 2 ^ 16 + x.st.code * 2 ^ 16) * 2 ^ 96

/-- The 512 bytes of a team header (R380) with NCMD records. -/
def teamHeader (x : Grid) (t : Team) (ncmd : Nat) : Nat :=
  x.word.toNat + t.index * 2 ^ 32 + ncmd * 2 ^ 96
    + (t.joints.foldr (fun j acc => j.header + 2 ^ 128 * acc) 0) * 2 ^ (8 * 0x80)

/-- An arrival in 16 bytes (R425; log 9 for the places of its fields). -/
def Arrival.bits (a : Arrival) : Nat :=
  a.weight % 2 ^ 32 + a.phase % 2 ^ 32 * 2 ^ 32 + a.kind * 2 ^ 64 + a.number * 2 ^ 80 + a.status * 2 ^ 96

/-- The dump of a stopped team (R425): the 128 bytes ahead of the joints in the team header of R380, then for each of the 24 joints its 16
bytes and, after them, its last sixteen arrivals. -/
def dumpBytes (x : Grid) (t : Team) : Nat :=
  let joint := fun (i : Nat) => match t.joints[i]? with
    | some j => j.header + (j.arrivals.foldr (fun a acc => a.bits + 2 ^ 128 * acc) 0) * 2 ^ 128
    | none => 0
  bitsOf (teamHeader x t t.records.length) 0 1024
    + ((List.range 24).foldr (fun i acc => joint i + 2 ^ (8 * 272) * acc) 0) * 2 ^ 1024

/-- Write the dump of a stopped team, with release (R425). -/
def writeDump (s : State) (team : Nat) : State :=
  match s.team? team with
  | none => s
  | some t => match s.grid? t.grid with
    | none => s
    | some x => s.postRel (dispatcherFor noCtx) s.dbg.dump.toNat (128 + 24 * 272) (dumpBytes x t)

/-- Every gang of a team halts at its next boundary, and the dump is written (R425). -/
def stopTeam (s : State) (team : Nat) : State :=
  let s := { s with gangs := s.gangs.map (fun (g : Gang) => if g.team == team then { g with stopped := true } else g)
                    dbg := { s.dbg with stopped := true, held := team } }
  writeDump s team

/-! ### Traps -/

/-- TRAP (R272). -/
def trapBody (x : Args) (c : Ictx) : Body := .trap ⟨.swtrap, x.imm.setWidth 64, c.mask⟩
/-- TRAP (R272). -/
def execTrap (x : Args) (s : State) : Host.Outcome State Fault Refusal := issue (.trap x) x.head 0#32 (trapBody x) s

/-- BRK (R272, R424, R425): with the context's debug stop armed, the team stops behind the BRK in place of the trap. -/
def brkBody (x : Args) (c : Ictx) : Body :=
  let armed := c.s.dbg.arm && (match c.s.contextOf c.g with | some k => decide (k.id = c.s.dbg.ctx.toNat) | none => false)
  if armed then
    let s := stopTeam c.s c.g.team
    .go { c.plan with s := s, g := (s.gang? c.g.gid).getD c.g }
  else .trap ⟨.brk, x.imm.setWidth 64, c.mask⟩
/-- BRK (R272). -/
def execBrk (x : Args) (s : State) : Host.Outcome State Fault Refusal := issue (.brk x) x.head 0#32 (brkBody x) s

/-! ### Shaped images (R277, R278) -/

/-- Bytes of a register's image. -/
def imageSize (r : Reg) : Nat := 16 + (if r.mark.isSome then 16 else 0) + (if r.shape.isG then 128 else 0)

/-- The compact slot of a shape (R132, R277); 0 for G. -/
def Shape.slot : Shape → Nat
  | .u v => v.toNat
  | .a b s => b.toNat + s.toNat * 2 ^ 32
  | .g _ => 0

/-- The image of register n (R277). -/
def imageBits (n : Nat) (r : Reg) : Nat :=
  let head := n * 2 ^ 16 + r.shape.tag * 2 ^ 30 + r.shape.slot * 2 ^ 64
  let lanes := match r.shape with | .g v => (LaneVec.of (LaneVec.lane v)).foldr (fun w acc => w.toNat + 2 ^ 32 * acc) 0 | _ => 0
  match r.mark with
  | none => head + lanes * 2 ^ 128
  | some m => head + 2 ^ 29 + m.reason.toNat * 2 ^ 8 + (m.pc.toNat % 2 ^ 56) * 2 ^ 128 + m.lanes.toNat * 2 ^ 192
      + lanes * 2 ^ 256

/-- Bytes of the image whose first word this is. -/
def imageLength (head : Nat) : Nat := 16 + 16 * bitsOf head 29 1 + (if bitsOf head 30 2 = 2 then 128 else 0)

/-- The register an image holds, or none where LDSH raises HDESC (R278). -/
def imageReg (x : Nat) (order : Nat) : Option Reg :=
  let tag := bitsOf x 30 2
  let em := bitsOf x 29 1 = 1
  let slot := bitsOf x 64 64
  let rest := if em then x / 2 ^ 256 else x / 2 ^ 128
  let shape : Option Shape := match tag with
    | 0 => if slot < 2 ^ 32 then some (.u (BitVec.ofNat 32 slot)) else none
    | 1 => if slot / 2 ^ 32 = 0 then none else some (.a (BitVec.ofNat 32 slot) (BitVec.ofNat 32 (slot / 2 ^ 32)))
    | 2 => if slot = 0 then some (.g (LaneVec.of fun l => BitVec.ofNat 32 (rest / 2 ^ (32 * l)))) else none
    | _ => none
  if bitsOf x 24 5 ≠ 0 ∨ bitsOf x 0 8 ≠ 0 ∨ bitsOf x 32 32 ≠ 0 then none
  else if em ∧ (bitsOf x 184 8 ≠ 0 ∨ bitsOf x 224 32 ≠ 0) then none
  else shape.map fun sh => ⟨sh, if em then
    some ⟨BitVec.ofNat 64 (bitsOf x 128 56), BitVec.ofNat 8 (bitsOf x 8 8), BitVec.ofNat 32 (bitsOf x 192 32), order⟩ else none⟩

/-- The address of STSH and LDSH in lane L (R276); at a replay the one first formed (R203). -/
def shapedAddr (x : Args) (c : Ictx) : Nat :=
  let team := decide (x.sel ≠ 0#4)
  let fresh := wrapNat (if team then 32 else 64) (((c.src 0#32).val x.a (!team) c.lead : Int) + x.imm.toInt)
  match c.reuse [⟨c.lead, fresh⟩] with | y :: _ => y.addr | [] => fresh

/-- The 16-byte parts of an image of n bytes at an address. -/
def imageParts (a n : Nat) : List LaneAddr := (List.range (n / 16)).map fun i => ⟨i, a + 16 * i⟩

/-- A trap of an image's bytes concerns lane L (R278). -/
def inLead (c : Ictx) (t : Option Trap) : Option Trap := t.map fun t => { t with tmask := 1#32 <<< c.lead }

/-- The traps of an image's bytes from ALIGN on (R278, R215), or the stages of a replayable fault, which
parks. -/
def imageTrap (x : Args) (c : Ictx) (a n : Nat) (write : Bool) : Option Trap × List Bool :=
  match inLead c (alignTrap 16 [⟨c.lead, a⟩]) with
  | some t => (some t, [])
  | none =>
    if x.sel ≠ 0#4 then
      match c.s.gridOf c.g with
      | none => (none, [])
      | some g =>
        let size := scratchSize g.kernel
        (if size < a + n then some ⟨.prot, BitVec.ofNat 64 (max a size), 1#32 <<< c.lead⟩ else none, [])
    else match c.s.contextOf c.g with
      | none => (none, [])
      | some k =>
        let ws := walksOf c.s k.desc (imageParts a n)
        if replayable ws then (none, stagesOf ws)
        else (inLead c (virtualTrap c.s ws (!write) write (fun _ => false) c.pc), [])

/-- The keys of an image's parts. -/
def imageKeys (x : Args) (c : Ictx) (a n : Nat) : List Nat :=
  if x.sel ≠ 0#4 then
    match c.s.team? c.g.team with
    | some t => (imageParts a n).map fun y => t.scratchKey y.addr
    | none => []
  else match c.s.contextOf c.g with
    | none => []
    | some k => (walksOf c.s k.desc (imageParts a n)).filterMap fun w => match w.2 with
      | .ok p => some (keyOf p.space p.addr)
      | .error _ => none

/-- The places of an image's parts. -/
def imagePlaces (c : Ictx) (a n : Nat) : List Place :=
  match c.s.contextOf c.g with
  | none => []
  | some k => (walksOf c.s k.desc (imageParts a n)).filterMap fun w => w.2.toOption

/-- The passes of an image in the scratchpad, by its 16-byte parts (R207, R209). -/
def imagePasses (c : Ictx) (a n : Nat) : Nat :=
  passes (match c.s.gridOf c.g with | some gr => gr.span | none => 16) 16 false (imageParts a n)

/-- When the data of LDSH returns, with the state in which the scratchpad port is taken: as a load of the image (R426), in the
scratchpad 16 cycles after its last pass and 12 more from another core (R209), elsewhere no sooner than R216 says. -/
def imageTime (x : Args) (c : Ictx) (a n : Nat) : Timing × State :=
  if x.sel ≠ 0#4 then
    let count := imagePasses c a n
    let p := c.s.takePort c.g.quad c.port.sample count
    let far := match c.s.team? c.g.team with | some t => crossesCore t c.g (imageParts a n) | none => false
    (.exact (p.1 + count - 1 + 16 + (if far then 12 else 0) - c.port.sample), p.2)
  else
    let ps := imagePlaces c a n
    (.variable (c.s.leastLoadTime c.g.quad ps),
      match c.s.gridOf c.g with
      | some gr => c.s.bookReads c.g gr (ps.map fun p => (keyOf p.space p.addr, p.own))
      | none => c.s)

/-- The posted stores of an image (R278, R426, R427); those to the scratchpad leave its port in cycle `last`. -/
def imageStores (x : Args) (c : Ictx) (a n bits last : Nat) : List Req :=
  let data := fun i => bits / 2 ^ (128 * i) % 2 ^ 128
  match c.s.gridOf c.g, c.s.team? c.g.team, c.s.contextOf c.g with
  | some gr, some t, some k =>
    if x.sel ≠ 0#4 then
      [{ id := c.s.nextId, gid := c.g.gid, team := c.g.team, ctx := gr.ctx, own := 1, seq := c.g.issued, kind := .store,
         ty := .b128, space := .scratch, channel := 0,
         accs := (imageParts a n).map (fun y => ⟨y.lane, t.scratchKey y.addr, data y.lane, 0⟩), acq := false, rel := false,
         who := c.g.quad, cls := gr.cls.service, stamp := 0, due := some last, quad := c.g.quad,
         sent := c.s.uc.toNat, served := false }]
    else virtualReqs c.s c.g gr (walksOf c.s k.desc (imageParts a n)) ⟨.store, .b128, false, false⟩ data (fun _ => 0)
  | _, _, _ => []

/-- STSH (R278): the whole image of B, its size in D. -/
def stshBody (x : Args) (c : Ictx) : Body :=
  let n := (directReg x.b).getD 0
  let r := c.v.reg n
  let a := shapedAddr x c
  let size := imageSize r
  match imageTrap x c a size true with
  | (some t, _) => .trap t
  | (none, h :: hs) => .replay (h :: hs) [(c.lead, a)]
  | (none, []) =>
    let count := imagePasses c a size
    let p := if x.sel ≠ 0#4 then c.s.takePort c.g.quad c.port.sample count else (0, c.s)
    let rs := imageStores x c a size (imageBits n r) (p.1 + count - 1)
    let held := rs.find? (fun r => r.accs.any (fun a => c.s.isMoving r.space (a.key % 2 ^ 64)))
    .go { c.plan with
      s := (p.2.addReqs rs).later (reqWork c.s (rs.filter (fun r => r.space != .scratch)))
      regs := destWrites c x.d 1 c.mask (fun _ => size)
      park := held.map (fun r => .moving r.id) }
/-- STSH (R278). -/
def execStsh (x : Args) (s : State) : Host.Outcome State Fault Refusal := issue (.stsh x) x.head 0#32 (stshBody x) s

/-- LDSH (R278): D takes the image's tag, slot or lanes, and mark, in all 32 lanes. It reads the image as it issues, behind the
earlier accesses of its gang (R99). -/
def ldshBody (x : Args) (c : Ictx) : Body :=
  let a := shapedAddr x c
  match imageTrap x c a 16 false with
  | (some t, _) => .trap t
  | (none, h :: hs) => .replay (h :: hs) [(c.lead, a)]
  | (none, []) =>
    let c := c.settle
    let rd := fun (n : Nat) => (imageKeys x c a n).foldr (fun k acc => memLoad c.s.mem k 16 + 2 ^ 128 * acc) 0
    let size := imageLength (rd 16)
    match imageTrap x c a size false with
    | (some t, _) => .trap t
    | (none, h :: hs) => .replay (h :: hs) [(c.lead, a)]
    | (none, []) =>
      match imageReg (rd size) c.g.issued, directReg x.d with
      | some r, some n =>
        let t := imageTime x c a size
        .go { c.plan with
          s := t.2
          regs := [⟨n, 0, 0xFFFFFFFF#32, r.shape.lanes, some r⟩]
          timing := t.1
          reqs := true }
      | _, _ => .trap ⟨.hdesc, BitVec.ofNat 64 a, 1#32 <<< c.lead⟩
/-- LDSH (R278). -/
def execLdsh (x : Args) (s : State) : Host.Outcome State Fault Refusal := issue (.ldsh x) x.head 0#32 (ldshBody x) s

/-- GETSH (R279): the tag, the error mark, the G count and Gmax. -/
def getshBody (x : Args) (c : Ictx) : Body :=
  let r := c.v.reg ((directReg x.a).getD 0)
  let w := r.shape.tag + (if r.mark.isSome then 4 else 0) + c.v.gCount * 2 ^ 8 + c.g.gmax * 2 ^ 17
  .go { c.plan with regs := destWrites c x.d 1 c.mask (fun _ => w) }
/-- GETSH (R279). -/
def execGetsh (x : Args) (s : State) : Host.Outcome State Fault Refusal := issue (.getsh x) x.head 0#32 (getshBody x) s

/-! ### The return from a trap -/

/-- What the first TRET after a restore takes from the frame (R380, R382): v0 to v3, `$cause`, `$epc`, `$tval`,
`$tmask`. -/
structure FrameTail where
  regs  : List Reg
  cause : DWord
  epc   : DWord
  tval  : DWord
  tmask : Lanes
  deriving DecidableEq, Repr

/-- The bits of `$cause` and `$epc` that are not RSV (R268, R269): those read 0 (R4), whatever a handler wrote into the frame. -/
def causeFields : DWord := 0xFFFFFFFF000001FF#64
def epcFields : DWord := 0x00FFFFFFFFFFFFFC#64

/-- Read that part of a frame; none where an image is not one (R375: BADSAVE). -/
def frameTail (bits : Nat) : Option FrameTail :=
  let at_ := fun (o n : Nat) => bitsOf bits (8 * o) (8 * n)
  let regs := (List.range 4).filterMap fun i => imageReg (at_ (0x500 + 160 * i) 160) i
  if regs.length = 4 then
    some ⟨regs, BitVec.ofNat 64 (at_ 0x1C8 8) &&& causeFields, BitVec.ofNat 64 (at_ 0x1D0 8) &&& epcFields, BitVec.ofNat 64 (at_ 0x1D8 8),
      BitVec.ofNat 32 (at_ 0x1E0 4)⟩
  else none

/-- A result at the first TRET of a restore: one kept over the pre-emption may return from now on (log 10); one of the handler
writes nothing into v0 to v3 any more, which TRET replaces (R382). -/
def Result.afterRestore (r : Result) : Result :=
  if r.held then { r with held := false } else { r with regs := r.regs.filter fun w => decide (4 ≤ w.n) }

/-- The gang after the first TRET of a restore (R382): lanes from Shadow, v0 to v3 and the trap registers from the frame. -/
def Gang.leaveRestore (g : Gang) (f : FrameTail) (sample : Nat) : Gang :=
  { { g with cause := 0#64 }.leaveTrap sample with
    regs := f.regs.take g.r ++ g.regs.drop 4
    cause := f.cause, epc := f.epc, tval := f.tval, tmask := f.tmask, fromRestore := false
    results := g.results.map Result.afterRestore }
/-- The results kept over a pre-emption may return now (log 10). -/
def Gang.keptWork (g : Gang) : List Instr :=
  (g.results.filter (·.held)).map fun r => .variableResultReturn g.gid r.seq none

/-- TRET (R271, R382). With the first TRET of a restore the commands that were kept go on, behind what the restore handler has
commanded (R350; log 10). -/
def tretBody (c : Ictx) : Body :=
  if c.g.hnd = false then .trap ⟨.prot, 0#64, c.iset⟩
  else if c.g.fromRestore then
    match c.s.contextOf c.g with
    | none => .go c.plan
    | some k =>
      let c := c.settle
      match c.s.vload k.desc 0 c.g.frame.toNat 2048 with
      | .error (.replay, a) => .replay (stagesOf (walksOf c.s k.desc [⟨0, a⟩])) []
      | .error _ => .fault faultBadSave
      | .ok bits =>
        match frameTail bits with
        | none => .fault faultBadSave
        | some f =>
          let g := c.g.leaveRestore f c.port.sample
          let s := c.s.send (c.s.vreadReqs { dispatcherFor k.id with team := c.g.team } k.desc 0 c.g.frame.toNat 2048)
          .go { c.plan with s := (s.requeue g).later c.g.keptWork, g := g, lanes := some g.lanes }
  else
    let g := c.g.leaveTrap c.port.sample
    .go { c.plan with g := g, lanes := some g.lanes }
/-- TRET (R271). -/
def execTret (x : Args) (s : State) : Host.Outcome State Fault Refusal := issue (.tret x) x.head 0#32 tretBody s

/-! ### Special registers -/

/-- `$team.x`, `$team.y`, `$team.z` (R19, R21): EXT and COORD of a dimension. -/
def Grid.coord (x : Grid) (index dim : Nat) : Nat :=
  match dim with
  | 0 => x.x * 2 ^ 16 + index % x.x
  | 1 => x.y * 2 ^ 16 + index / x.x % x.y
  | _ => x.z * 2 ^ 16 + index / x.x / x.y

/-- `$gang` (R18). -/
def gangWord (t : Team) (g : Gang) : Nat :=
  (t.size - 1) * 2 ^ 23 + (g.quad / 4) * 2 ^ 15 + (g.quad % 4) * 2 ^ 13 + g.gidx

/-- `$depth` of a lane (R231). -/
def depthWord (g : Gang) (x : LaneState) : Nat :=
  (if x.y then 2 ^ 31 else 0) + (if g.serial then 2 ^ 30 else 0) + x.depth * 2 ^ 8 + min x.depth 255

/-- The value of a special register in a lane, up to 128 bits (R131, R163, R273). -/
def sprValue (c : Ictx) (n l : Nat) : Nat :=
  match c.s.team? c.g.team, c.s.gridOf c.g with
  | some t, some x =>
    match n with
    | 0x00 => l
    | 0x01 => gangWord t c.g
    | 0x02 => x.coord t.index 0
    | 0x03 => x.coord t.index 1
    | 0x04 => x.coord t.index 2
    | 0x05 => x.word.toNat
    | 0x06 => c.g.clockAt c.port.sample
    | 0x07 => c.s.ns.toNat + c.s.sec.toNat * 2 ^ 32
    | 0x08 => (c.s.vdRate x.vd).toNat
    | 0x09 => (c.s.gangRate c.g).toNat
    | 0x0A => depthWord c.g (c.g.lane l)
    | 0x0B => c.g.status.toNat
    | 0x0C => c.s.variant.feat.toNat
    | 0x0D => c.g.cause.toNat
    | 0x0E => c.g.epc.toNat
    | 0x0F => c.g.tval.toNat
    | 0x10 => c.g.tmask.toNat
    | 0x11 => (if c.s.mend.act then 2 ^ 31 else 0) + c.s.mend.phase.toNat
    | _ => c.s.memcap
  | _, _ => 0

/-- The writes of an RDSR; `$depth` has shape G (R131). -/
def sprWrites (x : Args) (c : Ictx) (n : Nat) : List RegWrite :=
  let ws := destWrites c x.d (sprCount n) c.mask (sprValue c n)
  if n = 0x0A ∧ fullWidth c.mask = true then ws.map fun w => if fullWidth w.mask then { w with exact := some ⟨.g w.vals, none⟩ } else w
  else ws

/-- RDSR (R273): `$clock`, `$time` and `$status` have variable latency, every other register 2 cycles. `$clock` and `$time` are
written 2 cycles after sampling, within the 8 of R280 and R426; `$status` 2 cycles after the last earlier result (R75, R426). -/
def rdsrBody (x : Args) (c : Ictx) : Body :=
  let n := x.imm.toNat % 256
  .go { c.plan with
    regs := sprWrites x c n
    status := decide (n = 0x0B)
    timing := if n = 0x06 ∨ n = 0x07 ∨ n = 0x0B then .exact 2 else .fixed 2 }
/-- RDSR (R273). -/
def execRdsr (x : Args) (s : State) : Host.Outcome State Fault Refusal := issue (.rdsr x) x.head 0#32 (rdsrBody x) s

/-- The gang after a WRSR of a register of the trap handler (R274). -/
def Gang.writeTrapReg (g : Gang) (n : Nat) (v : DWord) : Gang :=
  match n with
  | 0x0D => { g with cause := (v.extractLsb' 32 32) ++ (g.cause.extractLsb' 0 32) }
  | 0x0E => { g with epc := v &&& epcFields }
  | 0x0F => { g with tval := v }
  | _ => { g with tmask := v.setWidth 32 }

/-- WRSR (R274). DESIGN CHOICE (log 29): `$tmask` of its PROT is the issuing set. -/
def wrsrBody (x : Args) (c : Ictx) : Body :=
  let n := x.imm.toNat % 256
  let v := BitVec.ofNat 64 ((c.src 0#32).val x.a (sprCount n == 2) c.lead)
  if n = 0x0B then
    let m := v.setWidth 7
    .go { c.plan with g := { c.g with status := c.g.status &&& ~~~m, clears := c.g.clears ++ [(c.g.issued, m)] } }
  else if c.g.hnd ∧ (n = 0x0D ∨ n = 0x0E ∨ n = 0x0F ∨ n = 0x10) then .go { c.plan with g := c.g.writeTrapReg n v }
  else .trap ⟨.prot, BitVec.ofNat 64 n, c.iset⟩
/-- WRSR (R274). -/
def execWrsr (x : Args) (s : State) : Host.Outcome State Fault Refusal := issue (.wrsr x) x.head 0#32 (wrsrBody x) s

/-! ### The local rate (R275) -/

/-- SETRATE (R275). -/
def execSetrate (x : Args) (s : State) : Host.Outcome State Fault Refusal :=
  issue (.setrate x) x.head x.imm (fun c => .go { c.plan with g := { c.g with override := some ((c.src x.imm).word x.a c.lead) } }) s
/-- CLRRATE (R275). -/
def execClrrate (x : Args) (s : State) : Host.Outcome State Fault Refusal :=
  issue (.clrrate x) x.head 0#32 (fun c => .go { c.plan with g := { c.g with override := none } }) s

/-! ### Checksums -/

/-- The checksum of CKSUM (R263). -/
def cksumValue (x : Args) (c : Ictx) : DWord :=
  let src := c.src 0#32
  let c0 := if x.sel = 0#4 then BitVec.ofNat 64 (src.val x.d true c.lead) else checkSeed
  (Lanes.toList c.mask).foldl (fun acc l => fold64 acc (src.word x.a l)) (fold64 c0 c.mask)

/-- CKSUM (R263). -/
def cksumBody (x : Args) (c : Ictx) : Body :=
  .go { c.plan with regs := destWrites c x.d 2 c.mask (fun _ => (cksumValue x c).toNat), timing := .fixed 6 }
/-- CKSUM (R263). -/
def execCksum (x : Args) (s : State) : Host.Outcome State Fault Refusal := issue (.cksum x) x.head 0#32 (cksumBody x) s

end Sys2Proof.Machine
end

