-- ==== Sys2Proof/Machine/Handle.lean ====
section
/-!
DEFINITION. Tensor handles (R282 to R289) and what every command of an engine shares: the checks of a handle and of its
footprint, the issue of a command (R258, R290, R291), the element accesses of a chunk with their failures (R293), the
arrival and the completion word of a command (R292, R294).
-/
namespace Sys2Proof.Machine
open Sys2Proof

/-! ### Handles -/

/-- A handle's fields (R282). -/
structure Desc where
  no    : Nat
  base  : Nat
  code  : Nat
  rank  : Nat
  spc   : Nat
  sgd   : Nat
  space : Nat
  bc0   : Bool
  ext   : List Nat
  str   : List Int
  scale : Nat
  mask  : Nat
  rsv   : Bool
  deriving DecidableEq, Repr

/-- Read a handle's 64 bytes (R282). -/
def Handle.desc (h : Handle) : Desc :=
  let f := fun (byte lo len : Nat) => bitsOf h.bits.toNat (8 * byte + lo) len
  { no := h.no, base := f 0 0 56, code := f 8 26 6, rank := f 8 23 3, spc := f 8 21 2, sgd := f 8 18 3, space := f 8 16 2,
    bc0 := decide (f 8 15 1 = 1), ext := (List.range 5).map (fun d => f (0x0C + 4 * d) 0 32),
    str := (List.range 4).map (fun d => signedOf 32 (f (0x20 + 4 * d) 0 32)), scale := f 0x30 0 56, mask := f 0x38 0 56,
    rsv := decide (f 0 56 8 ≠ 0 ∨ f 8 0 15 ≠ 0 ∨ f 0x30 56 8 ≠ 0 ∨ f 0x38 56 8 ≠ 0) }

/-- The format of a handle. -/
def Desc.ty (h : Desc) : Ty := (Ty.ofCode (BitVec.ofNat 6 h.code)).getD .untyped
/-- The format is one a handle may have (R285, reason 3): not 0x00, not 0x0F, and in the list of R155. -/
def Desc.tyOk (h : Desc) : Bool := (Ty.ofCode (BitVec.ofNat 6 h.code)).isSome && h.ty != .untyped && h.ty != .b128
/-- Width of an element in bits. -/
def elemBits (t : Ty) : Nat := match t with | .d8 => 8 | .d4 => 4 | _ => tyWidth t
/-- Element width in whole bytes, 1 for D4. -/
def elemBytes (t : Ty) : Nat := max (elemBits t / 8) 1
/-- Extent of dimension d. -/
def Desc.extent (h : Desc) (d : Nat) : Nat := h.ext.getD d 1
/-- Stride of dimension d ≥ 1. -/
def Desc.stride (h : Desc) (d : Nat) : Int := h.str.getD (d - 1) 0
/-- N of a sparse handle, 128 for a dense one. -/
def Desc.stored (h : Desc) : Nat := match h.spc with | 1 => 32 | 2 => 64 | _ => 128
/-- The extents over which the element array is addressed (R284): EXT0·N/128 for a sparse handle. -/
def Desc.dims (h : Desc) : List Nat := (h.extent 0 * h.stored / 128) :: h.ext.drop 1
/-- The reduced extents of the scale array (R284). -/
def Desc.scaleDims (h : Desc) : List Nat := h.ext.mapIdx fun d e => if d = h.sgd then e / 128 else e
/-- The extents of the mask array (R284). -/
def Desc.maskDims (h : Desc) : List Nat := (h.extent 0 / 128) :: h.ext.drop 1

/-- The product of a list. -/
def prodOf (l : List Nat) : Nat := l.foldl (· * ·) 1
/-- The index of a linear position over extents, dimension 0 fastest (R283). -/
def unravel : List Nat → Nat → List Nat
  | [], _ => []
  | e :: es, n => n % max e 1 :: unravel es (n / max e 1)
/-- The linear position of an index over extents. -/
def ravel : List Nat → List Nat → Nat
  | e :: es, i :: is => i + e * ravel es is
  | _, _ => 0

/-- The address of an element, before its reduction, with which nibble (R283). -/
def Desc.elemAddr (h : Desc) (off : Int) (i : List Nat) : Int × Nat :=
  let i0 := i.getD 0 0
  let first := if h.bc0 then 0 else if h.ty = .d4 then i0 / 2 else i0 * elemBytes h.ty
  let rest := (List.range 4).foldl (fun (acc : Int) d => acc + (i.getD (d + 1) 0 : Int) * h.stride (d + 1)) 0
  ((h.base : Int) + off + (first : Int) + rest, if h.ty = .d4 && !h.bc0 then i0 % 2 else 0)

/-! ### The checks of a handle (R285) -/

/-- The reasons 1, 2, 4, 5 and 6 of one handle with its offset, and 3 for a format no handle has: the lowest that
applies. -/
def Desc.reason (h : Desc) (off : Int) : Option Nat :=
  let es := elemBytes h.ty
  let beyond := (List.range 5).any fun d => decide (h.rank ≤ d) && (h.extent d != 1 || (d != 0 && h.stride d != 0))
  if h.rsv || decide (1 < h.space) || h.spc == 3 || h.sgd == 5 || h.sgd == 6 then some 1
  else if h.rank = 0 ∨ 5 < h.rank ∨ h.ext.any (· == 0) ∨ beyond then some 2
  else if !h.tyOk then some 3
  else if h.space = 1 ∧ 2 ^ 32 ≤ h.base then some 4
  else if ((h.base : Int) + off) % es ≠ 0 ∨ h.str.any (fun s => s % (es : Int) != 0) ∨ h.scale % 2 ≠ 0 ∨ h.mask % 16 ≠ 0
      ∨ (h.ty = .d4 ∧ (h.extent 0 % 2 ≠ 0 ∨ h.bc0)) then some 5
  else if (h.spc ≠ 0 ∧ h.extent 0 % 128 ≠ 0) ∨ (h.sgd ≠ 7 ∧ (h.extent h.sgd % 128 ≠ 0 ∨ (h.ty ≠ .d8 ∧ h.ty ≠ .d4))) then some 6
  else none

/-- The lowest reason of a handle, of its own and of the instruction's. -/
def lowestReason (own : Option Nat) (more : List (Nat × Bool)) : Option Nat :=
  leastOf ((match own with | some r => [r] | none => []) ++ (more.filter (·.2)).map (·.1))

/-- HDESC (R285): the handle in bits 15:8 and the reason in bits 7:0. -/
def hdescTrap (no reason : Nat) (iset : Lanes) : Trap := ⟨.hdesc, BitVec.ofNat 64 (no * 256 + reason), iset⟩

/-! ### Footprints (R286) -/

/-- The lowest and highest byte of the element array. -/
def Desc.footprint (h : Desc) (off : Int) : Int × Int :=
  let span := (List.range 4).foldl (fun (acc : Int × Int) d =>
    let s := h.stride (d + 1) * ((h.extent (d + 1) : Int) - 1)
    (acc.1 + min s 0, acc.2 + max s 0)) (0, 0)
  let n0 := h.dims.getD 0 1
  let first := if h.bc0 then 0 else if h.ty = .d4 then (n0 - 1) / 2 else (n0 - 1) * elemBytes h.ty
  let b := (h.base : Int) + off
  (b + span.1, b + span.2 + (first : Int) + (elemBytes h.ty : Int) - 1)

/-- The first byte of an interval, reduced modulo m, that lies at or beyond a limit. -/
def firstOutside (lo hi : Int) (limit m : Nat) : Option Nat :=
  let a := (lo % (m : Int)).toNat
  let n := (hi - lo).toNat
  if m ≤ n then some limit
  else if a + n < m then (if limit ≤ a + n then some (max a limit) else none)
  else if limit ≤ a + n - m then some limit else some (max a limit)

/-- PROT or PAGE of a handle's footprint (R286): the element array, then the scale array and the mask array where the
command uses them. -/
def Desc.footprintTrap (h : Desc) (off : Int) (scales masks : Bool) (scratch : Nat) (iset : Lanes) : Option Trap :=
  let f := h.footprint off
  let page := fun (base n : Nat) => (firstOutside base (base + n - 1) (2 ^ 56) (2 ^ 64)).map fun a =>
    (⟨.page, BitVec.ofNat 64 a, iset⟩ : Trap)
  let first := if h.space = 1 then (firstOutside f.1 f.2 scratch (2 ^ 32)).map fun a => (⟨.prot, BitVec.ofNat 64 a, iset⟩ : Trap)
    else (firstOutside f.1 f.2 (2 ^ 56) (2 ^ 64)).map fun a => (⟨.page, BitVec.ofNat 64 a, iset⟩ : Trap)
  match first with
  | some t => some t
  | none =>
    match (if scales && h.sgd != 7 then page h.scale (2 * prodOf h.scaleDims) else none) with
    | some t => some t
    | none => if masks && h.spc != 0 then page h.mask (16 * prodOf h.maskDims) else none

/-! ### The handle table (R287, R289) -/

/-- Where word w of handle n of a context lies (R287, R373). -/
def handleKey (d : ContextDesc) (n w : Nat) : Nat := keyOf .device (d.htab.toNat + 64 * n + 8 * w)

/-- A handle as a command samples it. -/
def sampleHandle (s : State) (d : ContextDesc) (n : Nat) : Handle := ⟨n, BitVec.ofNat 512 (s.load (handleKey d n 0) 64)⟩

/-- HSET (R289): word w of the handle from lane L, as a C-path store of 8 bytes. A sealed granule refuses it (R111) and a MOVING
one parks the gang (R29), as they do a store; `$tval` is then the word's address (log 31). -/
def hsetBody (x : HandleArgs) (c : Ictx) : Body :=
  match c.s.gridOf c.g, c.s.contextOf c.g with
  | some gr, some k =>
    let a := handleKey k.desc x.x1.toNat (x.sel.toNat % 8)
    if c.s.isSealed .device a then .trap ⟨.sealed, BitVec.ofNat 64 a, c.iset⟩
    else
      let c := c.fenced
      let r := tableReq c.s c.g gr .store a [⟨c.lead, a, (c.src 0#32).val x.a true c.lead, 0⟩]
      .go { c.plan with
        s := (c.s.addReqs [r]).later (reqWork c.s [r])
        park := if c.s.isMoving .device a then some (.moving r.id) else none }
  | _, _ => .go c.plan
/-- HSET (R289). -/
def execHset (x : HandleArgs) (s : State) : Host.Outcome State Fault Refusal := issue (.hset x) x.head 0#32 (hsetBody x) s

/-- HGET (R289): word w to the lanes of the write mask, as a C-path load of 8 bytes; the handle table is in device memory (log
8), with the load time of R216. -/
def hgetBody (x : HandleArgs) (c : Ictx) : Body :=
  match c.s.gridOf c.g, c.s.contextOf c.g with
  | some gr, some k =>
    let c := c.fenced
    let a := handleKey k.desc x.x1.toNat (x.sel.toNat % 8)
    let r := tableReq c.s c.g gr .load a ((Lanes.toList c.mask).map fun l => ⟨l, a, 0, 0⟩)
    .go { c.plan with
      s := (c.s.addReqs [r]).later (reqWork c.s [r])
      regs := destWrites c x.d 2 c.mask (fun _ => 0)
      reqs := true
      timing := .variable (c.s.loadTime c.g.quad ⟨.device, a, true, true, true, 1⟩) }
  | _, _ => .go c.plan
/-- HGET (R289). -/
def execHget (x : HandleArgs) (s : State) : Host.Outcome State Fault Refusal := issue (.hget x) x.head 0#32 (hgetBody x) s

/-! ### Issuing a command (R258, R290, R291) -/

/-- The signed byte offset a source gives in lane L (R291). -/
def offsetOf (w : Word) : Int := w.toInt

/-- The command of an instruction. -/
def newCmd (c : Ictx) (gr : Grid) (place : CmdPlace) (op : CmdOp) (x : HandleArgs) (hs : List Handle) (a b : Word) : Cmd :=
  { id := c.s.nextId, gid := c.g.gid, gidx := c.g.gidx, team := c.g.team, ctx := gr.ctx, vd := gr.vd, seq := c.g.issued,
    pc := c.pc, place := place, op := op, x := x, a := a, b := b, fill := 0, handles := hs, started := false, step := 0, ended := false,
    count := 0, flags := fNone, status := 0, errAddr := 0, errNo := 0, walking := false, kept := false, coll := none, booked := false }

/-- Where a command is taken up: the step that starts it. -/
def startWork (op : CmdOp) (p : CmdPlace) : List Instr :=
  match p with
  | .engine e => [.engineCommandStart e]
  | .matrix q => match op with
    | .tstat => [.tstatResult q]
    | .tdrain | .tsave | .trest => [.matrixCommandStart q .move]
    | _ => [.matrixCommandStart q .array]

/-- The command that an instruction has issued. -/
def Cmd.issuedBy (k : Cmd) (c : Ictx) : Bool := k.gid == c.g.gid && k.seq == c.g.issued
/-- Change the command that an instruction has issued. -/
def State.onIssued (s : State) (c : Ictx) (f : Cmd → Cmd) : State :=
  { s with cmds := s.cmds.map fun k => if k.issuedBy c then f k else k }

/-- The plan of a command that has passed its checks (R258, R291): it enters its engine's queue, its joint's OUT grows, D
is pending until the command ends. -/
def commandPlan (c : Ictx) (k : Cmd) (d : Operand) : Plan :=
  let s := commandOut { c.s with cmds := c.s.cmds ++ [k], nextId := c.s.nextId + 1 } c.g.team k.x.jnt.toNat
  { c.plan with
    s := s.later (startWork k.op k.place)
    regs := destWrites c d 1 c.mask (fun _ => 0)
    timing := .variable 0
    quiet := true }

/-- A source of a command in lane L. -/
def leadWord (c : Ictx) (o : Operand) : Word := (c.src 0#32).word o c.lead

/-- The first trap of a list of handles, each with its reason (R285). -/
def firstHdesc (rs : List (Nat × Option Nat)) (iset : Lanes) : Option Trap :=
  rs.findSome? fun r => r.2.map fun reason => hdescTrap r.1 reason iset

/-- The requester number of an engine (R391); a move lane has none. -/
def requesterOf (e : EngineId) : Nat :=
  match e with
  | .stager u => 768 + u
  | .block k => 1152 + k
  | .nest c => 1168 + c
  | .bank b => 1360 + b
  | .moveLane _ => 2 ^ 16
/-- The requester number of a command (R391). -/
def Cmd.requester (k : Cmd) : Nat := match k.place with | .engine e => requesterOf e | .matrix q => requesterOf (.moveLane q)

/-! ### Element accesses of a chunk (R283, R293) -/

/-- Where an access of a command goes: a virtual address, a team address, or a byte of a tile slot or an accumulator. -/
inductive EPlace where
  | virt | team | tile
  deriving DecidableEq, Repr

/-- One access of a command: by handle number, its place and address, its width in bits, its nibble. -/
structure EAcc where
  no   : Nat
  at_  : EPlace
  addr : Nat
  bits : Nat
  nib  : Nat
  deriving DecidableEq, Repr

/-- The access of the element at an index of a handle. -/
def Desc.elemAcc (h : Desc) (off : Int) (i : List Nat) : EAcc :=
  let a := h.elemAddr off i
  ⟨h.no, if h.space = 1 then .team else .virt, (a.1 % ((if h.space = 1 then 2 ^ 32 else 2 ^ 64 : Nat) : Int)).toNat, elemBits h.ty, a.2⟩
/-- The access of the scale of the group that holds a logical index (R284). -/
def Desc.scaleAcc (h : Desc) (i : List Nat) : EAcc :=
  let j := ravel h.scaleDims (i.mapIdx fun d x => if d = h.sgd then x / 128 else x)
  ⟨h.no, .virt, h.scale + 2 * j, 16, 0⟩
/-- The access of the mask of group g of a row (R284); `i` is an index whose dimension 0 is g. -/
def Desc.maskAcc (h : Desc) (i : List Nat) : EAcc := ⟨h.no, .virt, h.mask + 16 * ravel h.maskDims i, 128, 0⟩

/-- The context and scratchpad a command acts in, its path, and whether its destination must be common memory (R312). -/
structure Env where
  desc  : ContextDesc
  team  : Team
  size  : Nat                  -- scratch size of the team
  path  : Nat
  banks : Bool
  who   : Nat                  -- the requester number of its engine (R391)
  out   : Outside

/-- Where an access lies: its key, and OWN of its page (R374). -/
structure Spot where
  key : Nat
  own : Nat
  deriving DecidableEq, Repr

/-- A peer refuses the request for a place (R404). -/
def Env.refuses (e : Env) (sp : Space) : Bool := match sp with | .peer id => e.out.refused.contains id | _ => false

/-- Where an access goes, or why it fails (R293). A team address beyond the scratchpad is PROT, as is a peer that refuses (R404). -/
def EAcc.spot (s : State) (e : Env) (write : Bool) (a : EAcc) : Except VErr Spot :=
  match a.at_ with
  | .tile => .ok ⟨a.addr, 1⟩
  | .team => if e.size < a.addr + max (a.bits / 8) 1 then .error .prot else .ok ⟨e.team.scratchKey a.addr, 1⟩
  | .virt => match s.reach e.desc e.who e.path write a.addr with
    | .error v => .error v
    | .ok p => if (write && e.banks && p.space != .common) || e.refuses p.space then .error .prot else .ok ⟨keyOf p.space p.addr, p.own⟩

/-- The value at a key by width and nibble. -/
def EAcc.read (m : List Host.Cell) (a : EAcc) (k : Nat) : Nat :=
  if a.bits = 4 then bitsOf (memLoad m k 1) (4 * a.nib) 4 else memLoad m k (a.bits / 8)
/-- Store a value at a key by width and nibble. -/
def EAcc.write (m : List Host.Cell) (a : EAcc) (k x : Nat) : List Host.Cell :=
  if a.bits = 4 then
    let old := memLoad m k 1
    memStore m k 1 (old - bitsOf old (4 * a.nib) 4 * 2 ^ (4 * a.nib) + x % 16 * 2 ^ (4 * a.nib))
  else memStore m k (a.bits / 8) x

/-- One unit of a chunk's work: what it reads, what it writes, and the values written from the values read, or a STATUS
that ends the command there (R298: MASK). With several writes, write i is the element that read i gives. -/
structure Item where
  reads  : List EAcc
  writes : List EAcc
  op     : List Nat → Except Nat (List Nat × Flags)

/-- What a chunk comes to: its writes, last first, with their keys and values, the keys it read, its flags, why it is
held or how it fails, and the first poisoned read. -/
structure ChunkEnd where
  writes : List (EAcc × Spot × Nat)
  reads  : List Spot
  flags  : Flags
  hold   : Option VErr
  status : Nat
  addr   : Nat
  no     : Nat
  poison : Option EAcc

/-- Nothing has been done yet. -/
def ChunkEnd.start : ChunkEnd := ⟨[], [], fNone, none, 0, 0, 0, none⟩

/-- The first failing access of a list, or the accesses with their keys. -/
def placeAccs (s : State) (e : Env) (write : Bool) : List EAcc → Except (VErr × EAcc) (List (EAcc × Spot))
  | [] => .ok []
  | a :: rest => match a.spot s e write with
    | .error v => .error (v, a)
    | .ok k => match placeAccs s e write rest with
      | .error x => .error x
      | .ok ks => .ok ((a, k) :: ks)

/-- The writes of an item that come before its first failing one (R293). -/
def placedWrites (s : State) (e : Env) : List EAcc → List (EAcc × Spot)
  | [] => []
  | a :: rest => match a.spot s e true with
    | .error _ => []
    | .ok k => (a, k) :: placedWrites s e rest
/-- The first failing write of an item. -/
def failedWrite (s : State) (e : Env) (l : List EAcc) : Option (VErr × EAcc) :=
  match placeAccs s e true l with
  | .error x => some x
  | .ok _ => none

/-- Far-tier or fleet-window data of an access arrive poisoned (R293): one of its bytes is at a poisoned address. -/
def EAcc.poisoned (poison : List Nat) (q : EAcc × Spot) : Bool :=
  q.1.at_ == .virt && decide (keyOf .far 0 ≤ q.2.key) && poison.any fun p => decide (q.1.addr ≤ p ∧ p < q.1.addr + max (q.1.bits / 8) 1)

/-- What an element is written for a poisoned read (R293): zero in every width, and a zero that a bank stores as it is. -/
def poisonZero : Nat := 2 ^ 400

/-- An access fails (R293): a walk or a MOVING granule holds the chunk, anything else ends its command. -/
def ChunkEnd.failed (r : ChunkEnd) (v : VErr) (a : EAcc) : ChunkEnd :=
  match v with
  | .replay | .moving => { r with hold := some v, addr := a.addr, no := a.no }
  | _ => { r with status := v.status, addr := a.addr, no := a.no }

/-- An item performs the writes that are placed (R293): zero in the element concerned where a read is poisoned, which counts as 0 in
what the item computes of several (DESIGN CHOICE, log 31). -/
def Item.perform (i : Item) (s : State) (poison : List Nat) (rs ws : List (EAcc × Spot)) (r : ChunkEnd) : ChunkEnd :=
  let bad := rs.map (EAcc.poisoned poison)
  let r : ChunkEnd := { r with
    reads := rs.map (fun q => q.2) ++ r.reads
    poison := match r.poison with | some p => some p | none => (rs.find? (EAcc.poisoned poison)).map (fun q => q.1) }
  if i.writes.length ≤ 1 ∧ bad.any id = true then
    { r with writes := (ws.map fun w => (w.1, w.2, poisonZero)).reverse ++ r.writes }
  else
    match i.op (rs.map fun q => if EAcc.poisoned poison q then 0 else q.1.read s.mem q.2.key) with
    | .error st =>
      { r with status := st, addr := (match i.reads with | a :: _ => a.addr | [] => 0), no := (match i.reads with | a :: _ => a.no | [] => 0) }
    | .ok (vs, fl) =>
      let out := (ws.zip vs).mapIdx fun n w => (w.1.1, w.1.2, if bad.getD n false then poisonZero else w.2)
      { r with writes := out.reverse ++ r.writes, flags := r.flags ||| fl }

/-- The items of a chunk one after the other: what each writes, until the first that fails. Every read sees memory as it
stood before the chunk (R293). An item with a read that fails writes nothing. -/
def runItems (s : State) (e : Env) (poison : List Nat) : List Item → ChunkEnd → ChunkEnd
  | [], r => r
  | i :: rest, r =>
    match placeAccs s e false i.reads with
    | .error (v, a) => r.failed v a
    | .ok rs =>
      match failedWrite s e i.writes, placedWrites s e i.writes with
      | some (v, a), [] => r.failed v a
      | some (v, a), ws => (i.perform s poison rs ws r).failed v a
      | none, ws =>
        let r := i.perform s poison rs ws r
        if r.status ≠ 0 then r else runItems s e poison rest r

/-- Run a chunk (R293): a replayable fault or a MOVING granule at its first failing element leaves it undone, to be run
again; a poisoned read ends the command with POISON after the chunk. -/
def runChunk (s : State) (e : Env) (items : List Item) : ChunkEnd :=
  let r := runItems s e e.out.poison items .start
  if r.hold.isSome then { r with writes := [], reads := [], flags := fNone, status := 0 }
  else if r.status ≠ 0 then r
  else match r.poison with
    | some a => { r with status := 5, addr := a.addr, no := a.no }
    | none => r

/-- The writes of a chunk in memory, in their order: of two that reach one byte the later stands (R293). -/
def ChunkEnd.apply (r : ChunkEnd) (m : List Host.Cell) : List Host.Cell :=
  r.writes.reverse.foldl (fun m w => w.1.write m w.2.1.key w.2.2) m

/-- The requests by which the controllers account for a command's accesses (R389 to R392). -/
def accountReqs (s : State) (k : Cmd) (x : Grid) (accs : List (Spot × Nat)) (write : Bool) : List Req :=
  let base : Req := {
    id := 0, gid := k.gid, team := k.team, ctx := k.ctx, own := 0, seq := k.seq, kind := .account, ty := .untyped,
    space := .device, channel := 0, accs := [], acq := false, rel := false, who := k.requester, cls := x.cls.service, stamp := s.stampOf x,
    due := none, quad := 0, sent := s.uc.toNat, served := false }
  booksOf s base (accs.map fun a => (a.1.key, a.1.own, a.2)) write

/-- The requests of a chunk: its reads and its writes. -/
def State.chunkReqs (s : State) (k : Cmd) (r : ChunkEnd) : List Req :=
  match (s.team? k.team).bind fun t => s.grid? t.grid with
  | none => []
  | some x => accountReqs s k x (r.reads.map fun a => (a, 0)) false
      ++ accountReqs s k x (r.writes.map fun w => (w.2.1, w.1.bits)) true

/-- A request of the command is still with its controller or port. -/
def State.pendingFor (s : State) (k : Cmd) : Bool := s.reqs.any fun q => q.kind == .account && q.gid == k.gid && q.seq == k.seq

/-- The requests of a chunk go to their controllers and ports. -/
def State.bookChunk (s : State) (k : Cmd) (r : ChunkEnd) : State :=
  (s.send (s.chunkReqs k r)).onCmd k.id fun k => { k with booked := true }

/-- The requests of some commands' chunks come before their effect (R389 to R394): none where they have been served, or there are none;
else the state in which they wait, to be looked at again by a step. -/
def State.awaitChunks (s : State) (l : List (Cmd × ChunkEnd)) (again : Instr) : Option State :=
  if l.any (fun q => s.pendingFor q.1) then some (s.retry again)
  else
    let new := l.filter fun q => !q.1.booked && !(s.chunkReqs q.1 q.2).isEmpty
    if new.isEmpty then none else some ((new.foldl (fun s q => s.bookChunk q.1 q.2) s).retry again)

/-! ### The end of a command (R292, R294) -/

/-- The completion word (R292). -/
def completionWord (status : Nat) (flags : Flags) : Nat := status * 2 ^ 28 + (flags &&& 0x3F#7).toNat

/-- The arrival of a command that ends; that of a collective of a team in pre-emption is held until the restore (R323). -/
def arriveOrHold (s : State) (k : Cmd) (w : Option Nat) : State :=
  match k.op, s.team? k.team with
  | .coll, some t =>
    if (t.preempt || t.stowed) && k.x.jnt.toNat != noJoint then
      s.onTeam k.team fun t => { t with late := t.late ++ [(k.x.jnt.toNat, w.getD 0, k.place.source.2, k.status)] }
    else commandArrive s k.team k.x.jnt.toNat k.place w k.status
  | _, _ => commandArrive s k.team k.x.jnt.toNat k.place w k.status

/-- A command has ended: it leaves its queue, its failure goes to the error log, it arrives or breaks its joint, and its completion word returns to a gang that is not DRAINING, that of a
matrix command 8 cycles later (R348). A stowing gang may be STOWED with it (R385). -/
def endCmd (s : State) (k : Cmd) (weight : Nat) (flags : Flags) : State :=
  let s := { s with cmds := s.cmds.filter (fun c => c.id != k.id) }
  let s := if k.status = 0 then s else s.logError k.ctx 1 k.status k.errNo k.errAddr k.pc
  let s := arriveOrHold s k (if k.status = 0 then some weight else none)
  match s.gang? k.gid with
  | none => s
  | some g =>
    let s := if g.life = .stowing then s.later [.gangStowed k.gid] else s
    match g.life with
    | .draining => (s.onGang k.gid fun g => { g with results := g.results.filter (fun r => r.seq != k.seq) }).later [.gangFree k.gid]
    | _ =>
      let w := completionWord k.status flags
      match k.place with
      | .matrix _ => s.onGang k.gid fun g => g.setResultAt k.seq w (s.cycleOf g.quad + 8)
      | .engine _ => (s.onGang k.gid fun g => g.setResult k.seq w).later [.variableResultReturn k.gid k.seq none]

/-- The environment of a command. -/
def State.envOf (s : State) (k : Cmd) (path : Nat) (banks : Bool) (out : Outside) : Option Env :=
  match s.context? k.ctx, s.team? k.team with
  | some c, some t => some ⟨c.desc, t, (match s.grid? t.grid with | some x => scratchSize x.kernel | none => 0), path, banks, k.requester, out⟩
  | _, _ => none

/-- The grid of a command. -/
def State.cmdGrid (s : State) (k : Cmd) : Option Grid :=
  match s.team? k.team with | some t => s.grid? t.grid | none => none

/-- The effective local rate for a command's work items (R54). -/
def State.cmdRate (s : State) (k : Cmd) : Word :=
  match s.gang? k.gid with | some g => s.gangRate g | none => s.vdRate k.vd

end Sys2Proof.Machine
end

