-- ==== Sys2Proof/Machine/Copy.lean ====
section
/-!
DEFINITION. The commands of the stagers, the block engines and the nest sequencers (R290 to R303): how they issue, and the
work of one chunk of each.
-/
namespace Sys2Proof.Machine
open Sys2Proof

/-! ### Issue (R290, R291) -/

/-- A handle of a command: its descriptor, its offset, the reasons the instruction adds, and whether the command uses its
scale and mask arrays (R286). -/
structure Named where
  h      : Desc
  off    : Int
  more   : List (Nat × Bool)
  scales : Bool
  masks  : Bool

/-- HDESC of the handles of a command, in their order, then PROT or PAGE of their footprints (R285, R286). -/
def namedTrap (hs : List Named) (scratch : Nat) (iset : Lanes) : Option Trap :=
  match firstHdesc (hs.map fun n => (n.h.no, lowestReason (n.h.reason n.off) n.more)) iset with
  | some t => some t
  | none => hs.findSome? fun n => n.h.footprintTrap n.off n.scales n.masks scratch iset

/-- The lines of the handles that a command samples, by key and OWN. -/
def handleSpots (d : ContextDesc) (nos : List Nat) : List (Nat × Nat) := nos.map fun n => (handleKey d n 0, 1)

/-- A command of an engine (R291): JOINT, then the traps of its handles, then its place in the queue. It samples its handles as a
C-path load (R289), behind the earlier accesses of its gang. -/
def commandBody (x : HandleArgs) (op : CmdOp) (e : Gang → CmdPlace) (nos : List Nat)
    (names : List Desc → Word → Word → List Named) (c : Ictx) : Body :=
  match c.s.gridOf c.g, c.s.contextOf c.g with
  | some gr, some k =>
    match commandJointTrap c x.jnt.toNat with
    | some t => .trap t
    | none =>
      let c := c.settle
      let hs := nos.map (sampleHandle c.s k.desc)
      let a := leadWord c x.a
      let b := leadWord c x.b
      match namedTrap (names (hs.map Handle.desc) a b) (scratchSize gr.kernel) c.iset with
      | some t => .trap t
      | none =>
        let c := { c with s := c.s.bookReads c.g gr (handleSpots k.desc nos) }
        .go (commandPlan c (newCmd c gr (e c.g) op x hs a b) x.d)
  | _, _ => .go c.plan

/-- A descriptor of a list; an empty one where there is none. -/
def descAt (hs : List Desc) (i : Nat) : Desc := hs.getD i (Handle.desc ⟨0, 0⟩)

/-- I8 and D8 count as equal (R297). -/
def sameFormat (a b : Ty) : Bool :=
  let n := fun t => match t with | Ty.d8 => Ty.i8 | t => t
  n a == n b
/-- Both formats lie in the CVT list (R189). -/
def bothConvert (a b : Ty) : Bool := cvtFormats.contains a && cvtFormats.contains b

/-- RANK and extents are equal (R297). -/
def Desc.sameExtents (a b : Desc) : Bool := a.rank == b.rank && a.ext == b.ext
/-- The extents of b are those of a with dimensions 0 and 1 exchanged (R297). -/
def Desc.transposedExtents (a b : Desc) : Bool :=
  a.extent 0 == b.extent 1 && a.extent 1 == b.extent 0 && a.ext.drop 2 == b.ext.drop 2
/-- Neither sparse nor scaled. -/
def Desc.plain (a : Desc) : Bool := a.spc == 0 && a.sgd == 7

/-- SGD of a transposed handle: 0 and 1 exchanged (R298). -/
def transposedSgd (s : Nat) : Nat := if s = 0 then 1 else if s = 1 then 0 else s

/-- The pair of a sparse or scaled source and destination that R298 lists. -/
def copyPairOk (t : Bool) (d s : Desc) : Bool :=
  let same := sameFormat d.ty s.ty
  let sparse := (d.spc == 0 && s.spc == 0) || (d.spc == s.spc && same && !t) || (d.spc == 0 && same && !t)
  let scaled := d.sgd == 7 || (s.sgd == (if t then transposedSgd d.sgd else d.sgd) && d.ty == s.ty)
  sparse && scaled

/-- What `.t` asks of a handle beyond R285 (R297): elements of 4, 8, 16 or 32 bits, even extents under D4. -/
def transposeBad (t : Bool) (h : Desc) : Bool :=
  t && (!([4, 8, 16, 32].contains (elemBits h.ty)) || (h.ty == .d4 && h.extent 1 % 2 != 0))

/-- The handles of ACOPY (R297, R298). -/
def acopyNames (t : Bool) (hs : List Desc) (a b : Word) : List Named :=
  let d := descAt hs 0
  let s := descAt hs 1
  let scaled := d.sgd != 7
  [⟨d, offsetOf a, [(8, transposeBad t d)], scaled, d.spc != 0⟩,
   ⟨s, offsetOf b, [(3, !(sameFormat d.ty s.ty || bothConvert d.ty s.ty)),
      (7, !(if t then d.transposedExtents s else d.sameExtents s)), (8, transposeBad t s || !copyPairOk t d s)],
      scaled, s.spc != 0⟩]
/-- ACOPY (R291, R297). -/
def execAcopy (x : HandleArgs) (s : State) : Host.Outcome State Fault Refusal :=
  issue (.acopy x) x.head 0#32 (commandBody x .acopy (fun g => .engine (stagerOf g)) [x.x1.toNat, x.x2.toNat]
    (acopyNames (decide (x.sel ≠ 0#4)))) s

/-- The handle of AFILL (R299). -/
def afillNames (hs : List Desc) (a : Word) (_ : Word) : List Named :=
  let d := descAt hs 0
  [⟨d, offsetOf a, [(8, !d.plain)], false, false⟩]
/-- AFILL (R291, R299): its value is B in lane L, a pair where the elements have 64 bits (R62, R153). -/
def afillBody (x : HandleArgs) (c : Ictx) : Body :=
  match commandBody x .afill (fun g => .engine (stagerOf g)) [x.x1.toNat] afillNames c with
  | .go p => .go { p with s := p.s.onIssued c fun k => { k with fill := (c.src 0#32).high x.b c.lead } }
  | b => b
/-- AFILL (R291, R299). -/
def execAfill (x : HandleArgs) (s : State) : Host.Outcome State Fault Refusal := issue (.afill x) x.head 0#32 (afillBody x) s

/-- The handles of BCOPY (R300): no scratchpad, equal formats, sparsity, scales, RANK and extents. -/
def bcopyNames (hs : List Desc) (a b : Word) : List Named :=
  let d := descAt hs 0
  let s := descAt hs 1
  [⟨d, offsetOf a, [(4, d.space == 1)], d.sgd != 7, d.spc != 0⟩,
   ⟨s, offsetOf b, [(4, s.space == 1), (7, !d.sameExtents s), (8, d.ty != s.ty || d.spc != s.spc || d.sgd != s.sgd)],
      s.sgd != 7, s.spc != 0⟩]
/-- BCOPY (R291, R300). -/
def execBcopy (x : HandleArgs) (s : State) : Host.Outcome State Fault Refusal :=
  issue (.bcopy x) x.head 0#32 (commandBody x .bcopy (fun g => .engine (blockOf g)) [x.x1.toNat, x.x2.toNat] bcopyNames) s

/-- The formats of an operation of NEST (R301). -/
def nestFormats (sel : Nat) : List Ty :=
  if sel ≤ 2 then [.i32, .u32, .f32, .f16, .bf16, .res28]
  else if sel ≤ 4 then [.i32, .u32, .f32, .f16, .bf16]
  else if sel = 5 then .res28 :: cvtFormats
  else if sel ≤ 7 then [.i32, .f32, .f16, .bf16]
  else [.i32, .u32]
/-- The handles of NEST (R301). -/
def nestNames (sel : Nat) (hs : List Desc) (a b : Word) : List Named :=
  let d := descAt hs 0
  let ok := fun (h : Desc) => (nestFormats sel).contains h.ty
  let pair := fun (h : Desc) => if sel = 5 then d.ty == h.ty || bothConvert d.ty h.ty else d.ty == h.ty
  ⟨d, offsetOf a, [(3, !ok d), (8, !d.plain)], false, false⟩ ::
    (hs.drop 1).map fun h => ⟨h, offsetOf b, [(3, !ok h || !pair h), (7, !d.sameExtents h), (8, !h.plain)], false, false⟩
/-- The handles NEST names: the unary operations have one source (R301). -/
def nestHandles (x : HandleArgs) : List Nat :=
  if x.sel = 5#4 ∨ x.sel = 6#4 ∨ x.sel = 7#4 then [x.x1.toNat, x.x2.toNat] else [x.x1.toNat, x.x2.toNat, x.x3.toNat]
/-- NEST (R291, R301). -/
def execNest (x : HandleArgs) (s : State) : Host.Outcome State Fault Refusal :=
  issue (.nest x) x.head 0#32 (commandBody x .nest (fun g => .engine (nestOf g)) (nestHandles x) (nestNames x.sel.toNat)) s

/-- Every dimension matches or is reduced (R302). -/
def Desc.reduces (d s : Desc) : Bool :=
  d.rank == s.rank && (List.range 5).all fun i => d.extent i == s.extent i || d.extent i == 1
/-- The handles of a reduction (R302, R314). -/
def reduceNames (sel : Nat) (banks : Bool) (sat : Bool) (hs : List Desc) (a b : Word) : List Named :=
  let d := descAt hs 0
  let s := descAt hs 1
  let formats : List Ty := [.i32, .u32, .f32] ++ (if sel % 8 = 0 then [.res28] else [])
  let satBad := banks && sat && (sel % 8 != 0 || !(d.ty == .i32 || d.ty == .u32))
  [⟨d, offsetOf a, [(3, !formats.contains d.ty), (4, banks && d.space == 1), (8, !d.plain || satBad)], false, false⟩,
   ⟨s, offsetOf b, [(3, d.ty != s.ty), (4, banks && s.space == 1), (7, !d.reduces s), (8, !s.plain)], false, false⟩]
/-- NESTR (R291, R302). -/
def execNestr (x : HandleArgs) (s : State) : Host.Outcome State Fault Refusal :=
  issue (.nestr x) x.head 0#32 (commandBody x .nestr (fun g => .engine (nestOf g)) [x.x1.toNat, x.x2.toNat]
    (reduceNames x.sel.toNat false x.sat)) s

/-- The handles of NESTQ (R303). -/
def nestqNames (hs : List Desc) (a b : Word) : List Named :=
  let d := descAt hs 0
  let s := descAt hs 1
  [⟨d, offsetOf a, [(3, !(d.ty == .d8 || d.ty == .d4)), (8, d.sgd == 7 || d.spc != 0)], true, false⟩,
   ⟨s, offsetOf b, [(3, s.ty != .f32), (7, d.ext != s.ext), (8, s.spc != 0)], false, false⟩]
/-- NESTQ (R291, R303). -/
def execNestq (x : HandleArgs) (s : State) : Host.Outcome State Fault Refusal :=
  issue (.nestq x) x.head 0#32 (commandBody x .nestq (fun g => .engine (nestOf g)) [x.x1.toNat, x.x2.toNat] nestqNames) s

/-! ### The work of a chunk -/

/-- Exchange dimensions 0 and 1 of an index (R297). -/
def swapIndex : List Nat → List Nat
  | i :: j :: rest => j :: i :: rest
  | l => l

/-- The number of set bits of a mask (R284). -/
def maskCount (m : Nat) : Nat := popcLane 128 m
/-- The number of set bits of a mask below bit k. -/
def maskRank (m k : Nat) : Nat := popcLane 128 (m % 2 ^ k)

/-- Copy one value. -/
def moveItem (src dst : EAcc) : Item := ⟨[src], [dst], fun vs => .ok (vs, fNone)⟩

/-- The scales that go with an element of the destination (R284, R298): those of the groups whose first element it is. -/
def scaleItems (d s : Desc) (t : Bool) (i : List Nat) : List Item :=
  if d.sgd = 7 then []
  else
    let logical : List (List Nat) :=
      if d.spc = 0 then [i]
      else if i.getD 0 0 % d.stored = 0 then
        (List.range 128).map fun k => (128 * (i.getD 0 0 / d.stored) + k) :: i.drop 1
      else []
    (logical.filter fun l => l.getD d.sgd 0 % 128 == 0).map fun l =>
      moveItem (s.scaleAcc (if t then swapIndex l else l)) (d.scaleAcc l)

/-- The mask that goes with an element of a sparse destination (R298): MASK when not exactly N bits are set. -/
def maskItems (d s : Desc) (i : List Nat) : List Item :=
  if d.spc = 0 ∨ i.getD 0 0 % d.stored ≠ 0 then []
  else
    let j := i.getD 0 0 / d.stored :: i.drop 1
    [⟨[s.maskAcc j], [d.maskAcc j], fun vs => if maskCount (vs.getD 0 0) = d.stored then .ok (vs, fNone) else .error 6⟩]

/-- The element of a dense destination taken from a sparse source (R298): 0 where its mask bit is 0. -/
def expandItem (st : State) (e : Env) (d s : Desc) (offD offS : Int) (i : List Nat) : Item :=
  let i0 := i.getD 0 0
  let acc := s.maskAcc (i0 / 128 :: i.drop 1)
  let dst := d.elemAcc offD i
  match acc.spot st e false with
  | .error _ => ⟨[acc], [dst], fun _ => .ok ([0], fNone)⟩
  | .ok p =>
    let m := acc.read st.mem p.key
    if maskCount m ≠ s.stored then ⟨[acc], [dst], fun _ => .error 6⟩
    else if bitsOf m (i0 % 128) 1 = 0 then ⟨[acc], [dst], fun _ => .ok ([0], fNone)⟩
    else ⟨[acc, s.elemAcc offS ((s.stored * (i0 / 128) + maskRank m (i0 % 128)) :: i.drop 1)], [dst],
      fun vs => .ok (vs.drop 1, fNone)⟩

/-- The items of element n of the destination of ACOPY or BCOPY (R297, R298, R300). -/
def copyItems (st : State) (e : Env) (t : Bool) (rnd : Nat) (sat : Bool) (d s : Desc) (offD offS : Int) (n : Nat) :
    List Item :=
  let i := unravel d.dims n
  let el : Item :=
    if s.spc ≠ 0 ∧ d.spc = 0 then expandItem st e d s offD offS i
    else
      ⟨[s.elemAcc offS (if t then swapIndex i else i)], [d.elemAcc offD i], fun vs =>
        if sameFormat d.ty s.ty then .ok (vs, fNone)
        else let r := convert s.ty d.ty rnd sat (vs.getD 0 0); .ok ([r.val], r.flags)⟩
  maskItems d s i ++ scaleItems d s t i ++ [el]

/-- One element of NEST (R301). -/
def nestOp (sel rnd : Nat) (sat : Bool) (d s : Ty) (a b : Nat) : Res :=
  let f := tyFloat d
  let int := fun (op : Int → Int → Int) (sat : Bool) => intOp 32 (tySigned d) sat (fun x y _ => op x y) a b 0
  if sel = 5 then (if d = s then Res.pure a else convert s d rnd sat a)
  else if tyIsFloat d then
    match sel with
    | 0 => fAdd f rnd sat a b
    | 1 => fSub f rnd sat a b
    | 2 => fMul f rnd sat a b
    | 3 => fMinMax f true a b
    | 4 => fMinMax f false a b
    | _ => match f.value a with
      | .nan sg => f.nanRes (flagIf sg fNvl)
      | _ => Res.pure (if sel = 6 then a % f.signBit else a ^^^ f.signBit)
  else if d = .res28 then
    match sel with
    | 0 => resBinary (fun a b => a + b) a b
    | 1 => resBinary (fun a b => a - b) a b
    | _ => resBinary (fun a b => a * b) a b
  else
    match sel with
    | 0 => int (fun a b => a + b) sat
    | 1 => int (fun a b => a - b) sat
    | 2 => int (fun a b => a * b) sat
    | 3 => int (fun a b => min a b) false
    | 4 => int (fun a b => max a b) false
    | 6 => int (fun a _ => (a.natAbs : Int)) sat
    | 7 => int (fun a _ => -a) sat
    | 8 => Res.pure (a &&& b)
    | 9 => Res.pure (a ||| b)
    | _ => Res.pure (a ^^^ b)

/-- The item of element n of NEST. -/
def nestItem (x : HandleArgs) (hs : List Desc) (offD offS : Int) (n : Nat) : Item :=
  let d := descAt hs 0
  let i := unravel d.ext n
  ⟨(hs.drop 1).map fun h => h.elemAcc offS i, [d.elemAcc offD i], fun vs =>
    let r := nestOp x.sel.toNat x.rnd.toNat x.sat d.ty (descAt hs 1).ty (vs.getD 0 0) (vs.getD 1 0)
    .ok ([r.val], r.flags)⟩

/-- One step of a reduction (R302): Op(r, element). -/
def reduceOp (sel rnd : Nat) (sat : Bool) (t : Ty) (r x : Nat) : Res :=
  match sel % 8 with
  | 0 => if t = .f32 then fAdd fmtF32 rnd sat r x else if t = .res28 then resBinary (fun a b => a + b) r x
    else Res.pure ((r + x) % 2 ^ 32)
  | 1 => if t = .f32 then fMinMax fmtF32 true r x
    else Res.pure (wrapNat 32 (min (readInt 32 (tySigned t) r) (readInt 32 (tySigned t) x)))
  | _ => if t = .f32 then fMinMax fmtF32 false r x
    else Res.pure (wrapNat 32 (max (readInt 32 (tySigned t) r) (readInt 32 (tySigned t) x)))

/-- An integer sum formed exactly (R302: `.add.sat`). -/
def exactSum (sel : Nat) (sat : Bool) (t : Ty) : Bool := sat && decide (sel % 8 = 0) && (t == .i32 || t == .u32)

/-- The reduction of a list of elements, the first of which starts it (R302); one element alone is taken as a result (R67, R77). -/
def reduceAll (sel rnd : Nat) (sat : Bool) (t : Ty) (vs : List Nat) : Res :=
  if exactSum sel sat t then narrow 32 (tySigned t) true (vs.foldl (fun (acc : Int) v => acc + readInt 32 (tySigned t) v) 0)
  else match vs with
    | [] => Res.pure 0
    | v :: rest =>
      let r := rest.foldl (fun acc x => (reduceOp sel rnd sat t acc.val x).also acc.flags) (Res.pure v)
      (soleOperand t r.val).also r.flags

/-- The source indices that agree with a destination index in every kept dimension, in iteration order (R302). -/
def reducedIndices (d s : Desc) (i : List Nat) : List (List Nat) :=
  let dims := (List.range 5).map fun k => if d.extent k = s.extent k then 1 else s.extent k
  (List.range (prodOf dims)).map fun n => (unravel dims n).mapIdx fun k j => i.getD k 0 + j

/-- The item of element n of NESTR (R302). -/
def nestrItem (x : HandleArgs) (hs : List Desc) (offD offS : Int) (n : Nat) : Item :=
  let d := descAt hs 0
  let s := descAt hs 1
  let i := unravel d.ext n
  let old := if 8 ≤ x.sel.toNat then [d.elemAcc offD i] else []
  ⟨old ++ (reducedIndices d s i).map (s.elemAcc offS), [d.elemAcc offD i], fun vs =>
    let r := reduceAll x.sel.toNat x.rnd.toNat x.sat d.ty vs
    .ok ([r.val], r.flags)⟩

/-- The item of group n of NESTQ (R191, R303). -/
def nestqItem (x : HandleArgs) (hs : List Desc) (offD offS : Int) (n : Nat) : Item :=
  let d := descAt hs 0
  let s := descAt hs 1
  let g := unravel d.scaleDims n
  let at_ := fun (k : Nat) => g.mapIdx fun m v => if m = d.sgd then 128 * v + k else v
  let qmax := if d.ty = .d8 then 127 else 7
  ⟨(List.range 128).map fun k => s.elemAcc offS (at_ k),
   (List.range 128).map (fun k => d.elemAcc offD (at_ k)) ++ [d.scaleAcc (at_ 0)], fun vs =>
    let scale := groupScale qmax vs
    let qs := vs.map (quantise qmax scale x.rnd.toNat)
    .ok (qs.map (fun q => wrapNat (elemBits d.ty) q.1) ++ [scale], qs.foldl (fun f q => f ||| q.2) fNone)⟩

/-- The elements of a chunk of the nest sequencer (R293): one step of the highest dimension whose extent exceeds 1. -/
def nestBlock (dims : List Nat) : Nat :=
  match (List.range dims.length).reverse.find? (fun d => decide (1 < dims.getD d 1)) with
  | some d => prodOf (dims.take d)
  | none => prodOf dims

/-- The extents a command runs over: those of its destination's element array, and of its groups for NESTQ. -/
def Cmd.space (k : Cmd) : List Nat :=
  match k.handles with
  | [] => [0]
  | h :: _ => match k.op with
    | .nestq => h.desc.scaleDims
    | _ => h.desc.dims

/-- The elements of a chunk (R293): 4 KiB of destination bytes, 16 KiB on a block engine, a step of the nest sequencer. -/
def Cmd.block (k : Cmd) : Nat :=
  match k.op with
  | .nest | .nestr | .nestq => nestBlock k.space
  | .bcopy => match k.handles with | h :: _ => 16384 * 8 / elemBits h.desc.ty | [] => 1
  | _ => match k.handles with | h :: _ => 4096 * 8 / elemBits h.desc.ty | [] => 1

/-- The elements of the chunk that is next, and whether it is the last. -/
def Cmd.chunk (k : Cmd) : List Nat × Bool :=
  let b := max k.block 1
  let n := prodOf k.space
  let from_ := k.step * b
  ((List.range (min b (n - from_))).map (from_ + ·), decide (n ≤ from_ + b))

/-- The items of a command of a stager, a block engine or a nest sequencer over a list of elements. -/
def Cmd.items (k : Cmd) (s : State) (e : Env) (els : List Nat) : List Item :=
  let hs := k.handles.map Handle.desc
  let offD := offsetOf k.a
  let offS := offsetOf k.b
  let x := k.x
  match k.op with
  | .acopy => els.flatMap (copyItems s e (decide (x.sel ≠ 0#4)) x.rnd.toNat x.sat (descAt hs 0) (descAt hs 1) offD offS)
  | .bcopy => els.flatMap (copyItems s e false 0 false (descAt hs 0) (descAt hs 1) offD offS)
  | .afill => els.map fun n =>
      let d := descAt hs 0
      ⟨[], [d.elemAcc offD (unravel d.dims n)], fun _ => .ok ([(k.b.toNat + k.fill.toNat * 2 ^ 32) % 2 ^ elemBits d.ty], fNone)⟩
  | .nest => els.map (nestItem x hs offD offS)
  | .nestr => els.map (nestrItem x hs offD offS)
  | .nestq => els.map (nestqItem x hs offD offS)
  | _ => []

/-- The weight of a command that ends with STATUS 0 (R294, R316): destination bytes for the copies, destination elements or
groups for the others. -/
def Cmd.weight (k : Cmd) : Nat :=
  match k.op, k.handles with
  | .acopy, h :: _ | .afill, h :: _ | .bcopy, h :: _ | .coll, h :: _ => prodOf h.desc.dims * elemBits h.desc.ty / 8
  | _, _ => prodOf k.space

end Sys2Proof.Machine
end

