-- ==== Sys2Proof/Machine/Bank.lean ====
section
/-!
DEFINITION. The commands of path K (R309 to R323): bank updates, reductions and conversions, the operations of the bank
ALUs, and collectives.
-/
namespace Sys2Proof.Machine
open Sys2Proof

/-! ### Issue (R311 to R315) -/

/-- The formats of an operation of BANKOP (R313). -/
def bankFormats (sel : Nat) : List Ty :=
  match sel % 8 with
  | 0 | 6 => [.i32, .u32, .f32, .bf16x2, .res28]
  | 1 | 2 => [.i32, .u32, .f32, .bf16x2]
  | _ => [.i32, .u32]
/-- `.sat` where R312 does not accept it. -/
def satRefused (sat : Bool) (add : Bool) (t : Ty) : Bool := sat && (!add || !(t == .i32 || t == .u32))

/-- The handles of BANKOP (R312, R313). -/
def bankopNames (sel : Nat) (sat : Bool) (hs : List Desc) (a b : Word) : List Named :=
  let d := descAt hs 0
  ⟨d, offsetOf a, [(3, !(bankFormats sel).contains d.ty), (4, d.space == 1),
      (8, !d.plain || satRefused sat (decide (sel % 8 = 0)) d.ty)], false, false⟩ ::
    (hs.drop 1).map fun h => ⟨h, offsetOf b, [(3, h.ty != d.ty), (4, h.space == 1), (7, !d.sameExtents h), (8, !h.plain)],
      false, false⟩
/-- BANKOP (R311, R313). -/
def execBankop (x : HandleArgs) (s : State) : Host.Outcome State Fault Refusal :=
  issue (.bankop x) x.head 0#32 (commandBody x .bankop (fun g => .engine (bankOfGang g))
    (if 8 ≤ x.sel.toNat then [x.x1.toNat] else [x.x1.toNat, x.x2.toNat]) (bankopNames x.sel.toNat x.sat)) s

/-- BANKRED (R311, R314). -/
def execBankred (x : HandleArgs) (s : State) : Host.Outcome State Fault Refusal :=
  issue (.bankred x) x.head 0#32 (commandBody x .bankred (fun g => .engine (bankOfGang g)) [x.x1.toNat, x.x2.toNat]
    (reduceNames x.sel.toNat true x.sat)) s

/-- The handles of CRES (R312, R315). -/
def cresNames (sel : Nat) (sat : Bool) (hs : List Desc) (a b : Word) : List Named :=
  let d := descAt hs 0
  let s := descAt hs 1
  let pair := if sel = 0 then s.ty == .res28 && (d.ty == .i32 || d.ty == .f32) else s.ty == .i32 && d.ty == .res28
  let okD := if sel = 0 then d.ty == .i32 || d.ty == .f32 else d.ty == .res28
  [⟨d, offsetOf a, [(3, !okD), (4, d.space == 1), (8, !d.plain || sat)], false, false⟩,
   ⟨s, offsetOf b, [(3, !pair), (4, s.space == 1), (7, !d.sameExtents s), (8, !s.plain)], false, false⟩]
/-- CRES (R311, R315). -/
def execCres (x : HandleArgs) (s : State) : Host.Outcome State Fault Refusal :=
  issue (.cres x) x.head 0#32 (commandBody x .cres (fun g => .engine (bankOfGang g)) [x.x1.toNat, x.x2.toNat]
    (cresNames x.sel.toNat x.sat)) s

/-- The handles of COLL (R312, R319). -/
def collNames (sel : Nat) (sat : Bool) (hs : List Desc) (a b : Word) : List Named :=
  let d := descAt hs 0
  let s := descAt hs 1
  let formats : List Ty := [.i32, .u32, .f32, .bf16x2] ++ (if sel / 4 = 0 then [.res28] else [])
  [⟨d, offsetOf a, [(3, !formats.contains d.ty), (4, d.space == 1), (8, !d.plain || satRefused sat (decide (sel / 4 = 0)) d.ty)],
      false, false⟩,
   ⟨s, offsetOf b, [(3, s.ty != d.ty), (4, s.space == 1), (8, !s.plain)], false, false⟩]

/-- The bay of a team (R6, R25): that of its first core. -/
def Team.bay (t : Team) : Nat := t.cores.getD 0 0 / 4

/-- The instance of a COLL (R25, R318): its own, at crew scope the one whose crew the team is in, wherever a restore has placed it
since, or that of its bay; or a new one, whose crew is fixed now: the teams of the grid that are members of the bay's crew. -/
def collInstance (s : State) (gr : Grid) (t : Team) (scope tag n : Nat) : Coll × State :=
  let same := s.colls.filter fun i => i.scope == scope && i.grid == gr.id && i.tag == tag && i.n == n
  let own := if scope = 2 then
      (match same.find? (fun i => i.crew.contains t.id) with
       | some i => some i
       | none => same.find? (fun i => i.bay == t.bay))
    else same.head?
  match own with
  | some i => (i, s)
  | none =>
    let crew := if scope = 2 then (s.teams.filter fun u => u.grid == gr.id && u.bay == t.bay).map (·.id) else []
    let i : Coll := ⟨s.nextId, scope, gr.id, tag, n, t.bay, crew, false, false⟩
    (i, { s with colls := s.colls ++ [i], nextId := s.nextId + 1 })

/-- COLL (R311, R318): it joins its instance; a team outside the crew ends at once with NOTMEMBER, one whose instance has
aborted with ABORT. -/
def collBody (x : HandleArgs) (c : Ictx) : Body :=
  let scope := x.rnd.toNat
  let tag := x.x3.toNat
  match commandBody x .coll (fun g => .engine (bankOfGang g)) [x.x1.toNat, x.x2.toNat] (collNames x.sel.toNat x.sat) c,
      c.s.gridOf c.g, c.s.team? c.g.team with
  | .go p, some gr, some t =>
    let n := match t.colls.find? (fun k => k.1 == scope && k.2.1 == tag) with | some k => k.2.2 | none => 0
    let s := p.s.onTeam t.id fun t =>
      { t with colls := (scope, tag, n + 1) :: t.colls.filter (fun k => !(k.1 == scope && k.2.1 == tag)) }
    let r := collInstance s gr t scope tag n
    let out := scope = 2 ∧ r.1.crew.contains t.id = false
    let status := if out then 9 else if r.1.abort then 10 else 0
    let s := r.2.onIssued c fun k =>
      if status = 0 then { k with coll := some r.1.no } else { k with started := true, ended := true, status := status }
    let next := if status = 0 then [Instr.collInstanceComplete r.1.no [] .none] else [.commandComplete (bankOfGang c.g)]
    .go { p with s := s.later next }
  | b, _, _ => b
/-- COLL (R311, R318). -/
def execColl (x : HandleArgs) (s : State) : Host.Outcome State Fault Refusal :=
  issue (.coll x) x.head 0#32 (collBody x) s

/-! ### Element operations at the banks (R309, R310) -/

/-- What a chunk of path K carries to a bank: the operand in 256 bits, the number of the summands of a RES28 operand and their
largest |CRT| (R79), and the number of operations (R310). -/
def packBank (v count mag ops : Nat) : Nat := v % 2 ^ 256 + count * 2 ^ 256 + mag * 2 ^ 288 + ops * 2 ^ 320

/-- The largest |CRT| of RES28 words. -/
def largestMag (vs : List Nat) : Nat := vs.foldl (fun m v => max m (resCrt (resRead v)).natAbs) 0
/-- RNG of R79: count times the largest magnitude passes the range. -/
def sumRange (count mag : Nat) : Flags := flagIf (decide (67108607 < count * mag)) fRng

/-- The item of element n of BANKOP (R313). -/
def bankopItem (x : HandleArgs) (hs : List Desc) (offD offS : Int) (scalar : Word) (n : Nat) : Item :=
  let d := descAt hs 0
  let i := unravel d.ext n
  let src := if 8 ≤ x.sel.toNat then [] else [(descAt hs 1).elemAcc offS i]
  ⟨src, [d.elemAcc offD i], fun vs =>
    let v := if 8 ≤ x.sel.toNat then scalar.toNat else vs.getD 0 0
    .ok ([if d.ty = .res28 then packBank v 1 (largestMag [v]) 1 else packBank v 0 0 1], fNone)⟩

/-- The item of element n of BANKRED (R314): the banks combine the sources into r. DESIGN CHOICE (log 29): each source is one bank
operation of R310, and `.acc` one more. -/
def bankredItem (x : HandleArgs) (hs : List Desc) (offD offS : Int) (n : Nat) : Item :=
  let d := descAt hs 0
  let s := descAt hs 1
  let i := unravel d.ext n
  let sel := x.sel.toNat
  ⟨(reducedIndices d s i).map (s.elemAcc offS), [d.elemAcc offD i], fun vs =>
    let ops := vs.length + (if 8 ≤ sel then 1 else 0)
    if exactSum sel x.sat d.ty then
      let r : Int := vs.foldl (fun (acc : Int) v => acc + readInt 32 (tySigned d.ty) v) 0
      if 8 ≤ sel then .ok ([packBank (wrapNat 256 r) 0 0 ops], fNone)
      else let y := narrow 32 (tySigned d.ty) true r; .ok ([packBank y.val 0 0 ops], y.flags)
    else
      let r := reduceAll sel x.rnd.toNat false d.ty vs
      let mag := largestMag vs
      let rng := if d.ty = .res28 ∧ sel < 8 then sumRange vs.length mag else fNone
      .ok ([packBank r.val (if d.ty = .res28 then vs.length else 0) mag ops], r.flags ||| rng)⟩

/-- The item of element n of CRES (R315). -/
def cresItem (x : HandleArgs) (hs : List Desc) (offD offS : Int) (n : Nat) : Item :=
  let d := descAt hs 0
  let s := descAt hs 1
  let i := unravel d.ext n
  ⟨[s.elemAcc offS i], [d.elemAcc offD i], fun vs =>
    let r := rcvtLane d.ty s.ty x.rnd.toNat (vs.getD 0 0)
    .ok ([packBank r.val 0 0 1], r.flags)⟩

/-- The items of a command of path K. -/
def Cmd.bankItems (k : Cmd) (els : List Nat) : List Item :=
  let hs := k.handles.map Handle.desc
  let offD := offsetOf k.a
  match k.op with
  | .bankop => els.map (bankopItem k.x hs offD (offsetOf k.b) k.b)
  | .bankred => els.map (bankredItem k.x hs offD (offsetOf k.b))
  | .cres => els.map (cresItem k.x hs offD (offsetOf k.b))
  | _ => []

/-- The operation a command performs at the bank (R313 to R315): BANKRED without `.acc` and CRES write their value. -/
def Cmd.bankSel (k : Cmd) : Nat :=
  match k.op with
  | .bankop => k.x.sel.toNat % 8
  | .bankred => if 8 ≤ k.x.sel.toNat then k.x.sel.toNat % 8 else 6
  | _ => 6

/-- The writes of a chunk go to the banks as operations, in iteration order (R309); the zero of a poisoned element is stored as
it is (R293). -/
def queueBankOps (s : State) (k : Cmd) (r : ChunkEnd) : State :=
  let ty := (descAt (k.handles.map Handle.desc) 0).ty
  let ops := r.writes.reverse.mapIdx fun i w =>
    let zero := decide (w.2.2 = poisonZero)
    ({ id := s.nextId + i, bank := s.bankNo (w.2.1.key % 2 ^ 64), cmd := k.id, key := w.2.1.key, ty := ty,
       op := if zero then 6 else k.bankSel,
       sat := k.x.sat, rnd := if k.op = .bankred ∨ k.op = .bankop then k.x.rnd.toNat else 0,
       value := w.2.2 % 2 ^ 256, exact := !zero && k.op == .bankred && exactSum k.x.sel.toNat k.x.sat ty,
       count := bitsOf w.2.2 256 32, mag := bitsOf w.2.2 288 32, ops := if zero then 1 else bitsOf w.2.2 320 64 } : BankOp)
  { s with bankOps := s.bankOps ++ ops, nextId := s.nextId + ops.length }.later (ops.map fun (o : BankOp) => .bankOperation o.bank)

/-- A word that a bank ALU copies: a malformed RES28 word is reduced and sets RNG (R77, R313). -/
def bankCopy (t : Ty) (v : Nat) : Res := if t = .res28 then soleOperand t v else Res.pure v

/-- Op(old, s) at a bank (R313, R314). -/
def bankApply (o : BankOp) (old : Nat) : Res :=
  let v := o.value % 2 ^ 32
  match o.op with
  | 0 =>
    match o.ty with
    | .f32 => fAdd fmtF32 o.rnd false old v
    | .bf16x2 => packed 16 (fun a b _ => fAdd fmtBF16 o.rnd false a b) old v 0
    | .res28 => (resBinary (fun a b => a + b) old v).also
        (if o.count = 0 then fNone else sumRange (o.count + 1) (max o.mag (largestMag [old])))
    | _ => narrow 32 (tySigned o.ty) o.sat (readInt 32 (tySigned o.ty) old +
        (if o.exact then signedOf 256 o.value else readInt 32 (tySigned o.ty) v))
  | 1 | 2 =>
    match o.ty with
    | .f32 => fMinMax fmtF32 (decide (o.op = 1)) old v
    | .bf16x2 => packed 16 (fun a b _ => fMinMax fmtBF16 (decide (o.op = 1)) a b) old v 0
    | _ =>
      let a := readInt 32 (tySigned o.ty) old
      let b := readInt 32 (tySigned o.ty) v
      Res.pure (wrapNat 32 (if o.op = 1 then min a b else max a b))
  | 3 => Res.pure (old &&& v)
  | 4 => Res.pure (old ||| v)
  | 5 => Res.pure (old ^^^ v)
  | _ => bankCopy o.ty v

/-- Perform one element operation: memory, the command's flags, its charge. -/
def performBankOp (s : State) (o : BankOp) : State :=
  let r := bankApply o (s.load o.key 4)
  let v := match s.cmd? o.cmd with | some k => some k.vd | none => none
  let s := { s.store o.key 4 r.val with bankOps := s.bankOps.filter (fun p => p.id != o.id) }
  let s := s.onCmd o.cmd fun k => { k with flags := k.flags ||| r.flags }
  match v with
  | some v => s.charge v (s.sliceEnergy (o.bank / 64) * o.ops)
  | none => s

/-- A request is an atomic to common memory that waits at a bank. -/
def Req.atBank (s : State) (bank : Nat) (r : Req) : Bool :=
  r.space == .common && !r.served && (match r.kind with | .atomic _ _ => true | _ => false) &&
    r.accs.any fun a => s.bankNo (a.key % 2 ^ 64) == bank

/-- The next operation of a bank, in the order in which the operations reached it (R309): a command's element operation or
an atomic. -/
def nextAtBank (s : State) (bank : Nat) : State :=
  let o := s.bankOps.find? fun o => o.bank == bank
  let r := s.reqs.find? fun r => r.atBank s bank && reqReady s r
  match o, r with
  | some o, some r => if o.id < r.id then performBankOp s o else (s.perform r).markServed r.id
  | some o, none => performBankOp s o
  | none, some r => (s.perform r).markServed r.id
  | none, none => s

/-- BANK_OPERATION (R309). -/
def execBankOperation (bank : Nat) (s : State) : Host.Outcome State Fault Refusal :=
  .next (if s.bankHeld bank then s.retry (.bankOperation bank) else nextAtBank s bank)

/-! ### Collectives (R318 to R323) -/

/-- One participant of an instance as its completion sees it: its rank's key (member index and linear team index), its
command when it is local, what it gives. -/
structure Share where
  member : Nat
  team   : Nat
  cmd    : Option Cmd
  sel    : Nat
  fmt    : Nat
  dcount : Nat
  words  : List Nat
  deriving DecidableEq, Repr

/-- The words of a participant's source, or its failure. -/
def collSource (s : State) (k : Cmd) (out : Outside) : Except (Option VErr × Nat × EAcc) (List Nat × List Spot) :=
  match s.envOf k 4 false out with
  | none => .ok ([], [])
  | some e =>
    let d := descAt (k.handles.map Handle.desc) 1
    let accs := (List.range (prodOf d.dims)).map fun n => d.elemAcc (offsetOf k.b) (unravel d.dims n)
    match placeAccs s e false accs with
    | .error x => .error (some x.1, x.1.status, x.2)
    | .ok ks =>
      match ks.find? (EAcc.poisoned out.poison) with
      | some q => .error (none, 5, q.1)
      | none => .ok (ks.map (fun q => q.1.read s.mem q.2.key), ks.map (·.2))

/-- The places of a participant's destination, or its failure. -/
def collDest (s : State) (k : Cmd) (out : Outside) : Except (VErr × EAcc) (List (EAcc × Spot)) :=
  match s.envOf k 4 false out with
  | none => .ok []
  | some e =>
    let d := descAt (k.handles.map Handle.desc) 0
    placeAccs s e true ((List.range (prodOf d.dims)).map fun n => d.elemAcc (offsetOf k.a) (unravel d.dims n))

/-- Insert a participant by rank (R318). -/
def insertShare (x : Share) : List Share → List Share
  | [] => [x]
  | y :: ys => if x.member < y.member ∨ (x.member = y.member ∧ x.team < y.team) then x :: y :: ys else y :: insertShare x ys

/-- The count rule of a mode for P participants (R319). -/
def collCounts (mode p s d : Nat) : Bool :=
  match mode with
  | 0 => s == p * d
  | 1 => d == p * s
  | _ => d == s

/-- The participants agree and their counts hold (R319). -/
def collAgrees (ps : List Share) : Bool :=
  match ps with
  | [] => true
  | x :: _ => ps.all fun y => y.sel == x.sel && y.fmt == x.fmt && y.words.length == x.words.length &&
      collCounts (x.sel % 4) ps.length y.words.length y.dcount

/-- One step of the tree (R320). -/
def collOp (op : Nat) (t : Ty) (a b : Nat) : Res :=
  match op, t with
  | 0, .bf16x2 => packed 16 (fun a b _ => fAdd fmtBF16 0 false a b) a b 0
  | 1, .bf16x2 => packed 16 (fun a b _ => fMinMax fmtBF16 true a b) a b 0
  | 2, .bf16x2 => packed 16 (fun a b _ => fMinMax fmtBF16 false a b) a b 0
  | _, _ => reduceOp op 0 false t a b

/-- Combine neighbours at distance 1 of the values that are left: the next level of the tree (R320). -/
def collLevel (op : Nat) (t : Ty) : List Res → List Res
  | a :: b :: rest => ((collOp op t a.val b.val).also (a.flags ||| b.flags)) :: collLevel op t rest
  | l => l
/-- The tree of R320 over the contributions in rank order. -/
def collTree (op : Nat) (t : Ty) : Nat → List Res → Res
  | 0, l => l.headD (Res.pure 0)
  | n + 1, l => match l with
    | [] => Res.pure 0
    | [x] => x
    | l => collTree op t n (collLevel op t l)

/-- A reduced element (R320); the one contribution of one participant is taken as a result (R67, R77). -/
def collReduce (op : Nat) (sat : Bool) (t : Ty) (vs : List Nat) : Res :=
  if exactSum op sat t then narrow 32 (tySigned t) true (vs.foldl (fun (acc : Int) v => acc + readInt 32 (tySigned t) v) 0)
  else
    let r := collTree op t vs.length (vs.map Res.pure)
    ((soleOperand t r.val).also r.flags).also (if t = .res28 then sumRange vs.length (largestMag vs) else fNone)

/-- The elements of the destination of rank j (R319). A copy is no reduction and never sets RNG (R320); DESIGN CHOICE (log 32): it is written as
a bank's copy of the word (R77, R310), reduced where it is malformed. -/
def collResult (ps : List Share) (j : Nat) (sat : Bool) : List Res :=
  match ps with
  | [] => []
  | x :: _ =>
    let t := (Ty.ofCode (BitVec.ofNat 6 x.fmt)).getD .untyped
    let op := x.sel / 4
    let d := match ps[j]? with | some y => y.dcount | none => 0
    let red := fun i => collReduce op sat t (ps.map fun y => y.words.getD i 0)
    let copy := fun (w : Nat) => Res.pure (bankCopy t w).val
    match x.sel % 4 with
    | 0 => (List.range d).map fun i => red (j * d + i)
    | 1 => (ps.flatMap (·.words)).map copy
    | 2 => (List.range d).map red
    | _ => x.words.map copy

/-- The commands of an instance on this device that have not ended. -/
def collCmds (s : State) (no : Nat) : List Cmd := s.cmds.filter fun k => k.coll == some no && !k.ended

/-- An earlier collective of its own team that has not ended keeps a command from its turn (R290, R312). -/
def behindColl (cmds : List Cmd) (k : Cmd) : Bool :=
  cmds.any fun p => p.place == k.place && p.op == .coll && p.team == k.team && !p.ended && decide (p.id < k.id)

/-- A participant's command has every earlier command of its sequencer behind it (R290, R312), but for collectives, for commands that such
a collective keeps from their turn, and for those of a team that is pre-empted (R323). -/
def collReady (s : State) (k : Cmd) : Bool :=
  s.cmds.all fun q => q.place != k.place || decide (k.id ≤ q.id) || q.op == .coll || q.kept || behindColl s.cmds q

/-- The peers that have a member grid in a grid's fleet (R27). -/
def State.fleetPeers (s : State) (x : Grid) : List Nat :=
  (List.range 256).filter fun id => decide (id ≠ s.deviceId.toNat ∧ x.fleet ≠ 0) && Config.fleetHas x.fleet id

/-- Every participant of an instance has issued (R318), at fleet scope those of every member device too (R27). -/
def collIssued (s : State) (i : Coll) (ks : List Cmd) (remote : List RemoteShare) : Bool :=
  let teams := ks.filterMap fun k => (s.team? k.team).map (·.index)
  if i.scope = 2 then i.crew.all (ks.map (·.team)).contains
  else match s.grid? i.grid with
    | none => false
    | some x => (List.range (x.x * x.y * x.z)).all teams.contains &&
        (i.scope != 4 || (s.fleetPeers x).all fun id => remote.any fun r => r.member == id)

/-- End the participants of an instance: each with the status and flags `f` gives it. -/
def collEnd (s : State) (i : Coll) (ks : List Cmd) (f : Cmd → Nat × Flags × Nat × Nat) : State :=
  let s := { s with colls := s.colls.map fun (j : Coll) => if j.no == i.no then { j with done := true } else j }
  let s := ks.foldl (fun s k => s.onCmd k.id fun k =>
    let r := f k
    { k with started := true, ended := true, status := r.1, flags := r.2.1, errAddr := r.2.2.1, errNo := r.2.2.2 }) s
  s.later (ks.filterMap fun k => match k.place with | .engine e => some (.commandComplete e) | _ => none)

/-- An instance aborts (R322): its participants end with ABORT, those that come later too. -/
def collAbort (s : State) (i : Coll) : State :=
  let s := { s with colls := s.colls.map fun (j : Coll) => if j.no == i.no then { j with abort := true } else j }
  collEnd s i (collCmds s i.no) fun _ => (10, fNone, 0, 0)

/-- A participant fails: it ends with its status, the others with ABORT (R322). -/
def collFail (s : State) (i : Coll) (ks : List Cmd) (id status : Nat) (a : EAcc) : State :=
  let st := if status = 3 then 2 else status
  let s := { s with colls := s.colls.map fun (j : Coll) => if j.no == i.no then { j with abort := true } else j }
  collEnd s i ks fun k => if k.id = id then (st, fNone, a.addr, a.no) else (10, fNone, 0, 0)

/-- The first participant for which a function fails. -/
def firstFailure {α β : Type} (f : Cmd → Except α β) : List Cmd → Option (Cmd × α)
  | [] => none
  | k :: ks => match f k with
    | .error e => some (k, e)
    | .ok _ => firstFailure f ks

/-- The participants in rank order (R318): those of this device by linear team index, with the fleet's by member index. DESIGN CHOICE (log
32): the teams of a pool grid, which all have the index 0, rank in the order in which they issued. -/
def collShares (s : State) (ks : List Cmd) (remote : List RemoteShare) (out : Outside) : List Share :=
  let here := ks.map fun k =>
    let hs := k.handles.map Handle.desc
    ({ member := s.deviceId.toNat, team := (match s.team? k.team with | some t => t.index | none => 0), cmd := some k,
       sel := k.x.sel.toNat, fmt := (descAt hs 1).code, dcount := prodOf (descAt hs 0).dims,
       words := (match collSource s k out with | .ok w => w.1 | .error _ => []) } : Share)
  let there := remote.map fun r => ({ member := r.member, team := r.team, cmd := none, sel := r.sel.toNat, fmt := r.fmt.toNat,
                                      dcount := r.dcount, words := r.words.map (·.toNat) } : Share)
  (here ++ there).foldl (fun acc x => insertShare x acc) []

/-- What an instance comes to for one participant: what it reads and writes, with the flags of its destination (R320, R321). -/
def collChunk (s : State) (ps : List Share) (out : Outside) (j : Nat) (k : Cmd) : ChunkEnd :=
  let res := collResult ps j k.x.sat
  let dst := match collDest s k out with | .ok l => l | .error _ => []
  let src := match collSource s k out with | .ok w => w.2 | .error _ => []
  { ChunkEnd.start with
    writes := ((dst.zip res).map fun q => (q.1.1, q.1.2, q.2.val)).reverse, reads := src
    flags := res.foldl (fun f r => f ||| r.flags) fNone }

/-- Write what one of `n` participants receives, and charge it (R310): one operation for each word of each combining step or copy, at the
slice that holds the word. -/
def collWrite (n : Nat) (s : State) (q : Cmd × ChunkEnd) : State :=
  let bay := match q.1.place with | .engine (.bank b) => b | _ => 0
  let steps := if q.1.x.sel.toNat % 4 = 0 ∨ q.1.x.sel.toNat % 4 = 2 then n else 1
  let slice := fun (key : Nat) => s.sliceEnergy (if key / 2 ^ 64 = 2 then s.bankNo (key % 2 ^ 64) / 64 else bay)
  { s with mem := q.2.apply s.mem }.charge q.1.vd ((q.2.writes.map fun (w : EAcc × Spot × Nat) => slice w.2.1.key * steps).foldl (· + ·) 0)

/-- The completion of an instance all of whose participants have issued (R319 to R322), once the requests for what they read and write have
been served (R389 to R394). -/
def collComplete (s : State) (i : Coll) (ks : List Cmd) (remote : List RemoteShare) (out : Outside) : State :=
  if remote.any (·.failed) then collAbort s i
  else match firstFailure (fun k => collSource s k out) ks with
  | some (k, (why, st, a)) =>
    if why = some .replay then s.onCmd k.id fun k => { k with walking := true }
    else if why = some .moving then s.retry (.collInstanceComplete i.no remote out)
    else collFail (if why.isNone then s.logDevice 5 a.addr else s) i ks k.id st a
  | none =>
    let ps := collShares s ks remote out
    if collAgrees ps = false then collEnd s i ks fun _ => (8, fNone, 0, 0)
    else match firstFailure (collDest s · out) ks with
    | some (k, (why, a)) =>
      if why = .replay then s.onCmd k.id fun k => { k with walking := true }
      else if why = .moving then s.retry (.collInstanceComplete i.no remote out)
      else collFail s i ks k.id why.status a
    | none =>
      let ends := (ps.mapIdx fun j x => (j, x.cmd)).filterMap fun q => q.2.map fun k => (k, collChunk s ps out q.1 k)
      match s.awaitChunks ends (.collInstanceComplete i.no remote out) with
      | some t => t
      | none => collEnd (ends.foldl (collWrite ps.length) s) i ks fun k =>
          (0, (match ends.find? (fun q => q.1.id == k.id) with | some q => q.2.flags | none => fNone), 0, 0)

/-- COLL_INSTANCE_COMPLETE (R318 to R322): nothing happens until every participant has issued. -/
def execCollInstanceComplete (no : Nat) (remote : List RemoteShare) (out : Outside) (s : State) :
    Host.Outcome State Fault Refusal :=
  match s.colls.find? (fun i => i.no == no) with
  | none => .next s
  | some i =>
    let ks := collCmds s no
    if i.abort then .next (collAbort s i)
    else if i.done || !collIssued s i ks remote || !ks.all (collReady s) || ks.any (·.walking) then .next s
    else .next (collComplete s i ks remote out)

end Sys2Proof.Machine
end

