-- ==== Sys2Proof/Machine/Matrix.lean ====
section
/-!
DEFINITION. The matrix unit of a quadrant (R327 to R351): claims, the matrix queue and its two lanes, products in residue
and float mode, loading, draining and images, and the bursts of the array.
-/
namespace Sys2Proof.Machine
open Sys2Proof

/-! ### Tile slots and accumulators (R327, R328) -/

/-- The key of a byte of slot t of a quadrant: 16 KiB of data, then 8 KiB of annex (R328, log 4). -/
def slotKey (quad t byte : Nat) : Nat := 5 * 2 ^ 64 + quad * 2 ^ 20 + t * 2 ^ 15 + byte
/-- The key of a byte of accumulator a. -/
def accKey (quad a byte : Nat) : Nat := 5 * 2 ^ 64 + quad * 2 ^ 20 + 2 ^ 19 + a * 2 ^ 14 + byte
/-- Where the annex of a slot begins. -/
def annexAt : Nat := 16384
/-- Where the masks of an annex begin (R328). -/
def annexMasks : Nat := annexAt + 0x1000

/-- The seven formats of a slot (R327). -/
def slotFormats : List Ty := [.d8, .d4, .f16, .bf16, .e4m3, .e5m2, .f8z]
/-- K_T (R328). -/
def tileDepth (t : Ty) : Nat := match t with | .f16 | .bf16 => 128 | .d4 => 512 | _ => 256
/-- The format of a slot's tag. -/
def SlotTag.ty (t : SlotTag) : Ty := (Ty.ofCode t.fmt).getD .untyped
/-- N of a sparsity code, 128 for a dense slot. -/
def storedOf (spc : Nat) : Nat := match spc with | 1 => 32 | 2 => 64 | _ => 128

/-- Slot t of a quadrant. -/
def Quad.slot (q : Quad) (t : Nat) : SlotTag := q.slots.getD t SlotTag.reset
/-- Accumulator a of a quadrant. -/
def Quad.acc (q : Quad) (a : Nat) : AccTag := q.accs.getD a AccTag.reset

/-! ### The units a command names (R334) -/

/-- A tile slot or an accumulator of a quadrant. -/
inductive MUnit where
  | slot (t : Nat)
  | acc (a : Nat)
  deriving DecidableEq, Repr

/-- The unit in `$tval` of TSLOT (R333). -/
def MUnit.code : MUnit → Nat
  | .slot t => t
  | .acc a => 0x80 + a

/-- The units a command names, in the order X1, X2, X3 (R331). -/
def unitsOf (op : CmdOp) (x : HandleArgs) : List MUnit :=
  match op with
  | .tzero => [.acc x.x1.toNat]
  | .tmma | .tmmas => [.acc x.x1.toNat, .slot x.x2.toNat, .slot x.x3.toNat]
  | .tdrain => [.acc x.x2.toNat]
  | .tsave => [if x.sel = 0#4 then .slot x.x2.toNat else .acc x.x2.toNat]
  | .trest => [if x.sel = 2#4 then .acc x.x1.toNat else .slot x.x1.toNat]
  | .tstat => if x.sel = 0#4 then [.acc x.x1.toNat] else if x.sel = 1#4 then [.slot x.x1.toNat] else []
  | _ => []

/-- The queue of a quadrant's matrix commands, in issue order (R330). -/
def State.matQueue (s : State) (q : Nat) : List Cmd := s.cmds.filter fun k => k.place == .matrix q && !k.kept

/-- A queued command is a TREST `.slot` or `.acc` of the unit: its RST bit (R327). -/
def restoring (cmds : List Cmd) (u : MUnit) : Bool :=
  cmds.any fun k => k.op == .trest && k.x.sel != 0#4 && unitsOf .trest k.x == [u]

/-- The tag of a slot as the commands issued so far will leave it (R334). -/
def futureSlot (s : State) (q t : Nat) : SlotTag :=
  (s.matQueue q).foldl (fun tag k =>
    if k.op = .trest ∧ k.x.sel = 0#4 ∧ k.x.x1.toNat = t then tileTag tag k else tag)
    ((s.quad q).slot t)
/-- The MODE of an accumulator as the commands issued so far will leave it (R334). -/
def futureMode (s : State) (q a : Nat) : Nat :=
  (s.matQueue q).foldl (fun m k => if k.op = .tzero ∧ k.x.x1.toNat = a then k.x.sel.toNat + 1 else m)
    ((s.quad q).acc a).mode.toNat

/-- The reasons of TSLOT (R333). -/
inductive TslotReason where
  | notHeld | empty | restoring | fmtPair | accMode | scalePair | sparse
  deriving DecidableEq, Repr
/-- Their codes (R333). -/
def TslotReason.code : TslotReason → Nat
  | .notHeld => 1 | .empty => 2 | .restoring => 3 | .fmtPair => 4 | .accMode => 5 | .scalePair => 6 | .sparse => 7
/-- TSLOT (R333). -/
def tslotTrap (u : MUnit) (r : TslotReason) (iset : Lanes) : Trap := ⟨.tslot, BitVec.ofNat 64 (u.code * 256 + r.code), iset⟩

/-- The holder of a unit. -/
def holderOf (q : Quad) : MUnit → Option Nat
  | .slot t => (q.slot t).holder
  | .acc a => (q.acc a).holder

/-- RESTORING, then EMPTY of one unit (R334). -/
def readyTrap (c : Ictx) (u : MUnit) : Option Trap :=
  let q := c.g.quad
  if restoring (c.s.matQueue q) u then some (tslotTrap u .restoring c.iset)
  else
    let empty := match u with
      | .slot t => !(futureSlot c.s q t).valid
      | .acc a => decide (futureMode c.s q a = 0)
    if empty then some (tslotTrap u .empty c.iset) else none

/-- FMTPAIR: the two slots do not go together (R334). -/
def formatsPair (a b : Ty) : Bool :=
  let group := fun t => match t with
    | Ty.d8 => 0 | .d4 => 1 | .e4m3 | .e5m2 | .f8z => 2 | .f16 | .bf16 => 3 | _ => 4
  group a == group b && group a != 4

/-- The checks of a product's slots (R334). -/
def productTrap (op : CmdOp) (x : HandleArgs) (c : Ictx) : Option Trap :=
  let q := c.g.quad
  let a := futureSlot c.s q x.x2.toNat
  let b := futureSlot c.s q x.x3.toNat
  let t2 := MUnit.slot x.x2.toNat
  let t3 := MUnit.slot x.x3.toNat
  let mode := if !a.scaled && (a.ty == .d8 || a.ty == .d4) then 2 else 1
  if a.spc ≠ 0#2 then some (tslotTrap t2 .sparse c.iset)
  else if (op = .tmma) = (b.spc ≠ 0#2) then some (tslotTrap t3 .sparse c.iset)
  else if formatsPair a.ty b.ty = false then some (tslotTrap t3 .fmtPair c.iset)
  else if a.scaled ≠ b.scaled then some (tslotTrap t3 .scalePair c.iset)
  else if futureMode c.s q x.x1.toNat ≠ mode then some (tslotTrap (.acc x.x1.toNat) .accMode c.iset)
  else none

/-- TSLOT of a command (R334). -/
def tslotCheck (op : CmdOp) (x : HandleArgs) (c : Ictx) : Option Trap :=
  let us := unitsOf op x
  match us.find? (fun u => holderOf (c.s.quad c.g.quad) u != some c.g.slot) with
  | some u => some (tslotTrap u .notHeld c.iset)
  | none =>
    match op with
    | .tmma | .tmmas => match us.findSome? (readyTrap c) with
      | some t => some t
      | none => productTrap op x c
    | .tdrain => us.findSome? (readyTrap c)
    | _ => none

/-- A matrix command (R333): JOINT, TSLOT, then the handle's traps, then its place in the queue. It samples a handle as a C-path load
(R289), behind the earlier accesses of its gang. -/
def matrixBody (x : HandleArgs) (op : CmdOp) (nos : List Nat) (names : Ictx → List Desc → Word → List Named) (c : Ictx) : Body :=
  match c.s.gridOf c.g, c.s.contextOf c.g with
  | some gr, some k =>
    match commandJointTrap c x.jnt.toNat with
    | some t => .trap t
    | none =>
      match tslotCheck op x c with
      | some t => .trap t
      | none =>
        let c := if nos.isEmpty then c else c.settle
        let hs := nos.map (sampleHandle c.s k.desc)
        let a := leadWord c x.a
        match namedTrap (names c (hs.map Handle.desc) a) (scratchSize gr.kernel) c.iset with
        | some t => .trap t
        | none =>
          let c := { c with s := c.s.bookReads c.g gr (handleSpots k.desc nos) }
          .go (commandPlan c (newCmd c gr (.matrix c.g.quad) op x hs a 0#32) (if op = .tburst then .zero else x.d))
  | _, _ => .go c.plan

/-! ### The matrix instructions -/

/-- The units of a slot mask and an accumulator mask (R329). -/
def maskUnits (a b : Word) : List MUnit :=
  ((List.range 16).filter fun t => a.getLsbD t).map .slot ++ ((List.range 8).filter fun n => b.getLsbD n).map .acc

/-- Give a unit a holder, or none. -/
def State.setHolder (s : State) (q : Nat) (h : Option Nat) (u : MUnit) : State :=
  match u with
  | .slot t => s.onSlot q t fun x => { x with holder := h }
  | .acc a => s.onAcc q a fun x => { x with holder := h }

/-- TCLAIM (R329). -/
def tclaimBody (x : HandleArgs) (c : Ictx) : Body :=
  let q := c.s.quad c.g.quad
  let us := maskUnits (leadWord c x.a) (leadWord c x.b)
  let busy := us.filter fun u => match holderOf q u with | some h => h != c.g.slot | none => false
  let word := busy.foldl (fun w u => w + match u with | .slot t => 2 ^ t | .acc a => 2 ^ (16 + a)) 0
  .go { c.plan with
    s := if busy.isEmpty then us.foldl (fun s u => s.setHolder c.g.quad (some c.g.slot) u) c.s else c.s
    regs := destWrites c x.d 1 c.mask (fun _ => word)
    timing := .exact 4 }
/-- TCLAIM (R329, R348). -/
def execTclaim (x : HandleArgs) (s : State) : Host.Outcome State Fault Refusal :=
  issue (.tclaim x) x.head 0#32 (tclaimBody x) s

/-- TREL (R329): the lowest slot that is not held comes before the accumulators. -/
def trelBody (x : HandleArgs) (c : Ictx) : Body :=
  let us := maskUnits (leadWord c x.a) (leadWord c x.b)
  match us.find? (fun u => holderOf (c.s.quad c.g.quad) u != some c.g.slot) with
  | some u => .trap (tslotTrap u .notHeld c.iset)
  | none => .go { c.plan with s := us.foldl (fun s u => s.setHolder c.g.quad none u) c.s }
/-- TREL (R329). -/
def execTrel (x : HandleArgs) (s : State) : Host.Outcome State Fault Refusal :=
  issue (.trel x) x.head 0#32 (trelBody x) s

/-- No handle. -/
def noNames (_ : Ictx) (_ : List Desc) (_ : Word) : List Named := []

/-- TZERO (R338). -/
def execTzero (x : HandleArgs) (s : State) : Host.Outcome State Fault Refusal :=
  issue (.tzero x) x.head 0#32 (matrixBody x .tzero [] noNames) s
/-- TMMA (R339). -/
def execTmma (x : HandleArgs) (s : State) : Host.Outcome State Fault Refusal :=
  issue (.tmma x) x.head 0#32 (matrixBody x .tmma [] noNames) s
/-- TMMAS (R342). -/
def execTmmas (x : HandleArgs) (s : State) : Host.Outcome State Fault Refusal :=
  issue (.tmmas x) x.head 0#32 (matrixBody x .tmmas [] noNames) s
/-- TBURST (R347). -/
def execTburst (x : HandleArgs) (s : State) : Host.Outcome State Fault Refusal :=
  issue (.tburst x) x.head 0#32 (matrixBody x .tburst [] noNames) s
/-- TSTAT (R346). -/
def execTstat (x : HandleArgs) (s : State) : Host.Outcome State Fault Refusal :=
  issue (.tstat x) x.head 0#32 (matrixBody x .tstat [] noNames) s

/-- The formats into which TDRAIN writes an accumulator of a MODE (R343). -/
def drainFormats (mode : Nat) : List Ty := if mode = 1 then [.f32, .f16, .bf16] else [.res28, .i32, .f32]
/-- The handle of TDRAIN (R343). -/
def tdrainNames (x : HandleArgs) (c : Ictx) (hs : List Desc) (a : Word) : List Named :=
  let h := descAt hs 0
  [⟨h, offsetOf a, [(3, !(drainFormats (futureMode c.s c.g.quad x.x2.toNat)).contains h.ty),
      (8, !h.plain || decide (2 < h.rank) || decide (64 < h.extent 0) || decide (64 < h.extent 1) ||
        (x.sat && !(h.ty == .f16 || h.ty == .bf16)))], false, false⟩]
/-- TDRAIN (R343). -/
def execTdrain (x : HandleArgs) (s : State) : Host.Outcome State Fault Refusal :=
  issue (.tdrain x) x.head 0#32 (matrixBody x .tdrain [x.x1.toNat] (tdrainNames x)) s

/-- Bytes of a slot image and of an accumulator image (R344). -/
def imageBytes (slot : Bool) : Nat := if slot then 24640 else 16448
/-- The handle of an image (R344): it is dense, RANK 1, u8, large enough, at a multiple of 64. -/
def imageNamed (slot : Bool) (h : Desc) (a : Word) : Named :=
  ⟨h, offsetOf a, [(8, h.rank != 1 || h.ty != .u8 || decide (h.extent 0 < imageBytes slot) || h.spc != 0 ||
    decide (((h.base : Int) + offsetOf a) % 64 ≠ 0))], false, false⟩
/-- TSAVE (R344). -/
def execTsave (x : HandleArgs) (s : State) : Host.Outcome State Fault Refusal :=
  issue (.tsave x) x.head 0#32 (matrixBody x .tsave [x.x1.toNat] (fun _ hs a => [imageNamed (decide (x.sel = 0#4)) (descAt hs 0) a])) s

/-- The handle of TREST (R337, R344). -/
def trestNames (x : HandleArgs) (_ : Ictx) (hs : List Desc) (a : Word) : List Named :=
  let h := descAt hs 0
  if x.sel = 0#4 then
    [⟨h, offsetOf a, [(3, !slotFormats.contains h.ty),
        (8, decide (2 < h.rank) || decide (64 < h.extent 1) || decide (tileDepth h.ty < h.extent 0) || !(h.sgd == 0 || h.sgd == 7))],
        h.sgd == 0, h.spc != 0⟩]
  else [imageNamed (decide (x.sel = 1#4)) h a]
/-- TREST (R337, R344). -/
def execTrest (x : HandleArgs) (s : State) : Host.Outcome State Fault Refusal :=
  issue (.trest x) x.head 0#32 (matrixBody x .trest [x.x2.toNat] (trestNames x)) s

/-! ### Products (R82 to R84, R339 to R342) -/

/-- The elements of a line of a slot as bits, dense or expanded by its masks (R328, R342). -/
def lineBits (m : List Host.Cell) (q t : Nat) (tag : SlotTag) (r : Nat) : List Nat :=
  let ty := tag.ty
  let el := fun (j : Nat) =>
    let k := slotKey q t (256 * r)
    if ty = .d4 then bitsOf (memLoad m (k + j / 2) 1) (4 * (j % 2)) 4
    else memLoad m (k + j * elemBytes ty) (elemBytes ty)
  let groups := tileDepth ty / 128
  if tag.spc = 0#2 then (List.range (tileDepth ty)).map el
  else
    let n := storedOf tag.spc.toNat
    (List.range groups).flatMap fun g =>
      let mask := memLoad m (slotKey q t (annexMasks + 16 * (groups * r + g))) 16
      (List.range 128).map fun k =>
        let rank := maskRank mask k
        if bitsOf mask k 1 = 1 ∧ rank < n then el (g * n + rank) else 0

/-- The integers of a line of D8 or D4. -/
def lineInts (ty : Ty) (bits : List Nat) : List Int := bits.map (signedOf (if ty = .d4 then 4 else 8))

/-- The exact sum of products of two lists (R340). -/
def dotInts (a b : List Int) : Int := (a.zip b).foldl (fun acc p => acc + p.1 * p.2) 0

/-- A scale of a slot (R81, R328): (256 + F) and E − 135 of its value; none when it is 0. -/
def scaleOf (m : List Host.Cell) (q t : Nat) (ty : Ty) (r g : Nat) : Option (Nat × Int) :=
  let w := memLoad m (slotKey q t (annexAt + 2 * (tileDepth ty / 128 * r + g))) 2
  if w / 256 % 256 = 0 then none else some (256 + w % 256, ((w / 256 % 256 : Nat) : Int) - 135)

/-- One group of R82 into an F32 accumulator. -/
def scaledGroup (acc : Res) (n : Int) (sa sb : Option (Nat × Int)) : Res :=
  let v := match sa, sb with
    | some a, some b => if n = 0 then Res.pure 0 else fmtF32.roundFin 0 false (decide (n < 0)) (n.natAbs * a.1 * b.1) (a.2 + b.2)
    | _, _ => Res.pure 0
  let r := fAdd fmtF32 0 false acc.val v.val
  ⟨r.val, acc.flags ||| v.flags ||| r.flags⟩

/-- Floor(Log2) of a product m·2^e, m > 0. -/
def productExp (m : Nat) (e : Int) : Int := (Nat.log2 m : Int) + e

/-- Floor(m·2^e / 2^k). -/
def truncateTo (m : Nat) (e k : Int) : Nat := if k ≤ e then m * 2 ^ (e - k).toNat else m / 2 ^ (k - e).toNat

/-- The q of a chunk of 32 products (R83, R84). -/
def chunkSum (a b : List FVal) : Res :=
  let ps := (a.zip b).map fun p => (p.1, p.2, mulVals p.1 p.2)
  let nan := ps.any fun p => p.1.isNan || p.2.1.isNan || p.2.2.isNone
  let fl := flagIf (ps.any fun p => p.1.signalling || p.2.1.signalling || p.2.2.isNone) fNvl
  let infs := ps.filterMap fun p => match p.2.2 with | some (.inf n) => some n | _ => none
  if nan then ⟨fmtF32.nanCode, fl⟩
  else if infs.contains true && infs.contains false then ⟨fmtF32.nanCode, fl ||| fNvl⟩
  else match infs with
  | n :: _ => ⟨fmtF32.infCode + (if n then fmtF32.signBit else 0), fl⟩
  | [] =>
    let fins := ps.filterMap fun p => match p.2.2 with | some (.fin n m e) => if m = 0 then none else some (n, m, e) | _ => none
    match fins with
    | [] => ⟨0, fl⟩
    | x :: xs =>
      let top := xs.foldl (fun t y => max t (productExp y.2.1 y.2.2)) (productExp x.2.1 x.2.2)
      let k := top - 40
      let s := (x :: xs).foldl (fun (acc : Int) y =>
        let v : Int := truncateTo y.2.1 y.2.2 k
        if y.1 then acc - v else acc + v) 0
      if s = 0 then ⟨0, fl⟩ else (fmtF32.roundFin 0 false (decide (s < 0)) s.natAbs k).also fl

/-- The chunks of a line, 32 elements each. -/
def chunksOf (vs : List FVal) (n : Nat) : List (List FVal) := (List.range n).map fun c => (vs.drop (32 * c)).take 32

/-- One line of a slot as the array reads it. -/
structure TileLine where
  ints   : List (List Int)            -- by group
  scales : List (Option (Nat × Int))
  floats : List (List FVal)           -- by chunk of 32
  deriving DecidableEq, Repr

/-- Read line r of a slot. -/
def tileLine (m : List Host.Cell) (q t : Nat) (tag : SlotTag) (r : Nat) : TileLine :=
  let ty := tag.ty
  let bits := lineBits m q t tag r
  let groups := tileDepth ty / 128
  if ty = .d8 ∨ ty = .d4 then
    let is := lineInts ty bits
    ⟨(List.range groups).map fun g => (is.drop (128 * g)).take 128,
     if tag.scaled then (List.range groups).map (scaleOf m q t ty r) else [], []⟩
  else ⟨[], [], chunksOf (bits.map (tyFloat ty).value) (tileDepth ty / 32)⟩

/-- One element of C after a product (R339 to R341). -/
def mmaElem (ty : Ty) (scaled : Bool) (old : Nat) (a b : TileLine) : Res :=
  if ty = .d8 ∨ ty = .d4 then
    let sums := (a.ints.zip b.ints).map fun p => dotInts p.1 p.2
    if scaled then
      (sums.zip (a.scales.zip b.scales)).foldl (fun acc p => scaledGroup acc p.1 p.2.1 p.2.2) (Res.pure old)
    else
      let n := sums.foldl (fun (x : Int) y => x + y) 0
      ⟨resWord (resOp (fun a b => a + b) (resRead old) (resOf n)), resFlags [old]⟩
  else
    (a.floats.zip b.floats).foldl (fun acc p =>
      let q := chunkSum p.1 p.2
      let r := fAdd fmtF32 0 false acc.val q.val
      ⟨r.val, acc.flags ||| q.flags ||| r.flags⟩) (Res.pure old)

/-- The weighted product count of a whole product (R340, R342). -/
def mmaCount (op : CmdOp) (a b : SlotTag) : Nat :=
  let dense := if a.ty = .d8 then 256 * tileDepth .d8 else tileDepth .d4
  if op = .tmmas then dense * storedOf b.spc.toNat / 128 else dense

/-- The key of C[i][j] (R327). -/
def accElemKey (q a i j : Nat) : Nat := accKey q a (4 * (64 * i + j))

/-- Rows 16·step to 16·step + 15 of a product (R339, R348). -/
def mmaRows (s : State) (q : Nat) (k : Cmd) (step : Nat) : State × Flags :=
  let a := k.x.x1.toNat
  let ta := (s.quad q).slot k.x.x2.toNat
  let tb := (s.quad q).slot k.x.x3.toNat
  let bs := (List.range 64).map (tileLine s.mem q k.x.x3.toNat tb)
  let rows := (List.range 16).flatMap fun r =>
    let i := 16 * step + r
    let al := tileLine s.mem q k.x.x2.toNat ta i
    bs.mapIdx fun j bl =>
      let key := accElemKey q a i j
      (key, mmaElem ta.ty ta.scaled (memLoad s.mem key 4) al bl)
  ({ s with mem := rows.foldl (fun m r => memStore m r.1 4 r.2.val) s.mem }, rows.foldl (fun f r => f ||| r.2.flags) fNone)

/-! ### The array lane (R330, R347, R348) -/

/-- The array lane runs TZERO, TMMA, TMMAS and TBURST; the move lane the others (R330). -/
def CmdOp.lane (op : CmdOp) : Option MatLane :=
  match op with
  | .tzero | .tmma | .tmmas | .tburst => some .array
  | .tdrain | .tsave | .trest => some .move
  | _ => none

/-- Sequencer steps of an array-lane command (R348). -/
def CmdOp.steps (op : CmdOp) : Nat := match op with | .tmma | .tmmas => 4 | _ => 1

/-- Array cycles of one sequencer step (R348). -/
def stepCycles (s : State) (q : Nat) (k : Cmd) : Nat :=
  match k.op with
  | .tmma | .tzero => 16
  | .tmmas => if ((s.quad q).slot k.x.x3.toNat).spc = 1#2 then 4 else 8
  | _ => 1

/-- The energy in pJ of a number of step cycles of the array at its point (R59, R349): an item has 64. -/
def State.arrayEnergy (s : State) (q cycles : Nat) : Nat :=
  (Config.arrayPoints.getD (s.unitPt (.array q)).point ⟨640, 9, 50000⟩).energy * cycles / 64
/-- Filler cycles: half the energy of step cycles (R347). -/
def State.filler (s : State) (q v cycles : Nat) : State := s.charge v (s.arrayEnergy q cycles / 2)

/-- A command may start (R330): every earlier command of its lane has started, every earlier command that names one of its units has
completed, and for the move lane every earlier move-lane command's writes are performed. TBURST acts at the head of its lane
(R347). -/
def mayStart (queue : List Cmd) (k : Cmd) : Bool :=
  let earlier := queue.takeWhile (fun q => q.id != k.id)
  let mine := unitsOf k.op k.x
  earlier.all fun q =>
    (q.op.lane != k.op.lane || (q.started && (k.op.lane != some .move || q.ended) && k.op != .tburst)) &&
      !(unitsOf q.op q.x).any mine.contains

/-- The next command of a lane that has not started. -/
def nextStart (queue : List Cmd) (lane : MatLane) : Option Cmd :=
  queue.find? fun k => k.op.lane == some lane && !k.started

/-- Array cycles in cycles of the quadrant at the points in force, rounded up (R58). -/
def State.inQuadCycles (s : State) (q n : Nat) : Nat :=
  let u := s.unitPt (.quad q)
  let quad := Config.quadClocks.getD (u.slow.getD u.point) 6
  let array := Config.arrayClocks.getD (s.unitPt (.array q)).point 9
  (n * quad + array - 1) / array

/-- The array cycles of an array that holds ready, in cycles of the quadrant (R347). -/
def State.holdCycles (s : State) (q : Nat) : Nat := s.inQuadCycles q 256

/-- Work takes up an array that holds ready (R347): the filler cycles up to now are charged to the VD of the quadrant, and no
ramp-up follows. -/
def State.takeReady (s : State) (q : Nat) : State :=
  match (s.quad q).ready with
  | none => s
  | some last =>
    let x := s.quad q
    let held := 256 - (last - x.cycle) * 256 / max (s.holdCycles q) 1
    let s := match s.ownerOf q with | some v => s.filler q v held | none => s
    s.onQuad q fun x => { x with ready := none, ran := true, warm := max x.warm (x.cycle + s.inQuadCycles q 32) }

/-- A command starts on the array lane (R347): TBURST's effect, or the first sequencer step follows. -/
def startArray (s : State) (q : Nat) (k : Cmd) : State :=
  let s := (s.takeReady q).onCmd k.id fun k => { k with started := true }
  if k.op = .tburst then
    ((s.onQuad q fun x => { x with burst := min k.a.toNat 65535 }).charge k.vd
      (s.arrayEnergy q 1)).onCmd k.id (fun k => { k with ended := true }) |>.later [.matrixCommandComplete q .array]
  else s.later [.matrixSequencerStep q]

/-- A command starts on the move lane: a TREST `.tile` sets its slot's tag (R337). -/
def startMove (s : State) (q : Nat) (k : Cmd) : State :=
  let s := s.onCmd k.id fun k => { k with started := true }
  let s := if k.op = .trest ∧ k.x.sel = 0#4 then
      s.onSlot q k.x.x1.toNat fun t => tileTag t k
    else s
  s.later [.commandChunk (.moveLane q) .none]

/-- The array has no work (R347): in an open burst it holds ready; else, where work has run since it was last idle, it runs its ramp-down, charged
to a VD, which is shorter where the burst has closed with the last step. -/
def State.arrayIdle (s : State) (q v : Nat) (closed : Bool) : State :=
  let x := s.quad q
  if 0 < x.burst then
    if x.ready.isSome then s else s.onQuad q fun x => { x with ready := some (x.cycle + s.holdCycles q), ran := false }
  else if x.ran then (s.filler q v (if closed then 8 else 32)).onQuad q fun x => { x with ran := false }
  else s
/-- No command of the array lane is queued. -/
def arrayEmpty (queue : List Cmd) : Bool := !queue.any (fun k => k.op.lane == some .array)

/-- MATRIX_COMMAND_START (R330, R347, R348, R350): nothing happens where the conditions do not hold; an array whose commands have all
left goes idle. -/
def execMatrixCommandStart (q : Nat) (lane : MatLane) (s : State) : Host.Outcome State Fault Refusal :=
  let queue := s.matQueue q
  match nextStart queue lane with
  | none => .next (match lane, s.ownerOf q with
      | .array, some v => if arrayEmpty queue then s.arrayIdle q v false else s
      | _, _ => s)
  | some k =>
    if mayStart queue k = false then .next s
    else .next (match lane with | .array => startArray s q k | .move => startMove s q k)

/-- TZERO (R338). -/
def zeroAcc (s : State) (q : Nat) (k : Cmd) : State :=
  let a := k.x.x1.toNat
  ({ s with mem := (List.range 4096).foldl (fun m i => memStore m (accKey q a (4 * i)) 4 0) s.mem }).onAcc q a fun t =>
    { t with mode := BitVec.ofNat 2 (k.x.sel.toNat + 1), cnt := 0, flags := fNone }

/-- What a sequencer step is charged (R52, R326, R347, R349): before a tile step that follows 32 idle cycles the ramp-up; with the first
step of a command the whole work item at the point then in force. -/
def State.chargeStep (s : State) (q : Nat) (k : Cmd) : State :=
  let x := s.quad q
  let s := if k.op = .tzero ∨ x.cycle < x.warm then s else s.filler q k.vd (if 0 < x.burst then 16 else 64)
  if k.step = 0 then s.charge k.vd (s.arrayEnergy q (stepCycles s q k * k.op.steps)) else s

/-- One sequencer step of a command of the array lane (R338 to R342, R348). -/
def arrayStep (s : State) (q : Nat) (k : Cmd) : State :=
  let a := k.x.x1.toNat
  let last := decide (k.op.steps ≤ k.step + 1)
  let s := s.chargeStep q k
  let r := if k.op = .tzero then (zeroAcc s q k, fNone) else mmaRows s q k k.step
  let ta := (s.quad q).slot k.x.x2.toNat
  let tb := (s.quad q).slot k.x.x3.toNat
  let counted := last && k.op != .tzero && !ta.scaled && (ta.ty == .d8 || ta.ty == .d4)
  let cnt := min (((s.quad q).acc a).cnt.toNat + mmaCount k.op ta tb) (2 ^ 32 - 1)
  let fl := r.2 ||| flagIf (counted && decide (1048571 < cnt)) fRng
  let s := r.1.onAcc q a fun t => { t with flags := t.flags ||| fl, cnt := if counted then BitVec.ofNat 32 cnt else t.cnt }
  let s := if k.op = .tzero then s
    else s.onQuad q fun x => { x with warm := x.cycle + s.inQuadCycles q 32, ran := true }
  let s := s.onCmd k.id fun k => { k with step := k.step + 1, ended := last, flags := k.flags ||| fl }
  s.later (if last then [.matrixCommandComplete q .array] else [.matrixSequencerStep q])

/-- MATRIX_SEQUENCER_STEP (R338 to R342, R348). -/
def execMatrixSequencerStep (q : Nat) (s : State) : Host.Outcome State Fault Refusal :=
  match (s.matQueue q).find? (fun k => k.op.lane == some .array && k.started && !k.ended) with
  | none => .next s
  | some k => .next (arrayStep s q k)

/-! ### The move lane (R337, R343 to R345) -/

/-- An access of a tile slot or accumulator. -/
def tileAcc (key bits nib : Nat) : EAcc := ⟨0, .tile, key, bits, nib⟩

/-- Write zeros to n bytes of a slot. -/
def zeroItem (key n : Nat) : Item := ⟨[], [tileAcc key (8 * n) 0], fun _ => .ok ([0], fNone)⟩

/-- The place of element j of a line of a slot. -/
def lineAcc (q t : Nat) (ty : Ty) (r j : Nat) : EAcc :=
  let k := slotKey q t (256 * r)
  if ty = .d4 then tileAcc (k + j / 2) 4 (j % 2) else tileAcc (k + j * elemBytes ty) (elemBits ty) 0

/-- The load of group g of line r of a slot (R337). -/
def tileGroupItems (q t : Nat) (h : Desc) (off : Int) (r g : Nat) : List Item :=
  let ty := h.ty
  let groups := tileDepth ty / 128
  let inside := decide (r < h.extent 1) && decide (128 * g < h.extent 0)
  let n := h.stored
  let maskKey := slotKey q t (annexMasks + 16 * (groups * r + g))
  let zero := fun (dst : EAcc) => (⟨[], [dst], fun _ => .ok ([0], fNone)⟩ : Item)
  let els :=
    if h.spc = 0 then (List.range 128).map fun j =>
      let k := 128 * g + j
      if inside && decide (k < h.extent 0) then moveItem (h.elemAcc off [k, r]) (lineAcc q t ty r k) else zero (lineAcc q t ty r k)
    else
      (if inside then
        ⟨[h.maskAcc [g, r]], [tileAcc maskKey 128 0], fun vs => if maskCount (vs.getD 0 0) = n then .ok (vs, fNone) else .error 6⟩
       else ⟨[], [tileAcc maskKey 128 0], fun _ => .ok ([2 ^ n - 1], fNone)⟩) ::
      (List.range n).map fun j =>
        if inside then moveItem (h.elemAcc off [g * n + j, r]) (lineAcc q t ty r (g * n + j)) else zero (lineAcc q t ty r (g * n + j))
  let scaleKey := slotKey q t (annexAt + 2 * (groups * r + g))
  let scale : List Item :=
    if h.sgd = 0 then
      [if inside then moveItem (h.scaleAcc [128 * g, r]) (tileAcc scaleKey 16 0)
       else ⟨[], [tileAcc scaleKey 16 0], fun _ => .ok ([0], fNone)⟩]
    else []
  els ++ scale

/-- The load of line r of a slot (R328, R337): its groups, then zeros in the rest of the line. -/
def tileLineItems (q t : Nat) (h : Desc) (off : Int) (r : Nat) : List Item :=
  let groups := tileDepth h.ty / 128
  let used := groups * h.stored * elemBits h.ty / 8
  (List.range groups).flatMap (tileGroupItems q t h off r) ++
    (if used < 256 then [zeroItem (slotKey q t (256 * r + used)) (256 - used)] else [])

/-- Zeros in the annex bytes that hold neither a scale nor a mask (R328). -/
def annexItems (q t : Nat) (h : Desc) : List Item :=
  let groups := tileDepth h.ty / 128
  let scales := if h.sgd = 0 then 2 * groups * 64 else 0
  let masks := if h.spc = 0 then 0 else 16 * groups * 64
  [zeroItem (slotKey q t (annexAt + scales)) (0x1000 - scales)] ++
    (if masks < 0x1000 then [zeroItem (slotKey q t (annexMasks + masks)) (0x1000 - masks)] else [])

/-- The header of an image (R344). -/
def imageHeader (q : Quad) (u : MUnit) : Nat :=
  match u with
  | .slot t =>
    let x := q.slot t
    1 * 2 ^ 56 + x.fmt.toNat * 2 ^ 50 + x.spc.toNat * 2 ^ 48 + (if x.scaled then 2 ^ 47 else 0) + (if x.valid then 2 ^ 46 else 0)
  | .acc a =>
    let x := q.acc a
    2 * 2 ^ 56 + x.mode.toNat * 2 ^ 32 + x.cnt.toNat + x.flags.toNat * 2 ^ 64

/-- The image fails (R345). -/
def imageFails (u : MUnit) (hd : Nat) : Bool :=
  let kind := bitsOf hd 56 8
  let spc := bitsOf hd 48 2
  let scaled := bitsOf hd 47 1
  let ty := Ty.ofCode (BitVec.ofNat 6 (bitsOf hd 50 6))
  let slotOk := match ty with
    | some t => slotFormats.contains t && spc != 3 && !(scaled == 1 && !(t == .d8 || t == .d4))
    | none => false
  decide (kind ≠ (match u with | .slot _ => 1 | .acc _ => 2)) || decide (bitsOf hd 34 12 ≠ 0) || decide (bitsOf hd 71 441 ≠ 0) ||
    decide (bitsOf hd 32 2 = 3) || (decide (bitsOf hd 46 1 = 1) && !slotOk)

/-- The key of byte n of a unit's data. -/
def unitKey (q : Nat) (u : MUnit) (n : Nat) : Nat := match u with | .slot t => slotKey q t n | .acc a => accKey q a n

/-- The accesses of the 64 bytes of an image from byte n on, each with the first of the bytes that it holds (R283, R344): one; under BC0, one
for each byte, all at one address. -/
def imageAccs (h : Desc) (off : Int) (n : Nat) : List (EAcc × Nat) :=
  if h.bc0 then (List.range 64).map fun i => (h.elemAcc off [n + i], i) else [({ h.elemAcc off [n] with bits := 512 }, 0)]
/-- The accesses of the same bytes, the n-th 64 after the header, of a unit's data at a key. -/
def imageMoves (h : Desc) (off : Int) (key : Nat → Nat) (n : Nat) (load : Bool) : List Item :=
  (imageAccs h off (64 * n)).map fun p =>
    let t := tileAcc (key (64 * (n - 1) + p.2)) p.1.bits 0
    if load then moveItem p.1 t else moveItem t p.1

/-- The 64-byte parts of an image in a chunk of 4 KiB, the header apart (R343, R344). -/
def imageChunk (u : MUnit) (step : Nat) : List Nat :=
  let n := imageBytes (match u with | .slot _ => true | .acc _ => false) / 64
  (List.range 64).filterMap fun i => if 64 * step + i < n ∧ 64 * step + i ≠ 0 then some (64 * step + i) else none

/-- Chunks of an image. -/
def imageChunks (u : MUnit) : Nat := (imageBytes (match u with | .slot _ => true | .acc _ => false) + 4095) / 4096

/-- One element of TDRAIN (R343). -/
def drainElem (mode : Nat) (t : Ty) (rnd : Nat) (sat : Bool) (w : Nat) : Res :=
  if mode = 1 then (if t = .f32 then Res.pure w else convert .f32 t rnd sat w)
  else if t = .res28 then Res.pure w else rcvtLane t .res28 rnd w

/-- The items of a chunk of a move-lane command, and whether it is the last (R337, R343, R344). -/
def moveItems (s : State) (q : Nat) (k : Cmd) : List Item × Bool :=
  let h := descAt (k.handles.map Handle.desc) 0
  let off := offsetOf k.a
  let u := (unitsOf k.op k.x).getD 0 (.slot 0)
  match k.op with
  | .trest =>
    if k.x.sel = 0#4 then
      let t := k.x.x1.toNat
      let last := decide (3 ≤ k.step)
      ((List.range 16).flatMap (fun r => tileLineItems q t h off (16 * k.step + r)) ++ (if last then annexItems q t h else []), last)
    else
      ((imageChunk u k.step).flatMap fun n => imageMoves h off (unitKey q u) n true, decide (imageChunks u ≤ k.step + 1))
  | .tsave =>
    let hd := imageHeader (s.quad q) u
    let header : List Item := (imageAccs h off 0).map fun p => ⟨[], [p.1], fun _ => .ok ([hd / 2 ^ (8 * p.2)], fNone)⟩
    ((if k.step = 0 then header else []) ++ (imageChunk u k.step).flatMap (fun n => imageMoves h off (unitKey q u) n false),
     decide (imageChunks u ≤ k.step + 1))
  | _ =>
    let a := k.x.x2.toNat
    let mode := ((s.quad q).acc a).mode.toNat
    let c := k.chunk
    (c.1.map fun n =>
      let i := unravel h.dims n
      ⟨[tileAcc (accElemKey q a (i.getD 1 0) (i.getD 0 0)) 32 0], [h.elemAcc off i], fun vs =>
        let r := drainElem mode h.ty k.x.rnd.toNat k.x.sat (vs.getD 0 0)
        .ok ([r.val], r.flags)⟩, c.2)

/-- A unit after a failed image: VALID 0 or MODE EMPTY (R345). -/
def emptyUnit (s : State) (q : Nat) (u : MUnit) : State :=
  match u with
  | .slot t => s.onSlot q t fun x => { x with valid := false }
  | .acc a => s.onAcc q a fun x => { x with mode := 0 }
/-- A unit's tag and counters from an image's header (R345). -/
def loadTag (s : State) (q : Nat) (u : MUnit) (hd : Nat) : State :=
  match u with
  | .slot t => s.onSlot q t fun x => { x with valid := decide (bitsOf hd 46 1 = 1), fmt := BitVec.ofNat 6 (bitsOf hd 50 6),
                                              spc := BitVec.ofNat 2 (bitsOf hd 48 2), scaled := decide (bitsOf hd 47 1 = 1) }
  | .acc a => s.onAcc q a fun x => { x with mode := BitVec.ofNat 2 (bitsOf hd 32 2), cnt := BitVec.ofNat 32 (bitsOf hd 0 32),
                                            flags := BitVec.ofNat 7 (bitsOf hd 64 7) }

/-- The unit of an image. -/
def Cmd.imageUnit (k : Cmd) : MUnit := (unitsOf k.op k.x).getD 0 (.slot 0)

/-- The header of a TREST `.slot` or `.acc`, read before its first chunk (R345): none where the command reads no header; else its 64 bytes with
where they lie, or how the read fails. -/
def readHeader (s : State) (e : Env) (k : Cmd) : Option (Except (VErr × EAcc) (Nat × List Spot)) :=
  if k.op = .trest ∧ k.x.sel ≠ 0#4 ∧ k.step = 0 then
    let accs := imageAccs (descAt (k.handles.map Handle.desc) 0) (offsetOf k.a) 0
    some (match placeAccs s e false (accs.map (·.1)) with
      | .error x => .error x
      | .ok ps => .ok ((accs.zip ps).foldl (fun n q => n + q.1.1.read s.mem q.2.2.key * 2 ^ (8 * q.1.2)) 0, ps.map (·.2)))
  else none

/-- The weight of a matrix command that ends with STATUS 0 (R336). -/
def matWeight (k : Cmd) : Nat :=
  match k.op with
  | .trest =>
    let h := descAt (k.handles.map Handle.desc) 0
    if k.x.sel = 0#4 then prodOf h.dims * elemBits h.ty / 8 else imageBytes (decide (k.x.sel = 1#4))
  | .tsave => imageBytes (decide (k.x.sel = 0#4))
  | .tdrain => let h := descAt (k.handles.map Handle.desc) 0; prodOf h.dims * elemBits h.ty / 8
  | _ => 1

/-- The flags of a matrix command's completion word (R335): TDRAIN's include the accumulator's. -/
def matFlags (s : State) (q : Nat) (k : Cmd) : Flags :=
  if k.op = .tdrain then k.flags ||| ((s.quad q).acc k.x.x2.toNat).flags else k.flags

/-- What follows the end of a command: the other starts and a TSTAT that waits (R330). -/
def matrixWork (q : Nat) : List Instr := CmdPlace.next (.matrix q)

/-- The array after a command of its lane has completed (R347): a product lowers the burst counter; when no array work is
left the array holds ready in an open burst, or runs its ramp-down. -/
def afterArray (s : State) (q : Nat) (k : Cmd) : State :=
  let x := s.quad q
  let product := k.op == .tmma || k.op == .tmmas
  let s := s.onQuad q fun x => { x with burst := if product then x.burst - 1 else x.burst }
  if arrayEmpty (s.matQueue q) then s.arrayIdle q k.vd (product && decide (0 < x.burst)) else s

/-- MATRIX_COMMAND_COMPLETE (R335, R336, R347, R350). -/
def execMatrixCommandComplete (q : Nat) (lane : MatLane) (s : State) : Host.Outcome State Fault Refusal :=
  match (s.matQueue q).find? (fun k => k.op.lane == some lane && k.ended) with
  | none => .next s
  | some k =>
    let s := endCmd s k (matWeight k) (matFlags s q k)
    .next ((if lane = .array then afterArray s q k else s).later (matrixWork q))

/-- The word of TSTAT (R346). -/
def tstatWord (s : State) (q : Nat) (k : Cmd) : Nat :=
  let x := s.quad q
  if k.x.sel = 0#4 then
    let a := x.acc k.x.x1.toNat
    a.mode.toNat * 2 ^ 30 + a.flags.toNat * 2 ^ 23 + min a.cnt.toNat 0x7FFFFF
  else if k.x.sel = 1#4 then
    let t := x.slot k.x.x1.toNat
    (if t.valid then 2 ^ 31 else 0) + t.fmt.toNat * 2 ^ 25 + t.spc.toNat * 2 ^ 23 + (if t.scaled then 2 ^ 22 else 0)
  else (s.unitPt (.array q)).point * 2 ^ 30 + (s.matQueue q).length * 2 ^ 25 + x.burst

/-- TSTAT_RESULT (R330, R346, R426): the TSTAT at the head of the queue; its word is written 8 cycles later. -/
def execTstatResult (q : Nat) (s : State) : Host.Outcome State Fault Refusal :=
  match s.matQueue q with
  | [] => .next s
  | k :: _ =>
    if k.op ≠ .tstat then .next s
    else
      let w := tstatWord s q k
      let s := { s with cmds := s.cmds.filter (fun c => c.id != k.id) }
      .next ((s.onGang k.gid fun g => g.setResultAt k.seq w (s.cycleOf g.quad + 8)).later (matrixWork q))

/-- BURST_HOLD_EXPIRY (R347): the burst closes; 256 cycles of holding ready, then 8 filler cycles, charged to the resident
VD. -/
def execBurstHoldExpiry (q : Nat) (s : State) : Host.Outcome State Fault Refusal :=
  let x := s.quad q
  if x.ready.isSome then
    let s := match s.ownerOf q with | some v => s.filler q v 264 | none => s
    .next (s.onQuad q fun x => { x with burst := 0, ready := none })
  else .next s

end Sys2Proof.Machine
end

