-- ==== Sys2Proof/Machine/Engine.lean ====
section
/-!
DEFINITION. The steps of the engines: a command starts, performs a chunk, ends (R290 to R296, R309 to R317, R337, R343 to
R345).
-/
namespace Sys2Proof.Machine
open Sys2Proof

/-- The queue of an engine, in the order of arrival (R290). -/
def State.engineQueue (s : State) (e : EngineId) : List Cmd := s.cmds.filter fun k => k.place == .engine e && !k.kept

/-- The command that an engine runs, or the first that is no collective and that no collective of its own team keeps from its turn
(R290, R312). DESIGN CHOICE (log 29): a COLL that waits for its participants does not hold the commands of other teams, which those
participants may need. -/
def State.engineNext (s : State) (e : EngineId) : Option Cmd :=
  let q := (s.engineQueue e).filter fun k => k.op != .coll
  match q.find? (·.started) with
  | some k => some k
  | none => q.find? fun k => !behindColl s.cmds k

/-- The collectives of an engine's queue look whether they may complete (R318). -/
def State.collWork (s : State) (e : EngineId) : List Instr :=
  (s.engineQueue e).filterMap fun k => if k.ended then none else k.coll.map fun no => .collInstanceComplete no [] .none

/-- ENGINE_COMMAND_START (R290, R312): the next command starts once the command before it has ended; a COLL waits for the
others. -/
def execEngineCommandStart (e : EngineId) (s : State) : Host.Outcome State Fault Refusal :=
  let s := s.later (s.collWork e)
  match s.engineNext e with
  | none => .next s
  | some k =>
    if k.started then .next s
    else .next ((s.onCmd k.id fun k => { k with started := true }).later [.commandChunk e .none])

/-- The path of a command (R91). -/
def CmdOp.path (op : CmdOp) : Nat :=
  match op with
  | .acopy | .afill => 1
  | .nest | .nestr | .nestq => 3
  | .bankop | .bankred | .cres | .coll => 4
  | .bcopy => 5
  | _ => 2

/-- The energy in pJ of the work that a chunk has done (R59, R296): stager items of 4 bytes and block-engine items of 64 bytes of the
destination, elements of the nest sequencer; a bank's operations are charged as they are performed. -/
def chunkEnergy (s : State) (e : EngineId) (k : Cmd) (r : ChunkEnd) : Nat :=
  let bits := match k.handles with | h :: _ => elemBits h.desc.ty | [] => 0
  let els := (r.writes.filter fun w => w.1.bits == bits).length
  let bytes := (els * bits + 7) / 8
  match e with
  | .stager u => (Config.stagerPoints.getD (s.unitPt (.stager u)).point ⟨8, 1, 500⟩).energy * ((bytes + 3) / 4)
  | .block b => (Config.blockPoints.getD (s.unitPt (.block b)).point ⟨16, 1, 6000⟩).energy * ((bytes + 63) / 64)
  | .nest _ => Config.nestEnergy * els
  | _ => 0

/-- What a chunk leaves of its command: held until a walk completes or a granule commits, ended with a STATUS, or on to the
next chunk. Data that came poisoned from a far tier or a fleet are a memory event (R393). -/
def afterChunk (s : State) (e : EngineId) (k : Cmd) (r : ChunkEnd) (last : Bool) (ended : List Instr) : State :=
  match r.hold with
  | some .replay => s.onCmd k.id fun k => { k with walking := true, booked := false }
  | some _ => (s.onCmd k.id fun k => { k with booked := false }).retry (.commandChunk e .none)
  | none =>
    let stop := last || decide (r.status ≠ 0)
    let s := match r.poison with | some a => s.logDevice 5 a.addr | none => s
    let s := s.onCmd k.id fun k => { k with step := k.step + 1, ended := stop, flags := k.flags ||| r.flags,
                                             status := r.status, errAddr := r.addr, errNo := r.no, booked := false }
    s.later (if stop then ended else [.commandChunk e .none])

/-- The requests of a chunk come before its effect; one that is held sends none. -/
def State.awaitChunk (s : State) (k : Cmd) (r : ChunkEnd) (again : Instr) : Option State :=
  if r.hold.isSome then none else s.awaitChunks [(k, r)] again

/-- A chunk of a command of a stager, a block engine, a nest sequencer or a common-store sequencer (R293, R312). -/
def engineChunk (s : State) (e : EngineId) (out : Outside) (k : Cmd) : State :=
  let banks := decide (k.op.path = 4)
  match s.envOf k k.op.path banks out with
  | none => s
  | some env =>
    if s.bankOps.any (fun o => o.cmd == k.id) then s.retry (.commandChunk e out)
    else
      let c := k.chunk
      let r := runChunk s env (if banks then k.bankItems c.1 else k.items s env c.1)
      match s.awaitChunk k r (.commandChunk e out) with
      | some t => t
      | none =>
        let s := if banks then queueBankOps s k r else { s with mem := r.apply s.mem }
        afterChunk (s.charge k.vd (chunkEnergy s e k r)) e k r c.2 [.commandComplete e]

/-- A unit after the header of its image (R345): empty where the image fails, else with its tag and counters. -/
def State.takeHeader (s : State) (q : Nat) (k : Cmd) (hd : Nat) : State :=
  if imageFails k.imageUnit hd then emptyUnit s q k.imageUnit else loadTag s q k.imageUnit hd

/-- What a chunk of a command of a move lane comes to, behind the header of its image where it reads one (R337, R343 to R345): STATUS 7
is IMAGE. -/
def moveEnd (s : State) (env : Env) (k : Cmd) (header : Option (Except (VErr × EAcc) (Nat × List Spot)))
    (items : List Item) : ChunkEnd :=
  match header with
  | none => runChunk s env items
  | some (.error (v, a)) => ChunkEnd.start.failed v a
  | some (.ok (hd, spots)) =>
    let a := (descAt (k.handles.map Handle.desc) 0).elemAcc (offsetOf k.a) [0]
    if imageFails k.imageUnit hd then { ChunkEnd.start with reads := spots, status := 7, addr := a.addr, no := a.no }
    else let r := runChunk s env items; { r with reads := spots ++ r.reads }

/-- A chunk of a command of a move lane (R337, R343 to R345). -/
def moveChunk (s : State) (q : Nat) (out : Outside) (k : Cmd) : State :=
  let e := EngineId.moveLane q
  match s.envOf k 2 false out with
  | none => s
  | some env =>
    let header := readHeader s env k
    let c := moveItems s q k
    let r := moveEnd s env k header c.1
    match s.awaitChunk k r (.commandChunk e out) with
    | some t => t
    | none =>
      let s := match header with
        | some (.ok (hd, _)) => if r.hold.isSome then s else s.takeHeader q k hd
        | _ => s
      afterChunk { s with mem := r.apply s.mem } e k r c.2 [.matrixCommandComplete q .move]

/-- COMMAND_CHUNK (R293): the command that runs on the engine performs its next chunk. -/
def execCommandChunk (e : EngineId) (out : Outside) (s : State) : Host.Outcome State Fault Refusal :=
  match e with
  | .moveLane q =>
    match (s.matQueue q).find? (fun k => k.op.lane == some .move && k.started && !k.ended && !k.walking) with
    | some k => .next (moveChunk s q out k)
    | none => .next s
  | _ =>
    match s.engineNext e with
    | some k => if k.started && !k.ended && !k.walking then .next (engineChunk s e out k) else .next s
    | none => .next s

/-- COMMAND_COMPLETE (R292, R294, R316): a command that has ended and whose writes are performed leaves its queue, its word
returns, it arrives at or breaks its joint, and the next one may start. -/
def execCommandComplete (e : EngineId) (s : State) : Host.Outcome State Fault Refusal :=
  match (s.engineQueue e).find? (·.ended) with
  | none => .next s
  | some k =>
    if s.bankOps.any (fun o => o.cmd == k.id) then .next (s.retry (.commandComplete e))
    else .next ((endCmd s k k.weight k.flags).later [.engineCommandStart e])

end Sys2Proof.Machine
end

