-- ==== Sys2Proof/Machine/Queue.lean ====
section
/-!
DEFINITION. The host queues (R353 to R357): the queue control block, its reload and its errors, and the examination of a
ring, which puts the step of the next packet on the agenda.
-/
namespace Sys2Proof.Machine
open Sys2Proof

/-! ### The shadow (R353, R355) -/

/-- A field of bytes 0x40 to 0x43 of the shadow. -/
def Queue.priv (x : Queue) (lo len : Nat) : Nat := bitsOf x.shadow.toNat lo len
/-- EN. -/
def Queue.en (x : Queue) : Bool := decide (x.priv 31 1 = 1)
/-- RATEOK. -/
def Queue.rateok (x : Queue) : Bool := decide (x.priv 30 1 = 1)
/-- CLASS. -/
def Queue.cls (x : Queue) : Nat := x.priv 28 2
/-- VD. -/
def Queue.vd (x : Queue) : Nat := x.priv 22 6
/-- IQID. -/
def Queue.iqid (x : Queue) : Nat := x.priv 12 10
/-- CTX. -/
def Queue.ctx (x : Queue) : Nat := x.priv 0 12

/-- A field of the queue control block in memory (log 8). -/
def State.qcbLoad (s : State) (x : Queue) (off n : Nat) : Nat := s.devLoad (keyOf .device (x.qcb + off)) n
/-- Write a field of the queue control block (R353: with system-scope stores; R389: class 6). -/
def State.qcbStore (s : State) (x : Queue) (off n v : Nat) : State := s.post (dispatcherFor noCtx) (x.qcb + off) n v

/-- ECODE (R355). -/
inductive QErr where
  | badType | tamper | overrun | noPerm | pktFault | badPkt | disabled
  deriving DecidableEq, Repr
/-- Its code. -/
def QErr.code : QErr → Nat
  | .badType => 1 | .tamper => 2 | .overrun => 3 | .noPerm => 4 | .pktFault => 5 | .badPkt => 6 | .disabled => 7

/-- The queue goes to ERROR (R355). -/
def State.queueError (s : State) (q : Nat) (e : QErr) : State :=
  match s.queue? q with
  | none => s
  | some x => (s.onQueue q fun x => { x with state := 2, ecode := e.code }).qcbStore x 0x14 4 (e.code * 2 ^ 24 + 2)

/-- Reload the queue control block (R355): RING, LOG2N, STATE; a difference between its privileged bytes and the shadow
is QCB_TAMPER. -/
def State.reloadQueue (s : State) (q : Nat) : State :=
  match s.queue? q with
  | none => s
  | some x =>
    if s.qcbLoad x 0x40 64 ≠ x.shadow.toNat then s.queueError q .tamper
    else s.onQueue q fun x => { x with
      ring := bitsOf (s.qcbLoad x 0 8) 0 56, log2n := bitsOf (s.qcbLoad x 8 4) 0 5, started := 0
      state := bitsOf (s.qcbLoad x 0x14 4) 0 2, ecode := bitsOf (s.qcbLoad x 0x14 4) 24 8 }

/-- A queue that State does not list: where its block lies and what the hypervisor has written into its shadow are free values
(log 8, log 17). -/
def Queue.unlisted (q : Nat) : Queue :=
  { q := q, qcb := Config.qcbPlace q, shadow := Config.queueShadow q, ring := 0, log2n := 4, head := 0, tail := 0, state := 0,
    ecode := 0, dlmiss := 0, started := 0, packets := [], wait := none }
/-- Queue q of the 1,024 (R354). -/
def State.queueAt (s : State) (q : Nat) : Option Queue :=
  match s.queue? q with
  | some x => some x
  | none => if q < 1024 then some (.unlisted q) else none
/-- A queue that is notified is listed from then on. -/
def State.listQueue (s : State) (q : Nat) : State :=
  if (s.queue? q).isNone ∧ q < 1024 then { s with queues := s.queues ++ [.unlisted q] } else s

/-! ### The ring (R354, R356) -/

/-- The context descriptor a queue works in. -/
def State.queueDesc (s : State) (x : Queue) : Option ContextDesc := (s.context? x.ctx).map (·.desc)

/-- The packet at HEAD, read through the queue's context. -/
def State.headPacket (s : State) (x : Queue) : Except VErr (BitVec 512) :=
  match s.queueDesc x with
  | none => .error .fault
  | some d => match s.vload d 5 (x.ring + 64 * (x.head % 2 ^ x.log2n)) 64 with
    | .error e => .error e.1
    | .ok v => .ok (BitVec.ofNat 512 v)

/-- Bits of a packet from a byte on (R356). -/
def pk (p : BitVec 512) (byte lo len : Nat) : Nat := bitsOf p.toNat (8 * byte + lo) len
/-- TYPE. -/
def pkType (p : BitVec 512) : Nat := pk p 0 0 8
/-- BARRIER. -/
def pkBarrier (p : BitVec 512) : Bool := decide (pk p 0 8 1 = 1)
/-- VEC when IRQ is set. -/
def pkIrq (p : BitVec 512) : Option Nat := if pk p 0 9 1 = 1 then some (pk p 0 24 8) else none

/-- The step of a packet by its TYPE (R356). -/
def packetStep (q type : Nat) : Option Instr :=
  match type with
  | 1 => some (.launchPacket q) | 2 => some (.poolPacket q) | 3 => some (.copyPacket q) | 4 => some (.signalPacket q)
  | 5 => some (.waitPacket q) | 6 => some (.ratePacket q) | 7 => some (.markPacket q) | _ => none

/-- The packet starts only after every earlier one has completed: BARRIER, and SIGNAL, RATE and MARK (R356, R357). -/
def pkWaits (p : BitVec 512) : Bool := pkBarrier p || pkType p == 4 || pkType p == 6 || pkType p == 7

/-- The queue may start a packet now: it runs, no WAIT holds it, and its ring is not empty. -/
def Queue.open_ (x : Queue) : Bool := decide (x.state = 1) && x.wait.isNone && decide (x.head ≠ x.tail)

/-- Examine the ring (R354, R357): the step of the packet at HEAD follows, unless it must wait for an earlier one; a
packet that cannot be read or has no type is an error, and a replayable fault is tried again. -/
def State.examine (s : State) (q : Nat) : State :=
  match s.queue? q with
  | none => s
  | some x =>
    if x.open_ = false then s
    else match s.headPacket x with
      | .error .replay => s.retry (.waitPoll q)
      | .error _ => s.queueError q .pktFault
      | .ok p =>
        match packetStep q (pkType p) with
        | none => s.queueError q .badType
        | some i => if pkWaits p && !x.packets.isEmpty then s else s.later [i]

/-- The requests by which the dispatcher reads the packet at HEAD (R389). -/
def State.packetReads (s : State) (q : Nat) : List Req :=
  match s.queue? q with
  | none => []
  | some x => match s.queueDesc x with
    | none => []
    | some d => s.vreadReqs (dispatcherFor x.ctx) d 5 (x.ring + 64 * (x.head % 2 ^ x.log2n)) 64

/-- The packet at HEAD, when it has this type and may start now. -/
def State.startable (s : State) (q type : Nat) : Option (Queue × BitVec 512) :=
  match s.queue? q with
  | none => none
  | some x =>
    if x.open_ = false then none
    else match s.headPacket x with
      | .ok p => if pkType p = type && !(pkWaits p && !x.packets.isEmpty) then some (x, p) else none
      | .error _ => none

/-- Raise a vector of a VD (R356). -/
def State.raise (s : State) (vd : Nat) (irq : Option Nat) : State :=
  match irq with
  | some v => s.tell (.vector vd v)
  | none => s

/-- A packet has started: HEAD moves on, in memory too, and after every 256 packets the block is reloaded (R355). -/
def State.advanceHead (s : State) (x : Queue) : State :=
  let h := (x.head + 1) % 2 ^ 32
  let s := (s.onQueue x.q fun x => { x with head := h, started := x.started + 1 }).qcbStore x 0x0C 4 h
  if x.started + 1 = 256 then s.reloadQueue x.q else s

/-- A packet that is done as soon as it has started (R357). -/
def State.packetDone (s : State) (x : Queue) (p : BitVec 512) : State :=
  ((s.advanceHead x).raise x.vd (pkIrq p)).examine x.q

/-- A packet that has started and whose work goes on (R357). -/
def State.packetStarted (s : State) (x : Queue) (p : BitVec 512) : State :=
  ((s.onQueue x.q fun y => { y with packets := y.packets ++ [⟨x.head, p⟩] }).advanceHead x).examine x.q

/-- A started packet has completed (R357): its vector is raised, and the ring is examined for a packet that waited. -/
def State.packetComplete (s : State) (q index : Nat) : State :=
  match s.queue? q with
  | none => s
  | some x =>
    match x.packets.find? (fun p => p.index == index) with
    | none => s
    | some p =>
      ((s.onQueue q fun y => { y with packets := y.packets.filter (fun p => p.index != index) }).raise x.vd (pkIrq p.bits)).examine q

/-! ### Notifies (R354, R372) -/

/-- A notify of physical queue q (R354, R355): TAIL, the reload, and OVERRUN in whatever state the queue is, unless the reload finds
it tampered with. -/
def State.notify (s : State) (q tail : Nat) : State :=
  let s := s.listQueue q
  match s.queue? q with
  | none => s
  | some x =>
    let s := (s.onQueue q fun x => { x with tail := tail }).qcbStore x 0x10 4 tail
    let reloads := x.packets.isEmpty && x.wait.isNone
    if reloads && decide (s.qcbLoad x 0x40 64 ≠ x.shadow.toNat) then s.reloadQueue q
    else
      let s := if reloads then s.reloadQueue q else s
      match s.queue? q with
      | none => s
      | some y =>
        if y.state = 1 ∧ y.en = false then s.queueError q .disabled
        else if 2 ^ y.log2n < (tail + 2 ^ 32 - y.head) % 2 ^ 32 then s.queueError q .overrun
        else s.examine q

/-- QUEUE_NOTIFY (R354). -/
def execQueueNotify (q : Nat) (value : Word) (s : State) : Host.Outcome State Fault Refusal := .next (s.notify q value.toNat)

/-- A guest notify is discarded (R372). -/
def State.discardNotify (s : State) (vd : Nat) : State := s.onVd vd fun v => { v with qmiss := v.qmiss + 1 }

/-- The queue a guest notify reaches (R372): through the guest queue table of the VD, which lies in the address space of
the first of its contexts (log 11), and the host queue table. -/
def State.guestQueue (s : State) (vd gq : Nat) : Option Nat :=
  match s.vd? vd, s.contexts.find? (fun c => c.desc.vd == vd && !c.ended) with
  | some v, some c =>
    match s.vload c.desc 5 (v.gqt.toNat + 2 * gq) 2 with
    | .error _ => none
    | .ok e =>
      let iqid := bitsOf e 0 10
      let h := ((s.hqt.find? (fun x => x.1 == iqid)).map (·.2.toNat)).getD 0
      match s.queueAt (bitsOf h 0 10) with
      | none => none
      | some x =>
        if bitsOf e 15 1 = 1 ∧ bitsOf h 31 1 = 1 ∧ bitsOf h 22 6 = vd ∧ x.vd = vd ∧ x.iqid = iqid then some x.q else none
  | _, _ => none

/-- The requests by which the entry of a guest queue is read (R389). -/
def State.guestReads (s : State) (vd gq : Nat) : List Req :=
  match s.vd? vd, s.contexts.find? (fun c => c.desc.vd == vd && !c.ended) with
  | some v, some c => s.vreadReqs (dispatcherFor c.id) c.desc 5 (v.gqt.toNat + 2 * gq) 2
  | _, _ => []

/-- GUEST_NOTIFY (R372). -/
def execGuestNotify (vd gq : Nat) (value : Word) (s : State) : Host.Outcome State Fault Refusal :=
  .next (s.await (.guestNotify vd gq value) 0 (s.guestReads vd gq) fun s =>
    match s.guestQueue vd gq with
    | some q => s.notify q value.toNat
    | none => s.discardNotify vd)

/-! ### Packets without a grid (R357) -/

/-- A reserved part of a packet other than LAUNCH and POOL is not zero (R355): the header's bits beyond the flags the type
uses, and the bytes from `last` on. -/
def pkReserved (p : BitVec 512) (flags last : Nat) : Bool :=
  decide (pk p 0 16 8 ≠ 0) || decide (pk p 0 32 32 ≠ 0) || decide (pk p 0 10 6 &&& (63 - flags) ≠ 0)
    || decide (pk p last 0 (512 - 8 * last) ≠ 0)

/-- The request of a SIGNAL, with release (R357): a store of VALUE, or an atomic add of it. -/
def signalReqs (s : State) (x : Queue) (d : ContextDesc) (p : BitVec 512) : Except VErr (List Req) :=
  let addr := pk p 8 0 64
  let add := decide (pk p 0 10 1 = 1)
  match s.target d 5 true addr, (if add then s.target d 5 false addr else s.target d 5 true addr) with
  | .error e, _ | _, .error e => .error e
  | .ok pl, .ok _ =>
    .ok [s.unitReq (dispatcherFor x.ctx) (if add then .atomic 0 false else .store) .u64 pl.space pl.own pl.addr
      [⟨0, keyOf pl.space pl.addr, pk p 0x10 0 64, 0⟩] true]

/-- A packet whose effect is stores sends them and is done when they are performed; a page that faults is PKTFAULT (R355). -/
def State.storePacket (s : State) (again : Instr) (x : Queue) (p : BitVec 512) (rs : Except VErr (List Req)) : State :=
  if (s.waitOf again 1).isSome then s.await again 1 [] fun s => s.packetDone x p
  else match rs with
    | .error .replay => s.holdAt again 0
    | .error _ => s.queueError x.q .pktFault
    | .ok rs => s.await again 1 rs fun s => s.packetDone x p

/-- What a packet does once the dispatcher has read it (R389): the packet at HEAD, where it has this type and may start. -/
def State.onPacket (s : State) (again : Instr) (q type : Nat) (act : State → Queue → BitVec 512 → State) : State :=
  s.await again 0 (if (s.startable q type).isSome then s.packetReads q else []) fun s =>
    match s.startable q type with
    | none => s.forget again
    | some (x, p) => act s x p

/-- SIGNAL_PACKET (R357): a store of VALUE, or an atomic add. -/
def execSignalPacket (q : Nat) (s : State) : Host.Outcome State Fault Refusal :=
  .next (s.onPacket (.signalPacket q) q 4 fun s x p =>
    if pkReserved p 1 0x18 || decide (pk p 8 0 64 % 8 ≠ 0) then s.queueError q .badPkt
    else match s.queueDesc x with
      | none => s.queueError q .pktFault
      | some d => s.storePacket (.signalPacket q) x p (signalReqs s x d p))

/-- The condition of a WAIT on a value read (R357). -/
def pkHolds (p : BitVec 512) (v : Nat) : Bool :=
  match pk p 0 10 2 with
  | 0 => decide (v = pk p 0x10 0 64)
  | 1 => decide (pk p 0x10 0 64 ≤ v)
  | _ => decide (v ≠ pk p 0x10 0 64)

/-- The word of a WAIT has been read: the queue goes on once its condition holds (R357). -/
def State.pollWait (s : State) (x : Queue) (w : Packet) : State :=
  match s.queueDesc x with
  | none => s.queueError x.q .pktFault
  | some d =>
    match s.vload d 5 (pk w.bits 8 0 64) 8 with
    | .error (.replay, _) => s
    | .error _ => (s.onQueue x.q fun y => { y with wait := none }).queueError x.q .pktFault
    | .ok v =>
      if pkHolds w.bits v then ((s.onQueue x.q fun y => { y with wait := none }).raise x.vd (pkIrq w.bits)).examine x.q else s

/-- The requests by which the word of a WAIT is read. -/
def State.waitReads (s : State) (x : Queue) (w : Packet) : List Req :=
  match s.queueDesc x with
  | none => []
  | some d => s.vreadReqs (dispatcherFor x.ctx) d 5 (pk w.bits 8 0 64) 8

/-- WAIT_PACKET (R357): later packets start once the condition holds. -/
def execWaitPacket (q : Nat) (s : State) : Host.Outcome State Fault Refusal :=
  .next (s.onPacket (.waitPacket q) q 5 fun s x p =>
    if pkReserved p 3 0x18 || decide (pk p 8 0 64 % 8 ≠ 0) || decide (pk p 0 10 2 = 3) then s.queueError q .badPkt
    else ((s.advanceHead x).onQueue q fun y => { y with wait := some ⟨x.head, p⟩ }).later [.waitPoll q])

/-- WAIT_POLL (R355, R357): the word is read, with its start and then once per microsecond, of a queue that has stopped too: a WAIT that
has started runs to completion. A queue that no WAIT holds looks at its ring again. -/
def execWaitPoll (q : Nat) (s : State) : Host.Outcome State Fault Refusal :=
  match s.queue? q with
  | none => .next s
  | some x => match x.wait with
    | some w => .next (s.await (.waitPoll q) 0 (s.waitReads x w) fun s =>
        match (s.queue? q).bind (·.wait) with | some w => s.pollWait x w | none => s)
    | none => .next ((s.forget (.waitPoll q)).examine q)

/-- RATE_PACKET (R46, R357): CTXRLIM of the context. DESIGN CHOICE (log 31): the word in the descriptor in memory, which each restore
reads again (R373), is written with the device's copy. -/
def execRatePacket (q : Nat) (s : State) : Host.Outcome State Fault Refusal :=
  .next (s.onPacket (.ratePacket q) q 6 fun s x p =>
    if x.rateok = false then s.queueError q .noPerm
    else if pkReserved p 0 0x10 || decide (pk p 8 32 24 ≠ 0) then s.queueError q .badPkt
    else
      let s := s.onContext x.ctx fun c => { c with desc := { c.desc with rlim := BitVec.ofNat 64 (pk p 8 0 64) } }
      let s := match s.context? x.ctx with
        | some c => s.post (dispatcherFor noCtx) (c.where_ + 0x38) 8 (pk p 8 0 64)
        | none => s
      s.packetDone x p)

/-- The 16 bytes of a MARK (R357). -/
def markBits (s : State) (index : Nat) : Nat := s.ns.toNat + s.sec.toNat * 2 ^ 32 + index % 2 ^ 32 * 2 ^ 96

/-- MARK_PACKET (R357). -/
def execMarkPacket (q : Nat) (s : State) : Host.Outcome State Fault Refusal :=
  .next (s.onPacket (.markPacket q) q 7 fun s x p =>
    let addr := pk p 8 0 64
    if pkReserved p 0 0x10 || decide (addr % 16 ≠ 0) then s.queueError q .badPkt
    else match s.queueDesc x with
      | none => s.queueError q .pktFault
      | some d => s.storePacket (.markPacket q) x p
          ((s.vstoreReqs (dispatcherFor x.ctx) true d 5 addr 16 (markBits s x.head)).mapError (·.1)))

/-- COPY_PACKET (R357): the copy starts. -/
def execCopyPacket (q : Nat) (s : State) : Host.Outcome State Fault Refusal :=
  .next (s.onPacket (.copyPacket q) q 3 fun s x p =>
    if pkReserved p 0 0x20 || decide (pk p 0x18 0 64 % 64 ≠ 0) then s.queueError q .badPkt
    else (s.packetStarted x p).later [.copyPacketComplete q x.head])

/-- The block engine that copies for a queue; DESIGN CHOICE (log 31): the spec does not say which. -/
def blockOfQueue (q : Nat) : Nat := q % 16

/-- The source of a COPY's accesses: its block engine, with the class and the stamp of the queue's class (R389, R391). -/
def copySource (x : Queue) : Source :=
  ⟨1152 + blockOfQueue x.q, 2 * x.cls, match x.cls with | 0 => 0 | 1 => 32 | 2 => 128 | _ => 512, x.ctx, noTeam⟩

/-- Send the stores that copy n bytes from `src` to `dst` through a context, in chunks of 16 KiB (R293, R357), each of which reads what those
before it have written; with the first failure, behind the chunks before it. The fuel counts chunks. -/
def State.copyBytes (s : State) (u : Source) (d : ContextDesc) (src dst : Nat) : (fuel n : Nat) → State × Option VErr
  | 0, _ => (s, none)
  | fuel + 1, n =>
    let k := min n 16384
    if k = 0 then (s, none)
    else match s.vload d 5 src k with
      | .error e => (s, some e.1)
      | .ok v => match s.vstore u false d 5 dst k v with
        | .error e => (s, some e.1)
        | .ok s => s.copyBytes u d (src + k) (dst + k) fuel (n - k)

/-- The requests by which a COPY reads its source, in parts of 16 KiB. -/
def State.copyReads (s : State) (u : Source) (d : ContextDesc) (src n : Nat) : List Req :=
  (List.range ((n + 16383) / 16384)).flatMap fun i => s.vreadReqs u d 5 (src + 16384 * i) (min (n - 16384 * i) 16384)

/-- The energy of a COPY in pJ (R52, R59): a work item of the block engine for each 64 bytes. -/
def State.copyEnergy (s : State) (x : Queue) (n : Nat) : Nat :=
  (Config.blockPoints.getD (s.unitPt (.block (blockOfQueue x.q))).point ⟨16, 1, 6000⟩).energy * (n / 64)

/-- The stores of a COPY whose source has been read leave (R293, R357): nothing where a walk holds one of them; a page that faults is
PKTFAULT (R355). -/
def State.copyStores (s : State) (again : Instr) (x : Queue) (d : ContextDesc) (index src dst n : Nat) : State :=
  match s.copyBytes (copySource x) d src dst (n / 16384 + 1) n with
  | (_, some .replay) => s.holdAt again 0
  | (t, some _) => (t.packetComplete x.q index).queueError x.q .pktFault
  | (t, none) => s.awaitSince (t.chargeCtx x.ctx (s.copyEnergy x n)) again 1

/-- COPY_PACKET_COMPLETE (R357): the bytes are copied, and with the last store performed the packet completes. -/
def execCopyPacketComplete (q index : Nat) (s : State) : Host.Outcome State Fault Refusal :=
  let again := Instr.copyPacketComplete q index
  match s.queue? q with
  | none => .next s
  | some x =>
    match x.packets.find? (fun p => p.index == index && pkType p.bits == 3), s.queueDesc x with
    | some p, some d =>
      if (s.waitOf again 1).isSome then .next (s.await again 1 [] fun s => s.packetComplete q index)
      else
        let src := pk p.bits 8 0 64
        let n := pk p.bits 0x18 0 64
        .next (s.await again 0 (s.copyReads (copySource x) d src n) fun s => s.copyStores again x d index src (pk p.bits 0x10 0 64) n)
    | _, _ => .next (s.forget again)

end Sys2Proof.Machine
end

