-- ==== Sys2Proof/Machine/Placement.lean ====
section
/-!
DEFINITION. Residency (R370), the placement of teams (R22, R23, R206), the forming of a team and its gangs (R24, R128, R252,
R264), the retirement of a team (R32), the completion of a grid and of a pool (R359, R363).
-/
namespace Sys2Proof.Machine
open Sys2Proof

/-! ### Residency (R370, R371) -/

/-- The VD is resident in the quadrant: it alone owns it and no other VD was resident last, or it is the resident one of its
sharers (R370, R371, R376); from the end of a stay to the end of the rinse none is. -/
def State.resident (s : State) (v q : Nat) : Bool :=
  let x := s.quad q
  s.hasQuad v q && x.leaving.isNone && !x.rinsing &&
    (match s.sharers q with
     | [_] => x.vd == some v || x.vd.isNone
     | _ => x.vd == some v)

/-- A VD that alone owns a quadrant in which none was resident is resident there from now on (R370). -/
def State.claimQuads (s : State) : State :=
  { s with quads := s.quads.mapIdx fun q x =>
      match s.sharers q with
      | [v] => if x.vd.isNone && x.leaving.isNone && x.incoming.isNone && !x.rinsing then
          { x with vd := some v, stay := s.uc.toNat } else x
      | _ => x }

/-- The quadrants of a VD, ascending. -/
def State.quadsOf (s : State) (v : Nat) : List Nat := (List.range s.variant.quads).filter (s.hasQuad v)

/-! ### Room (R22, R23) -/

/-- What one quadrant has free: gang slots, G-lines and the blocks of its scratch section. -/
structure Free where
  quad   : Nat
  slots  : Nat
  lines  : Nat
  blocks : Nat
  deriving DecidableEq, Repr

/-- The gang holds its slot and its lines: until it is FREE or STOWED (R22, R379). -/
def Gang.holds_ (g : Gang) : Bool := match g.life with | .stowed => false | _ => true

/-- The block of a section is in use. -/
def State.blockUsed (s : State) (b : Block) : Bool := s.teams.any fun t => t.blocks.contains b

/-- The free blocks of a section, ascending. -/
def State.freeBlocks (s : State) (core sec : Nat) : List Nat :=
  (List.range Config.sectionBlocks).filter fun b => !s.blockUsed ⟨core, sec, b⟩

/-- What a quadrant has free now. -/
def State.freeOf (s : State) (q : Nat) : Free :=
  let gs := s.gangs.filter fun g => g.quad == q && g.holds_
  ⟨q, Config.gangSlots - gs.length, Config.gLines - (gs.map (·.gmax)).foldl (· + ·) 0, (s.freeBlocks (q / 4) (q % 4)).length⟩
/-- What a quadrant has free when it is empty. -/
def emptyFree (q : Nat) : Free := ⟨q, Config.gangSlots, Config.gLines, Config.sectionBlocks⟩

/-- The room of a VD: its resident quadrants. -/
def State.room (s : State) (v : Nat) : List Free := ((s.quadsOf v).filter (s.resident v)).map s.freeOf
/-- The room of a VD whose quadrants are all empty (R24, R26). -/
def State.emptyRoom (s : State) (v : Nat) : List Free := (s.quadsOf v).map emptyFree

/-- What a team asks for (R22): its gangs, the G budget, the scratch bytes rounded up. -/
structure Demand where
  t       : Nat
  gmax    : Nat
  scratch : Nat
  deriving DecidableEq, Repr

/-- The demand of a grid's teams. -/
def Grid.demand (x : Grid) : Demand := ⟨x.size, x.kernel.gmax, scratchSize x.kernel⟩

/-- Gangs of a team at place p and quadrant k of its C cores (R23). -/
def gangsAt (t c p k : Nat) : Nat := if 4 * p + k < t then (t - (4 * p + k) + 4 * c - 1) / (4 * c) else 0
/-- Blocks a team takes on each of its C cores (R206). -/
def blocksPer (scratch c : Nat) : Nat := (scratch + 4096 * c - 1) / (4096 * c)

/-- The entry of a quadrant in a room. -/
def roomOf (room : List Free) (q : Nat) : Option Free := room.find? fun f => f.quad == q

/-- The team fits on these cores (R23). -/
def fitsOn (room : List Free) (d : Demand) (cores : List Nat) : Bool :=
  let c := cores.length
  (cores.mapIdx fun p core => (p, core)).all fun pc =>
    (List.range 4).all (fun k =>
      let n := gangsAt d.t c pc.1 k
      decide (n = 0) || (match roomOf room (4 * pc.2 + k) with
        | some f => decide (n ≤ f.slots) && decide (n * d.gmax ≤ f.lines)
        | none => false)) &&
    decide (blocksPer d.scratch c ≤ ((room.filter fun f => f.quad / 4 == pc.2).map (·.blocks)).foldl (· + ·) 0)

/-- The sets of C of the four core positions of a bay, in lexicographic order (R23). -/
def coreSets : Nat → List (List Nat)
  | 1 => [[0], [1], [2], [3]]
  | 2 => [[0, 1], [0, 2], [0, 3], [1, 2], [1, 3], [2, 3]]
  | _ => [[0, 1, 2, 3]]

/-- The placements R23 considers, in its order: the smallest C, the lowest bay, the first set of positions. -/
def placements (bays : Nat) : List (List Nat) :=
  [1, 2, 4].flatMap fun c => (List.range bays).flatMap fun b => (coreSets c).map fun ps => ps.map (4 * b + ·)

/-- The first placement that fits and passes a further test (R23, R382). -/
def State.place (s : State) (room : List Free) (d : Demand) (accept : List Nat → Bool) : Option (List Nat) :=
  (placements s.variant.bays).find? fun cores => fitsOn room d cores && accept cores

/-- The quadrant of gang g on these cores (R23). -/
def quadFor (cores : List Nat) (g : Nat) : Nat := 4 * cores.getD ((g / 4) % max cores.length 1) 0 + g % 4

/-- What is left of a room after a team has been placed: blocks of a core are counted off section by section. -/
def takeRoom (room : List Free) (d : Demand) (cores : List Nat) : List Free :=
  let c := cores.length
  (cores.mapIdx fun p core => (p, core)).foldl (fun room pc =>
    (List.range 4).foldl (fun (acc : List Free × Nat) k =>
      let n := gangsAt d.t c pc.1 k
      let take := match roomOf acc.1 (4 * pc.2 + k) with | some f => min f.blocks acc.2 | none => 0
      (acc.1.map fun f => if f.quad = 4 * pc.2 + k then
        { f with slots := f.slots - n, lines := f.lines - n * d.gmax, blocks := f.blocks - take } else f, acc.2 - take))
      (room, blocksPer d.scratch c) |>.1) room

/-- Placements of n teams one after the other in one room (R26). -/
def State.placeMany (s : State) (d : Demand) : (n : Nat) → List Free → Option (List (List Nat))
  | 0, _ => some []
  | n + 1, room => match s.place room d (fun _ => true) with
    | none => none
    | some cores => (s.placeMany d n (takeRoom room d cores)).map (cores :: ·)

/-! ### Blocks (R206) -/

/-- Blocks of one core, taken round-robin from its sections: `free` lists them with what is free; `last` is the section
of the block before. -/
def takeBlocks (core : Nat) : (n : Nat) → (last : Nat) → List (Nat × List Nat) → List Block
  | 0, _, _ => []
  | n + 1, last, free =>
    let able := (free.filter fun f => !f.2.isEmpty).map (·.1)
    match (able.filter (fun x => decide (last < x))).head?, able.head? with
    | some sec, _ | none, some sec =>
      match (free.find? (fun f => f.1 == sec)).bind (·.2.head?) with
      | some b => ⟨core, sec, b⟩ :: takeBlocks core n sec (free.map fun f => if f.1 = sec then (f.1, f.2.drop 1) else f)
      | none => []
    | none, none => []

/-- The blocks a team of a VD takes on its cores (R206). Block 0 comes from the lowest section: `last` starts above all. -/
def State.blocksFor (s : State) (v scratch : Nat) (cores : List Nat) : List Block :=
  cores.flatMap fun core =>
    takeBlocks core (blocksPer scratch cores.length) 4
      (((List.range 4).filter (fun k => s.resident v (4 * core + k))).map fun k => (k, s.freeBlocks core k))

/-! ### Forming a team (R22, R24, R128, R252) -/

/-- A lane at an address. -/
def laneAt (pc : DWord) (live : Bool) : LaneState := ⟨pc, 0, false, 0, live⟩

/-- The lowest free gang slot of a quadrant. -/
def State.freeSlot (s : State) (q : Nat) : Nat :=
  ((List.range Config.gangSlots).find? fun n => !s.gangs.any fun g => g.quad == q && g.holds_ && g.slot == n).getD 0

/-- A gang as it is admitted (R28, R128, R230, R264; log 6 for the registers that the spec gives no value). -/
def freshGang (gid team gidx quad slot cycle : Nat) (k : Kernel) (lanes : List LaneState) (regs : List Reg) : Gang :=
  { gid := gid, team := team, gidx := gidx, quad := quad, slot := slot, life := .ready, lanes := lanes, serial := false,
    gmax := k.gmax, regs := regs, preds := List.replicate 7 0#32, kregs := List.replicate 8 (List.replicate 32 0#16),
    mods := List.replicate 8 ⟨0#64, 0#32, 0#32⟩, latch := [none, none, none], status := 0#7, clears := [], cause := 0#64,
    epc := 0#64, tval := 0#64, tmask := 0#32, hnd := false, shadow := ⟨List.replicate 32 (laneAt 0#64 false), false⟩,
    ck := checkSeed, override := none, results := [], nextIssue := cycle, lastIssue := 0, issued := 0, holds := [],
    marker := false, preempt := false, preempted := false, fromRestore := false, frame := 0#64, moff := 0, entry := 0, stopped := false,
    withdrawn := none, admitted := cycle, lastRate := 0#32, formed := none }

/-- Put gangs number `gidx` to the last in place. -/
def State.addGangs (s : State) (team : Nat) (k : Kernel) (cores : List Nat) (lanes : List LaneState) (regs : List Reg) :
    (n gidx : Nat) → State
  | 0, _ => s
  | n + 1, gidx =>
    let q := quadFor cores gidx
    let g := freshGang s.nextId team gidx q (s.freeSlot q) (s.cycleOf q) k lanes regs
    ({ s with gangs := s.gangs ++ [g], nextId := s.nextId + 1 }).addGangs team k cores lanes regs n (gidx + 1)

/-- Write a team's parameter bytes (R359). -/
def State.writeParams (s : State) (t : Team) (bs : List Byte) : State :=
  (bs.mapIdx fun i b => (i, b)).foldl (fun s p => s.store (t.scratchKey p.1) 1 p.2.toNat) s

/-- Admit a team of a grid on cores (R24): everything is reserved and its gangs are READY. -/
def State.formTeam (s : State) (x : Grid) (index : Nat) (cores : List Nat) (lanes : List LaneState) (regs : List Reg) : State :=
  let size := if x.own.isSome then 1 else x.size
  let t : Team := { id := s.nextId, grid := x.id, index := index, size := size, cores := cores,
                    blocks := s.blocksFor x.vd (scratchSize x.kernel) cores,
                    joints := List.replicate x.kernel.joints Joint.idle, race := [], stowed := false, area := 0, overflow := 0,
                    preempt := false, admitted := s.nextId, colls := [], records := [], late := [] }
  let s := { s with teams := s.teams ++ [t], nextId := s.nextId + 1 }
  (s.addGangs t.id x.kernel cores lanes regs size 0).writeParams t x.param

/-- The lanes and registers of a team by coordinates: 32 live lanes at the entry; registers that hold 0 (log 6). -/
def plainLanes (k : Kernel) : List LaneState := List.replicate 32 (laneAt k.entry true)
/-- The registers at admission (log 6). -/
def plainRegs (k : Kernel) : List Reg := List.replicate k.regs ⟨.u 0#32, none⟩

/-! ### Baskets (R34, R249, R364) -/

/-- PC of a continuation record (R249). -/
def recPc (bits : BitVec 512) : Nat := bitsOf bits.toNat 0 56
/-- NW of a continuation record. -/
def recWords (bits : BitVec 512) : Nat := bitsOf bits.toNat 56 4
/-- WORDi of a continuation record. -/
def recWord (bits : BitVec 512) (i : Nat) : Word := BitVec.ofNat 32 (bitsOf bits.toNat (64 + 32 * i) 32)

/-- The lanes of a gang formed from records: lane ℓ takes record ℓ, the others have exited (R34). -/
def basketLanes (rs : List PoolRec) : List LaneState :=
  (List.range 32).map fun l => match rs[l]? with
    | some r => laneAt (BitVec.ofNat 64 (recPc r.bits)) true
    | none => laneAt 0#64 false
/-- Its registers: WORDi in v(2 + i), pressed; every other holds 0 (R364). -/
def basketRegs (k : Kernel) (rs : List PoolRec) : List Reg :=
  (List.range k.regs).map fun n => ⟨press (LaneVec.of fun l => match rs[l]? with
    | some r => if 2 ≤ n ∧ n < 2 + recWords r.bits then recWord r.bits (n - 2) else 0#32
    | none => 0#32), none⟩

/-- The basket of a continuation address (R364). -/
def basketOf (pc : Nat) : Nat := (pc / 4 / 3) % 64

/-- Change a pool. -/
def State.onPool (s : State) (vd id : Nat) (f : Pool → Pool) : State :=
  { s with pools := s.pools.map fun p => if p.vd = vd ∧ p.id = id then f p else p }
/-- An open pool. -/
def State.pool? (s : State) (vd id : Nat) : Option Pool := s.pools.find? fun p => p.vd == vd && p.id == id

/-- Records of a pool that take a place in its buffer: in a basket, or formed and not admitted. -/
def Pool.records (p : Pool) : List PoolRec := p.baskets.flatMap (·.2) ++ p.formed.flatten

/-- The n lowest free places of a pool's buffer, which its next records take. -/
def Pool.freePlaces (p : Pool) (n : Nat) : List Nat :=
  ((List.range (p.records.length + n)).filter fun i => !p.records.any fun r => r.slot == i).take n

/-- Insert a basket by number. -/
def putBasket (n : Nat) (rs : List PoolRec) : List (Nat × List PoolRec) → List (Nat × List PoolRec)
  | [] => if rs.isEmpty then [] else [(n, rs)]
  | b :: bs =>
    if n < b.1 then (if rs.isEmpty then b :: bs else (n, rs) :: b :: bs)
    else if n = b.1 then (if rs.isEmpty then bs else (n, rs) :: bs)
    else b :: putBasket n rs bs
/-- The records of a basket. -/
def Pool.basket (p : Pool) (n : Nat) : List PoolRec := ((p.baskets.find? fun b => b.1 == n).map (·.2)).getD []

/-- A record arrives (R364): its basket forms a gang when it reaches 32. -/
def Pool.add (p : Pool) (r : PoolRec) : Pool :=
  let n := basketOf (recPc r.bits)
  let rs := p.basket n ++ [r]
  if 32 ≤ rs.length then { p with baskets := putBasket n (rs.drop 32) p.baskets, formed := p.formed ++ [rs.take 32] }
  else { p with baskets := putBasket n rs p.baskets }

/-- A basket forms a gang of what it holds (R364). -/
def Pool.flush (p : Pool) (n : Nat) : Pool :=
  if (p.basket n).isEmpty then p
  else { p with baskets := putBasket n [] p.baskets, formed := p.formed ++ [p.basket n] }

/-- Some gang of the pool is resident or waits (R363, R364). -/
def State.poolBusy (s : State) (p : Pool) : Bool := !p.formed.isEmpty || s.teams.any fun t => t.grid == p.grid

/-! ### Completion (R32, R359, R360, R363) -/

/-- The completion record (R359). -/
def completionRecord (status seq : Nat) : Nat := 2 ^ 63 + status * 2 ^ 56 + seq % 2 ^ 26

/-- The store of a completion record, with release (R359), or the failure in the error log where there is no area or it cannot be
written (R360); none while a replayable fault holds it. -/
def State.putRecord (s : State) (ctx carea status seq : Nat) : Option (State × List Req) :=
  let log := fun (s : State) => if status = 0 then s else s.logError ctx 1 status 0 carea 0
  match s.context? ctx with
  | none => some (s, [])
  | some c =>
    if carea = 0 then some (log s, [])
    else match s.vstoreReqs (dispatcherFor ctx) true c.desc 5 carea 8 (completionRecord status seq) with
      | .ok rs => some (s, rs)
      | .error (.replay, _) => none
      | .error _ => some (s.logError ctx 1 (if status = 0 then 11 else status) 0 carea 0, [])

/-- The deadline has passed (R359). -/
def State.pastDeadline (s : State) (deadline : Nat) : Bool :=
  let now := (s.timeNs / 64) % 2 ^ 32
  let d := (now + 2 ^ 32 - deadline % 2 ^ 32) % 2 ^ 32
  decide (1 ≤ d ∧ d ≤ 2 ^ 31 - 1)

/-- Count a missed deadline in the queue of a grid (R353, R359). -/
def State.countMiss (s : State) (x : Grid) : State :=
  match x.queue with
  | some (q, _) =>
    if x.own.isNone && s.pastDeadline x.deadline then
      let s := s.onQueue q fun y => { y with dlmiss := y.dlmiss + 1 }
      match s.queue? q with
      | some y => s.qcbStore y 0x18 4 y.dlmiss.toNat
      | none => s
    else s
  | none => s

/-- Change the child of a VD with a SEQ. -/
def State.onChild (s : State) (vd seq : Nat) (f : Child → Child) : State :=
  s.onVd vd fun v => { v with children := v.children.map fun c => if c.seq = seq then f c else c }

/-- The grid has no team left, admits none and has set the bits of those it had: it completes (R32, R359). -/
def State.gridDone (s : State) (x : Grid) : Bool :=
  !(s.teams.any fun t => t.grid == x.id) && x.bits.isEmpty &&
    (match x.own with
     | some id => match s.pool? x.vd id with
       | some p => decide (p.nfeed ≤ p.fed) && p.records.isEmpty
       | none => true
     | none => decide (x.x * x.y * x.z ≤ x.next))

/-- Flush the baskets of the pools whose feeders have all completed and that have no gang (R364). -/
def State.settlePools (s : State) : State :=
  let due := s.pools.filter fun p => decide (p.nfeed ≤ p.fed) && !s.poolBusy p && !p.baskets.isEmpty
  if due.isEmpty then s
  else (due.foldl (fun s p => s.onPool p.vd p.id fun p => p.baskets.foldl (fun p b => p.flush b.1) p) s).later [.admissionStep]

/-- A grid whose record is written completes (R359, R363, R365, R368): vector, DLMISS, the child's state and, where it admitted no team,
its place in the quota, the pool it fed or was, its packet. -/
def State.closeGrid (s : State) (x : Grid) : State :=
  let status := x.failed.getD 0
  let s := (if x.queue.isNone then s.raise x.vd x.irq else s).countMiss x
  let s := if x.child then s.onChild x.vd x.seq fun c => { c with state := if status = 0 then 2 else 3, status := status } else s
  let s := if x.child && !x.began then s.onVd x.vd fun v => { v with dlc := v.dlc - 1 } else s
  let s := if x.pool = 0 then s else s.onPool x.vd x.pool fun p => { p with fed := p.fed + 1 }
  let s := match x.own with
    | some id => { s with pools := s.pools.filter fun p => !(p.vd == x.vd && p.id == id) }
    | none => s
  let s := { s with grids := s.grids.filter (fun y => y.id != x.id), colls := s.colls.filter fun c => c.grid != x.id }
  let s := match x.queue with
    | some (q, i) => s.packetComplete q i
    | none => s
  s.settlePools.later [.admissionStep]

/-- The completion record of a grid that is done leaves (R359); a walk holds it. -/
def State.sendRecord (s : State) (x : Grid) : State :=
  match s.putRecord x.ctx x.carea (x.failed.getD 0) x.seq with
  | none => s.retry .admissionStep
  | some (s, rs) => ((s.send rs).onGrid x.id fun x => { x with record := some ((s.numbered rs).map (·.id)) }).retry .admissionStep

/-- A grid that is done completes: its record leaves, and with the record written everything else follows (R359). -/
def State.completeGrid (s : State) (x : Grid) : State :=
  match x.record with
  | none => s.sendRecord x
  | some ids => if s.reqs.any (fun r => ids.contains r.id) then s.retry .admissionStep else s.closeGrid x

/-- Complete every grid that is done. -/
def State.completeGrids (s : State) : State :=
  s.grids.foldl (fun s x => match s.grid? x.id with | some x => if s.gridDone x then s.completeGrid x else s | none => s) s

/-- The store that sets a team's bit in its grid's completion bitmap (R32, R359), with release; a fatal fault goes to the error log, a
replayable one holds it (none). -/
def State.setBit (s : State) (x : Grid) (index : Nat) : Option State :=
  match s.context? x.ctx with
  | none => some s
  | some c =>
    if x.carea = 0 ∨ x.own.isSome then some s
    else
      let a := x.carea + 8 + index / 8
      match s.vload c.desc 5 a 1 with
      | .error (.replay, _) => none
      | .error e => some (s.logError x.ctx 1 11 0 e.2 0)
      | .ok v => match s.vstore (dispatcherFor x.ctx) true c.desc 5 a 1 (v ||| 2 ^ (index % 8)) with
        | .error (.replay, _) => none
        | .error e => some (s.logError x.ctx 1 11 0 e.2 0)
        | .ok s => some s

/-- Set the bits of a grid's retired teams in their order (R32); those that a replayable fault holds stay. -/
def State.setBits (s : State) (x : Grid) : State :=
  x.bits.foldl (fun s b => match s.setBit x b.1 with
    | some s => s.onGrid x.id fun x => { x with bits := x.bits.filter fun c => c != b }
    | none => s) s

/-- A bit that the retirement of a gang's team is to set waits. -/
def State.bitWaits (s : State) (gid : Nat) : Bool := s.grids.any fun x => x.bits.any fun b => b.2 == gid

/-- The bits that wait are set, and grids may complete (R32). -/
def State.flushBits (s : State) (gid : Nat) : State :=
  let s := s.grids.foldl State.setBits s
  let s := if s.bitWaits gid then s.retry (.gangFree gid) else s
  s.settlePools.completeGrids.later [.admissionStep]

/-- A team without a gang retires in the cycle its last gang is FREE (R25, R32): its scratch and joints are free, it leaves its
crew; its bit is set after that, and its grid may complete. -/
def State.retireTeam (s : State) (t : Team) (gid : Nat) : State :=
  let s := { s with teams := s.teams.filter fun u => u.id != t.id }
  match s.grid? t.grid with
  | none => s
  | some x =>
    let s := s.onGrid x.id fun x => { x with retired := x.retired + 1, bits := x.bits ++ [(t.index, gid)] }
    (if x.child then s.onChild x.vd x.seq fun c => { c with retired := c.retired + 1 } else s).flushBits gid

/-! ### GANG_FREE (R28, R31) -/

/-- Every store, atomic and asynchronous copy the gang issued is acknowledged (R28, R427). -/
def State.quiet (s : State) (gid : Nat) : Bool :=
  !(s.reqs.any fun r => r.gid == gid && r.kind.writes) && !(s.cmds.any fun c => c.gid == gid)

/-- The tile slots and accumulators of a gang are free again (R329). -/
def State.releaseTiles (s : State) (g : Gang) : State :=
  s.onQuad g.quad fun q => { q with
    slots := q.slots.map fun t => if t.holder = some g.slot then { t with holder := none } else t
    accs := q.accs.map fun t => if t.holder = some g.slot then { t with holder := none } else t }

/-- What follows when a quadrant loses a gang: a rinse that waits for it, admission, the end of a pre-emption. -/
def State.gangLeft (s : State) (g : Gang) : State :=
  s.later ([.rinseStart g.quad, .admissionStep] ++
    (match s.team? g.team with | some t => if t.preempt then [.engineStop t.id] else [] | none => []))

/-- GANG_FREE (R28, R31, R32): a DRAINING gang with nothing outstanding is FREE, and its team retires with its last gang. A gang
that is FREE may have left a bit to set. -/
def execGangFree (gid : Nat) (s : State) : Host.Outcome State Fault Refusal :=
  match s.gang? gid with
  | none => .next (if s.bitWaits gid then s.flushBits gid else s)
  | some g =>
    if g.life ≠ .draining ∨ s.quiet gid = false then .next s
    else
      let s1 := (s.releaseTiles g)
      let s1 := { s1 with gangs := s1.gangs.filter fun h => h.gid != gid }
      match s1.team? g.team with
      | none => .next (s1.gangLeft g)
      | some t =>
        .next ((if s1.gangs.any (fun h => h.team == t.id) then s1 else s1.retireTeam t gid).gangLeft g)

end Sys2Proof.Machine
end

