-- ==== Sys2Proof/Machine/Launch.lean ====
section
/-!
DEFINITION. Launches: the checks of R360 in their order, the creation of a grid and of a pool (R357 to R359, R362, R363),
the LAUNCH, LSTAT and DEFER instructions (R248, R249, R364 to R368), the flush of a basket.
-/
namespace Sys2Proof.Machine
open Sys2Proof

/-! ### Launch packets (R358) -/

/-- Class codes (R353). -/
def Cls.code : Cls → Nat
  | .dl => 0 | .hi => 1 | .lo => 2 | .bg => 3
/-- The class of a code. -/
def Cls.ofCode (n : Nat) : Cls := match n with | 0 => .dl | 1 => .hi | 2 => .lo | _ => .bg

/-- The fields of a launch (R358). -/
structure Launch where
  fleet    : Nat
  cls      : Nat
  span     : Nat
  coloc    : Bool
  kdesc    : Nat
  x        : Nat
  y        : Nat
  z        : Nat
  t        : Nat
  deadline : Nat
  cpool    : Nat
  plen     : Nat
  dmap     : Nat
  carea    : Nat
  param    : List Byte
  deriving DecidableEq, Repr

/-- Read a launch (R358). -/
def launchOf (p : BitVec 512) : Launch :=
  { fleet := pk p 0 32 32, cls := pk p 0 14 2, span := pk p 0 11 3, coloc := decide (pk p 0 10 1 = 1), kdesc := pk p 8 0 56,
    x := pk p 0x10 0 16, y := pk p 0x10 16 16, z := pk p 0x14 0 16, t := pk p 0x14 16 10, deadline := pk p 0x18 0 32,
    cpool := pk p 0x1C 16 16, plen := pk p 0x1C 0 5, dmap := pk p 0x20 0 56, carea := pk p 0x28 0 56,
    param := (List.range (min (pk p 0x1C 0 5) 16)).map fun i => BitVec.ofNat 8 (pk p (0x30 + i) 0 8) }

/-- A reserved field of a launch is not zero (R356, R358). -/
def launchReserved (p : BitVec 512) : Bool :=
  decide (pk p 0 16 8 ≠ 0) || decide (pk p 0x14 26 6 ≠ 0) || decide (pk p 0x1C 5 11 ≠ 0) || decide (pk p 8 56 8 ≠ 0)
    || decide (pk p 0x20 56 8 ≠ 0) || decide (pk p 0x28 56 8 ≠ 0)

/-- The limits of R21 are broken: GRIDSIZE. -/
def Launch.sizeBad (l : Launch) : Bool :=
  decide (l.x = 0) || decide (l.y = 0) || decide (l.z = 0) || decide (16777216 < l.x * l.y * l.z) || decide (l.t = 0)

/-- A kernel descriptor (R124). -/
def kernelOf (v : Nat) : Kernel :=
  let f := fun (byte lo len : Nat) => bitsOf v (8 * byte + lo) len
  { entry := BitVec.ofNat 64 (f 0 0 64), trapv := BitVec.ofNat 64 (f 8 0 64), rcen := decide (f 0x10 28 1 = 1), rcj := f 0x10 23 5,
    joints := f 0x10 18 5, gmax := f 0x10 9 9, regs := f 0x10 0 9, teammax := f 0x14 0 10, scratch := f 0x18 0 32 }

/-- A kernel descriptor breaks a condition of R125 for teams of t gangs: KDESC. -/
def kernelBad (v t : Nat) : Bool :=
  let k := kernelOf v
  decide (k.regs = 0 ∨ 256 < k.regs) || decide (k.gmax % 8 ≠ 0 ∨ k.regs < k.gmax) || decide (24 < k.joints)
    || (k.rcen && decide (k.joints ≤ k.rcj)) || decide (k.teammax = 0 ∨ 512 < k.teammax) || decide (2 ^ 22 < k.scratch)
    || decide (k.entry.toNat % 4 ≠ 0 ∨ k.trapv.toNat % 4 ≠ 0)
    || decide (bitsOf v (8 * 0x10 + 29) 3 ≠ 0) || decide (bitsOf v (8 * 0x14 + 10) 22 ≠ 0) || decide (bitsOf v (8 * 0x1C) 32 ≠ 0)
    || decide (k.teammax < t)

/-- The kernel of a grid whose descriptor is not read yet (R367). -/
def noKernel : Kernel := ⟨0#64, 0#64, false, 0, 0, 0, 0, 0, 0⟩

/-! ### Dependence maps (R362) -/

/-- One dimension of a dependence map: a, w, b and the producer's extent. -/
structure DepDim where
  a   : Nat
  w   : Nat
  b   : Int
  ext : Nat
  deriving DecidableEq, Repr

/-- A dependence map: PAREA and its three dimensions. -/
structure DepMap where
  parea : Nat
  dims  : List DepDim
  deriving DecidableEq, Repr

/-- Read a dependence map (R362). -/
def depMapOf (v : Nat) : DepMap :=
  let f := fun (byte lo len : Nat) => bitsOf v (8 * byte + lo) len
  ⟨f 0 0 56, (List.range 3).map fun d => ⟨f (0x10 + 4 * d) 24 8, f (0x10 + 4 * d) 16 8, signedOf 16 (f (0x10 + 4 * d) 0 16), f 8 (16 * d) 16⟩⟩

/-- DEPEND (R362): a W of 0, a reserved field, a producer extent of 0. -/
def depMapBad (v : Nat) : Bool :=
  (depMapOf v).dims.any (fun d => decide (d.w = 0 ∨ d.ext = 0)) || decide (bitsOf v 56 8 ≠ 0) || decide (bitsOf v (64 + 48) 16 ≠ 0)
    || decide (bitsOf v (8 * 0x1C) 32 ≠ 0)

/-- The producer coordinates a consumer coordinate needs in a dimension (R362). -/
def DepDim.needs (d : DepDim) (c : Nat) : List Nat :=
  let first : Int := ((d.a * c : Nat) : Int) + d.b
  (List.range d.w).filterMap fun (i : Nat) =>
    let x : Int := first + (i : Int)
    if 0 ≤ x ∧ x < (d.ext : Int) then some x.toNat else none

/-- The producer teams a consumer team needs, as bits of the producer's bitmap (R21, R362). -/
def DepMap.bits (m : DepMap) (x y z : Nat) : List Nat :=
  match m.dims with
  | [dx, dy, dz] => (dz.needs z).flatMap fun k => (dy.needs y).flatMap fun j => (dx.needs x).map fun i => i + dx.ext * (j + dy.ext * k)
  | _ => []

/-! ### The checks (R360) -/

/-- What a check comes to: passed, held by a replayable fault, a status of R360, or FAULT of the completion area itself, which
cannot report it (step 11). -/
inductive Check where
  | pass
  | hold
  | fail (status : Nat)
  | area
  deriving DecidableEq, Repr

/-- The first of two checks that does not pass. -/
def Check.then_ (a : Check) (b : Unit → Check) : Check := match a with | .pass => b () | c => c
/-- A check that fails with a status when a condition holds. -/
def failIf (c : Bool) (status : Nat) : Check := if c then .fail status else .pass

/-- A read through a context, with FAULT where it faults. -/
def State.checkedLoad (s : State) (d : ContextDesc) (a n : Nat) : Except Check Nat :=
  match s.vload d 5 a n with
  | .ok v => .ok v
  | .error (.replay, _) => .error .hold
  | .error _ => .error (.fail 11)

/-- The stores that clear n bytes from an address on, in parts of 32 KiB, leave (R359); the fuel counts parts. -/
def State.clearBytes (s : State) (u : Source) (d : ContextDesc) : (fuel a n : Nat) → Except (VErr × Nat) State
  | 0, _, _ => .ok s
  | fuel + 1, a, n =>
    if n = 0 then .ok s
    else match s.vstore u false d 5 a (min n 32768) 0 with
      | .error e => .error e
      | .ok s => s.clearBytes u d fuel (a + min n 32768) (n - min n 32768)

/-- Bytes of a completion area (R359). -/
def careaBytes (teams : Nat) : Nat := 8 + (teams + 63) / 64 * 8

/-- DEPEND and FAULT of a launch's dependence map (R360, R362). -/
def State.checkMap (s : State) (d : ContextDesc) (dmap : Nat) : Check :=
  if dmap = 0 then .pass
  else match s.checkedLoad d dmap 32 with
    | .error c => c
    | .ok v => failIf (depMapBad v) 6

/-- TOOBIG and COFIT (R24, R26). -/
def State.checkRoom (s : State) (vd : Nat) (m : Demand) (teams : Nat) (coloc : Bool) : Check :=
  let room := s.emptyRoom vd
  (failIf (s.place room m (fun _ => true)).isNone 2).then_ fun _ =>
    failIf (coloc && (decide ((room.map (·.slots)).foldl (· + ·) 0 < teams * m.t) || (s.placeMany m teams room).isNone)) 3

/-- Clear the completion area at creation (R359); step 11 of R360 where it cannot be written. -/
def State.clearArea (s : State) (u : Source) (d : ContextDesc) (carea teams : Nat) : Except Check State :=
  if carea = 0 then .ok s
  else match s.clearBytes u d (careaBytes teams / 32768 + 1) carea (careaBytes teams) with
    | .ok s => .ok s
    | .error (.replay, _) => .error .hold
    | .error _ => .error .area

/-- Checks 7 to 10 of R360, from PLEN on. -/
def State.checkRest (s : State) (vd : Nat) (d : ContextDesc) (l : Launch) (k : Kernel) : Check :=
  (failIf (decide (16 < l.plen ∨ k.scratch < l.plen)) 7).then_ fun _ =>
  (failIf (decide (l.cpool ≠ 0) && (s.pool? vd l.cpool).isNone) 9).then_ fun _ =>
  (s.checkMap d l.dmap).then_ fun _ =>
  s.checkRoom vd ⟨l.t, k.gmax, scratchSize k⟩ (l.x * l.y * l.z) l.coloc

/-- Checks 5 to 11 of R360: the kernel, and the state in which the completion area is being cleared. The kernel of a pool has at least
16 registers and a budget of 16 (R363). DESIGN CHOICE (log 32): the descriptor of a KDESC that is no multiple of 32, of which R124 and R125
do not say what it is, is the 32 bytes at that address. -/
def State.checkKernel (s : State) (vd : Nat) (u : Source) (d : ContextDesc) (l : Launch) (pool : Bool) : Except Check (Kernel × State) :=
  match s.checkedLoad d l.kdesc 32 with
  | .error c => .error c
  | .ok v =>
    if kernelBad v l.t || (pool && decide ((kernelOf v).regs < 16 ∨ (kernelOf v).gmax < 16)) then .error (.fail 4)
    else match s.checkRest vd d l (kernelOf v) with
      | .pass => match s.clearArea u d l.carea (l.x * l.y * l.z) with
        | .error c => .error c
        | .ok s => .ok (kernelOf v, s)
      | c => .error c

/-! ### Creation (R20, R359) -/

/-- The grid of a launch with the next SEQ of its VD; the state in which it is created and SEQ moves on (R20). -/
def State.createGrid (s : State) (x : Grid) : State :=
  let seq := match s.vd? x.vd with | some v => v.seq.toNat | none => 0
  { s with grids := s.grids ++ [{ x with id := s.nextId, seq := seq }], nextId := s.nextId + 1 }.onVd x.vd
    fun v => { v with seq := v.seq + 1 }

/-- The grid of a launch. -/
def Launch.grid (l : Launch) (vd ctx : Nat) (cls : Cls) (k : Kernel) : Grid :=
  { id := 0, vd := vd, seq := 0, ctx := ctx, cls := cls, x := l.x, y := l.y, z := l.z, size := l.t, kernel := k,
    span := 16 * 2 ^ l.span, deadline := l.deadline, pool := l.cpool, next := 0, fleet := l.fleet, coloc := l.coloc,
    dmap := l.dmap, carea := l.carea, param := l.param, irq := none, queue := none, child := false, own := none, packet := none,
    retired := 0, failed := none, began := false, yields := false, bits := [], record := none }

/-- The context of a queue has been torn down (R360). -/
def State.tornDown (s : State) (ctx : Nat) : Bool := match s.context? ctx with | some c => c.ended | none => true

/-- A packet that fails (R360): its record, or where the completion area itself faults the error log, and, with the record written, the
queue goes on; a replayable fault holds it. -/
def failedPacket (again : Instr) (x : Queue) (p : BitVec 512) (carea : Nat) (c : Check) (s : State) : State :=
  match c with
  | .fail status =>
    match s.putRecord x.ctx carea status 0 with
    | some (s, rs) => s.await again 2 rs fun s => s.packetDone x p
    | none => s.holdAt again 1
  | .area => (s.logError x.ctx 1 11 0 carea 0).packetDone x p
  | _ => s.holdAt again 1

/-- The requests by which the dispatcher reads what a launch names: its kernel descriptor and its dependence map. -/
def State.launchReads (s : State) (x : Queue) (l : Launch) : List Req :=
  match s.queueDesc x with
  | none => []
  | some d => s.vreadReqs (dispatcherFor x.ctx) d 5 l.kdesc 32 ++ (if l.dmap = 0 then [] else s.vreadReqs (dispatcherFor x.ctx) d 5 l.dmap 32)

/-- A packet of a launch: what it names is read, then it is checked and started; one whose record is on its way is done with that. -/
def State.launchPacket (s : State) (again : Instr) (x : Queue) (p : BitVec 512) (l : Launch) (start : State → State) : State :=
  if (s.waitOf again 2).isSome then s.await again 2 [] fun s => s.packetDone x p
  else s.await again 1 (s.launchReads x l) start

/-- LAUNCH_PACKET (R357 to R360): the checks in their order; a failed launch writes its record, and the queue goes on. -/
def execLaunchPacket (q : Nat) (s : State) : Host.Outcome State Fault Refusal :=
  .next (s.onPacket (.launchPacket q) q 1 fun s x p =>
    let l := launchOf p
    s.launchPacket (.launchPacket q) x p l fun s =>
      let first := (failIf (launchReserved p) 12).then_ fun _ => (failIf (s.tornDown x.ctx) 10).then_ fun _ =>
        (failIf l.sizeBad 1).then_ fun _ => failIf (decide (5 < l.span)) 5
      let made : Except Check (Kernel × State) := match first, s.queueDesc x with
        | .pass, some d => s.checkKernel x.vd (dispatcherFor x.ctx) d l false
        | .pass, none => .error (.fail 10)
        | c, _ => .error c
      match made with
      | .ok (k, s) =>
        let g := { l.grid x.vd x.ctx (Cls.ofCode (max l.cls x.cls)) k with queue := some (q, x.head) }
        ((s.createGrid g).packetStarted x p).later [.admissionStep]
      | .error c => failedPacket (.launchPacket q) x p l.carea c s)

/-! ### POOL packets (R357, R363) -/

/-- A field of a POOL packet that is reserved, or out of its range (R357, R363). -/
def poolBad (s : State) (vd : Nat) (p : BitVec 512) : Bool :=
  decide (pk p 0 16 8 ≠ 0 ∨ pk p 0 10 6 ≠ 0 ∨ pk p 0 48 16 ≠ 0 ∨ pk p 0x20 0 64 ≠ 0 ∨ pk p 0x30 0 128 ≠ 0)
    || decide (pk p 0 32 16 = 0) || (s.pool? vd (pk p 0 32 16)).isSome || decide (pk p 0x18 0 32 < 64)

/-- The launch that a POOL packet amounts to: one gang, no coordinates. -/
def poolLaunch (p : BitVec 512) : Launch :=
  { fleet := 0, cls := 0, span := 0, coloc := false, kdesc := pk p 8 0 64, x := 1, y := 1, z := 1, t := 1, deadline := 0,
    cpool := 0, plen := 0, dmap := 0, carea := pk p 0x28 0 64, param := [] }

/-- POOL_PACKET (R357, R363): the pool opens, or the packet fails with BADPKT, KDESC or another status of R360. -/
def execPoolPacket (q : Nat) (s : State) : Host.Outcome State Fault Refusal :=
  .next (s.onPacket (.poolPacket q) q 2 fun s x p =>
    let l := poolLaunch p
    s.launchPacket (.poolPacket q) x p l fun s =>
      let first := (failIf (poolBad s x.vd p) 12).then_ fun _ => failIf (s.tornDown x.ctx) 10
      let made : Except Check (Kernel × State) := match first, s.queueDesc x with
        | .pass, some d => s.checkKernel x.vd (dispatcherFor x.ctx) d l true
        | .pass, none => .error (.fail 10)
        | c, _ => .error c
      match made with
      | .ok (k, s) =>
        let g := { l.grid x.vd x.ctx (Cls.ofCode x.cls) k with queue := some (q, x.head), own := some (pk p 0 32 16), next := 1 }
        let pool : Pool := { vd := x.vd, id := pk p 0 32 16, grid := s.nextId, rbuf := pk p 0x10 0 64, rcap := pk p 0x18 0 32,
                             nfeed := pk p 0x1C 16 16, flusht := pk p 0x1C 0 16, fed := 0, baskets := [], formed := [] }
        let s := s.createGrid g
        ({ s with pools := s.pools ++ [pool] }.packetStarted x p).later [.admissionStep]
      | .error c => failedPacket (.poolPacket q) x p l.carea c s)

/-! ### LAUNCH and LSTAT (R365 to R368) -/

/-- The status of a device launch up to its creation (R367). -/
def deviceStatus (s : State) (vd : Nat) (p : BitVec 512) : Nat :=
  let l := launchOf p
  if pkType p ≠ 1 ∨ launchReserved p ∨ l.fleet ≠ 0 ∨ l.cpool ≠ 0 ∨ l.plen ≠ 0 then 12
  else if l.sizeBad then 1
  else if 5 < l.span then 5
  else match s.vd? vd with
    | some v => if v.dlq.toNat ≤ v.dlc then 8 else 0
    | none => 8

/-- Create the child of a device launch (R365, R367): its checks from the descriptor on follow with admission. -/
def State.createChild (s : State) (x : Grid) (p : BitVec 512) : State :=
  let l := launchOf p
  let seq := match s.vd? x.vd with | some v => v.seq.toNat | none => 0
  let g := { l.grid x.vd x.ctx (Cls.ofCode (max l.cls x.cls.code)) noKernel with child := true, packet := some p, irq := pkIrq p }
  ((s.createGrid g).onVd x.vd fun v =>
    let cs := v.children ++ [⟨seq, 0, 0, 0⟩]
    { v with dlc := v.dlc + 1, children := cs.drop (cs.length - 4096) }).later [.admissionStep]

/-- LAUNCH (R367): a release at device scope, and a load of its packet behind the earlier accesses of its gang. -/
def launchBody (x : Args) (c : Ictx) : Body :=
  match c.s.gridOf c.g, c.s.contextOf c.g with
  | some gr, some k =>
    let fresh := wrapNat 64 (((c.src 0#32).val x.a true c.lead : Int) + x.imm.toInt)
    let a := match c.reuse [⟨c.lead, fresh⟩] with | y :: _ => y.addr | [] => fresh
    match inLead c (alignTrap 64 [⟨c.lead, a⟩]) with
    | some t => .trap t
    | none =>
      let ws := walksOf c.s k.desc (imageParts a 64)
      if replayable ws then .replay (stagesOf ws) [(c.lead, a)]
      else match inLead c (virtualTrap c.s ws true false (fun _ => false) c.pc) with
        | some t => .trap t
        | none =>
          let c := c.settle
          let spots := ws.filterMap fun w => w.2.toOption.map fun p => (keyOf p.space p.addr, p.own)
          let p := BitVec.ofNat 512 (spots.foldr (fun k acc => memLoad c.s.mem k.1 16 + 2 ^ 128 * acc) 0)
          let st := deviceStatus c.s gr.vd p
          let seq := match c.s.vd? gr.vd with | some v => v.seq.toNat | none => 0
          let s := c.s.bookReads c.g gr spots
          .go { c.plan with
            s := if st = 0 then s.createChild gr p else s
            regs := destWrites c x.d 1 c.mask (fun _ => st * 2 ^ 28 + (if st = 0 then seq else 0))
            timing := .variable 40 }
  | _, _ => .go c.plan
/-- LAUNCH (R367). -/
def execLaunch (x : Args) (s : State) : Host.Outcome State Fault Refusal := issue (.launch x) x.head 0#32 (launchBody x) s

/-- The word of LSTAT (R368). -/
def lstatWord (s : State) (vd w : Nat) : Nat :=
  if w / 2 ^ 28 ≠ 0 then 3 * 2 ^ 28 + bitsOf w 28 4 * 2 ^ 24
  else match s.vd? vd with
    | none => 15 * 2 ^ 28
    | some v => match v.children.find? (fun c => c.seq == w % 2 ^ 26) with
      | some c => c.state * 2 ^ 28 + c.status * 2 ^ 24 + min c.retired 0xFFFFFF
      | none => 15 * 2 ^ 28

/-- LSTAT (R368). -/
def lstatBody (x : Args) (c : Ictx) : Body :=
  match c.s.gridOf c.g with
  | none => .go c.plan
  | some gr =>
    .go { c.plan with
      regs := destWrites c x.d 1 c.mask (fun _ => lstatWord c.s gr.vd ((c.src x.imm).word x.a c.lead).toNat)
      timing := .variable 24 }
/-- LSTAT (R368). -/
def execLstat (x : Args) (s : State) : Host.Outcome State Fault Refusal := issue (.lstat x) x.head x.imm (lstatBody x) s

/-! ### DEFER (R248, R249, R364) -/

/-- The pool that takes a grid's continuation records (R248, R363): the one it names, or its own. -/
def State.poolOf (s : State) (x : Grid) : Option Pool :=
  match x.own with
  | some id => s.pool? x.vd id
  | none => if x.pool = 0 then none else s.pool? x.vd x.pool

/-- A continuation record (R249). -/
def contRecord (pc nw : Nat) (word : Nat → Word) : BitVec 512 :=
  BitVec.ofNat 512 (pc % 2 ^ 56 + nw * 2 ^ 56
    + (List.range nw).foldl (fun acc i => acc + (word i).toNat * 2 ^ (64 + 32 * i)) 0)

/-- The posted store of a record to its place in the buffer, on path E (R248, R363), which a MOVING granule holds (R399) where it is
performed; none where the buffer cannot be reached. -/
def recordReq (s : State) (g : Gang) (x : Grid) (d : ContextDesc) (p : Pool) (r : PoolRec) : Option Req :=
  let a := p.rbuf + 64 * r.slot
  (s.target d 5 true a).toOption.map fun pl =>
    { id := s.nextId, gid := g.gid, team := g.team, ctx := x.ctx, own := pl.own, seq := g.issued, kind := .store, ty := .b128,
      space := pl.space, channel := s.channelOf pl.space pl.addr,
      accs := (List.range 4).map fun i => ⟨i, keyOf pl.space pl.addr + 16 * i, bitsOf r.bits.toNat (128 * i) 128, 0⟩,
      acq := false, rel := false, who := g.quad, cls := x.cls.service, stamp := s.stampOf x, due := none, quad := g.quad,
      sent := s.uc.toNat, served := false }

/-- A record arrives at its pool (R248, R364). -/
def State.addRecord (s : State) (g : Gang) (x : Grid) (d : ContextDesc) (p : Pool) (bits : BitVec 512) : State :=
  let p := (s.pool? p.vd p.id).getD p
  let r : PoolRec := ⟨bits, s.uc.toNat, (p.freePlaces 1).headD 0⟩
  let s1 := s.onPool p.vd p.id fun p => p.add r
  match recordReq s g x d p r with
  | some q => (s1.addReqs [q]).later (reqWork s1 [q])
  | none => s1.logError x.ctx 2 1 0 (p.rbuf + 64 * r.slot) 0

/-- DEFER (R248): one record for each lane of the write mask, which then retires as at EXIT. A replayable fault at a record's place
in the buffer parks the gang before any record (R89). DESIGN CHOICE (log 32): `$tmask` of the PROT of a grid without a pool, which R248 does
not name, is the issuing set. -/
def deferBody (x : Args) (c : Ictx) : Body :=
  match c.s.gridOf c.g, c.s.contextOf c.g with
  | some gr, some k =>
    let nw := deferCount x
    let cont := dispTarget c.pc x.imm
    match c.s.poolOf gr with
    | none => .trap ⟨.prot, cont, c.iset⟩
    | some p =>
      let src := c.src 0#32
      let va := (directReg x.a).getD 0
      let ws := walksOf c.s k.desc ((p.freePlaces c.mask.count).map fun n => ⟨0, p.rbuf + 64 * n⟩)
      if replayable ws then .replay (stagesOf ws) []
      else
        let s := (Lanes.toList c.mask).foldl (fun s l =>
          s.addRecord c.g gr k.desc p (contRecord cont.toNat nw fun i => src.word (.v (BitVec.ofNat 8 (va + i))) l)) c.s
        .go (exitPlan c (s.later [.admissionStep]))
  | _, _ => .go c.plan
/-- DEFER (R248). -/
def execDefer (x : Args) (s : State) : Host.Outcome State Fault Refusal := issue (.defer x) x.head 0#32 (deferBody x) s

/-- BASKET_FLUSH_TIMEOUT (R364): the oldest record of a basket has waited FLUSHT microseconds. -/
def execBasketFlushTimeout (pool basket : Nat) (s : State) : Host.Outcome State Fault Refusal :=
  let due := s.pools.filter fun p => p.id == pool && decide (p.flusht ≠ 0) &&
    (match p.basket basket with | r :: _ => decide (r.arrived + p.flusht ≤ s.uc.toNat) | [] => false)
  if due.isEmpty then .next s
  else .next ((due.foldl (fun s p => s.onPool p.vd p.id fun p => p.flush basket) s).later [.admissionStep])

end Sys2Proof.Machine
end

