-- ==== Sys2Proof/Machine/Preempt.lean ====
section
/-!
DEFINITION. Pre-emption (R377 to R382, R385): the request and its space, PREEMPT entry with the frame, the stop of a team's
commands, the stowing of gangs and teams, and the restore; contexts and their tear-down (R366, R373, R375).
-/
namespace Sys2Proof.Machine
open Sys2Proof

/-! ### The team area (R380, R381) -/

/-- The bytes of a gang's area: GS of R380. -/
def gangArea (k : Kernel) : Nat := roundUp (2048 + 160 * (k.regs - 4)) 256
/-- Where gang g's area lies in its team area. -/
def gangOffset (k : Kernel) (g : Nat) : Nat := 0x2200 + scratchSize k + g * gangArea k

/-- The slots a gang holds (R329). -/
def State.heldSlots (s : State) (g : Gang) : List Nat :=
  (List.range 16).filter fun t => ((s.quad g.quad).slots.getD t SlotTag.reset).holder == some g.slot
/-- The accumulators a gang holds (R329). -/
def State.heldAccs (s : State) (g : Gang) : List Nat :=
  (List.range 8).filter fun a => ((s.quad g.quad).accs.getD a AccTag.reset).holder == some g.slot
/-- Bytes of a gang's matrix images (R381). -/
def State.matrixBytes (s : State) (g : Gang) : Nat := 24640 * (s.heldSlots g).length + 16448 * (s.heldAccs g).length
/-- The gangs of a team. -/
def State.gangsOf (s : State) (team : Nat) : List Gang := s.gangs.filter fun g => g.team == team

/-- Where the records from 128 on lie (R381). -/
def State.overflowOf (s : State) (t : Team) (k : Kernel) : Nat :=
  0x2200 + scratchSize k + t.size * gangArea k + ((s.gangsOf t.id).map s.matrixBytes).foldl (· + ·) 0

/-- RES of a team at the request (R381). -/
def State.resOf (s : State) (t : Team) (k : Kernel) : Nat :=
  let nq := (s.cmds.filter fun c => c.team == t.id).length + t.size
  s.overflowOf t k + 64 * (nq - 128)

/-- The kernel of a team. -/
def State.kernelOfTeam (s : State) (t : Team) : Kernel := match s.grid? t.grid with | some x => x.kernel | none => noKernel
/-- The context of a team. -/
def State.teamContext (s : State) (t : Team) : Option Context := (s.grid? t.grid).bind fun x => s.context? x.ctx

/-! ### The request (R377) -/

/-- A gang leaves a park that a pending PREEMPT ends: any but a REGX's (R28, R377). -/
def Gang.leavePark (g : Gang) (cycle : Nat) : Gang :=
  match g.life with
  | .parked (.regx _ _ _ _ _) => g
  | .parked _ => { { g with marker := false }.wake (cycle + 1) with life := .ready }
  | _ => g

/-- A gang takes part in a pre-emption: PREEMPT is pending in it, and outside a handler, which holds it (R270), the gang leaves its park
(R377). -/
def Gang.request (g : Gang) (cycle moff : Nat) : Gang :=
  match g.life with
  | .ready | .parked _ =>
    let h := { g with preempt := true, moff := moff }
    if g.hnd then h else h.leavePark cycle
  | _ => g

/-- Instruction pre-emption of one team, its area at an offset (R377, R380). -/
def State.requestTeam (s : State) (t : Team) (area : Nat) : State :=
  let k := s.kernelOfTeam t
  let past := s.overflowOf t k
  let s1 := s.onTeam t.id fun t => { t with preempt := true, area := area, overflow := past, records := [] }
  let images := fun (g : Gang) => (((s.gangsOf t.id).filter fun h => decide (h.gidx < g.gidx)).map s.matrixBytes).foldl (· + ·) 0
  let s2 := { s1 with gangs := s1.gangs.map fun (g : Gang) =>
    if g.team = t.id then g.request (s.cycleOf g.quad) (0x2200 + scratchSize k + t.size * gangArea k + images g) else g }
  s2.later ((s.gangsOf t.id).map (fun g => Instr.preemptEntry g.gid) ++ [.engineStop t.id])

/-- Some team of the context is stowed or on its way, or a gang of it has still to reload its frame (R380, R382): its area is in
use. -/
def State.areaInUse (s : State) (ctx : Nat) : Bool :=
  s.teams.any fun t => (t.stowed || t.preempt || (s.gangsOf t.id).any (fun g => g.fromRestore && g.life != .draining))
    && s.gridIn ctx t.grid

/-- Teams that can be pre-empted: they are resident, and no pre-emption of them is under way. -/
def State.preemptable (s : State) (ids : List Nat) : List Team :=
  s.teams.filter fun t => ids.contains t.id && !t.stowed && !t.preempt

/-- Instruction pre-emption of teams of one context, in order (R377, R380); none where their RES exceeds the space left
(R381). -/
def State.requestTeams (s : State) (ctx : Nat) (teams : List Team) : Option State :=
  match s.context? ctx with
  | none => none
  | some c =>
    let top := if s.areaInUse ctx then c.saveTop else 0
    let need := (teams.map fun t => s.resOf t (s.kernelOfTeam t)).foldl (· + ·) 0
    if c.desc.saveLen < top + need then none
    else
      let r := teams.foldl (fun (acc : State × Nat) t => (acc.1.requestTeam t acc.2, acc.2 + s.resOf t (s.kernelOfTeam t))) (s, top)
      some (r.1.onContext ctx fun c => { c with saveTop := r.2 })

/-- The admission of the grids of some teams is stopped (R33). -/
def State.holdGrids (s : State) (teams : List Team) : State :=
  { s with grids := s.grids.map fun (x : Grid) => if teams.any (fun t => t.grid == x.id) then { x with yields := true } else x }

/-- Pre-emption of teams, context by context: those whose context asks for it at an instruction, where the space suffices; the
others run to retirement (R33, R377, R381). With `force`, for a DL grid, all at an instruction, and where the space does not suffice
the admission of their grids stops. -/
def State.preemptTeams (s : State) (ids : List Nat) (force : Bool) : State :=
  s.contexts.foldl (fun s c =>
    let mine := (s.preemptable ids).filter fun t => s.gridIn c.id t.grid
    if mine.isEmpty || (c.desc.pmode && !force) then s
    else (s.requestTeams c.id mine).getD (if force then s.holdGrids mine else s)) s

/-- HOST_PREEMPT_REQUEST (R33, R377, R381): teams of a context, at an instruction or at a boundary; the host's boundary
request stops the context's admission. -/
def execHostPreemptRequest (ctx : Nat) (boundary : Bool) (teams : List Nat) (s : State) : Host.Outcome State Fault Refusal :=
  let mine := (s.preemptable teams).filter fun t => s.gridIn ctx t.grid
  let hold := s.onContext ctx fun c => { c with held := true }
  if boundary then .next hold
  else .next ((s.requestTeams ctx mine).getD hold)

/-- PREEMPT_REQUEST_WITHDRAWN (R33): admission of the context goes on. -/
def execPreemptRequestWithdrawn (ctx : Nat) (s : State) : Host.Outcome State Fault Refusal :=
  .next ((s.onContext ctx fun c => { c with held := false }).later [.admissionStep])

/-! ### PREEMPT entry (R378, R380, R385) -/

/-- The commands of a gang that are not collectives stop at their stop points and are kept (R295, R316, R323, R350), and what is
behind them in their queues may start; the results of its commands hold nothing until the restore is over (log 10). -/
def State.stopCommands (s : State) (gid : Nat) : State :=
  let seqs := (s.cmds.filter fun k => k.gid == gid && !k.ended).map (·.seq)
  let stops := fun (k : Cmd) => k.gid == gid && !k.ended && k.op != .coll && !k.kept
  let s := ({ s with cmds := s.cmds.map fun (k : Cmd) => if stops k then { k with kept := true } else k } : State).freePlaces
    (s.cmds.filter stops)
  s.onGang gid fun g => { g with results := g.results.map fun (r : Result) => if seqs.contains r.seq then { r with held := true } else r }

/-- Words of n bytes in order, as one number. -/
def packWords (n : Nat) (l : List Nat) : Nat := l.foldr (fun w acc => w % 2 ^ (8 * n) + 2 ^ (8 * n) * acc) 0

/-- A modulo register in 16 bytes (R130). -/
def ModReg.bits (m : ModReg) : Nat := m.base.toNat + m.len.toNat * 2 ^ 64 + m.off.toNat * 2 ^ 96

/-- HELD of a gang (R380). -/
def State.heldWord (s : State) (g : Gang) : Nat :=
  ((s.heldSlots g).map (2 ^ ·)).foldl (· + ·) 0 + ((s.heldAccs g).map (fun a => 2 ^ (16 + a))).foldl (· + ·) 0

/-- The 2,048 bytes of a gang's frame (R380) at the boundary where it takes PREEMPT. -/
def State.frameBits (s : State) (g : Gang) : Nat :=
  let at_ := fun (off v : Nat) => v * 2 ^ (8 * off)
  let lane := fun (f : LaneState → Nat) => (List.range 32).map fun l => f (g.lane l)
  at_ 0 (packWords 8 (lane fun x => x.pc.toNat % 2 ^ 56))
    + at_ 0x100 (packWords 4 (lane fun x => x.depth * 2 ^ 16 + x.spin % 2 ^ 16))
    + at_ 0x180 (packWords 4 ((List.range 7).map fun n => (g.preds.getD n 0#32).toNat))
    + at_ 0x1A0 (packWords 4 [g.live.toNat, (Lanes.of fun l => (g.lane l).y).toNat,
        (if g.serial then 2 ^ 31 else 0) + (if g.override.isSome then 2 ^ 30 else 0) + g.gmax * 2 ^ 8,
        g.status.toNat, (g.override.getD 0#32).toNat, s.heldWord g, g.moff])
    + at_ 0x1C0 (packWords 8 [g.ck.toNat, g.cause.toNat, g.epc.toNat, g.tval.toNat, g.tmask.toNat])
    + at_ 0x200 (packWords 2 ((List.range 8).flatMap fun n => (List.range 32).map fun l => (g.kreg n l).toNat))
    + at_ 0x400 (packWords 16 ((List.range 8).map fun n => (g.modreg n).bits))
    + at_ 0x500 (packWords 160 ((List.range 4).map fun n => imageBits n (g.reg n)))

/-- Results that the frame must hold are still outstanding (R385; log 10 for predicates and modulo registers). -/
def Gang.frameWaits (g : Gang) : Bool :=
  g.results.any fun r => !r.held && (r.regs.any (fun w => decide (w.n < 4)) || !r.preds.isEmpty || !r.mods.isEmpty)

/-- The gang stands at a boundary at which it takes PREEMPT, or in a park that PREEMPT ends there (R28, R270, R377). -/
def Gang.takesPreempt (g : Gang) : Bool :=
  g.preempt && !g.preempted && !g.hnd && !g.stopped &&
    (match g.life with | .parked (.regx _ _ _ _ _) => false | .ready | .parked _ => true | _ => false)

/-- The gang in its stow handler (R267, R378): the marks of v0 to v3 are in their images. It counts as sampled in the cycle after the
one in which it would have issued, and the writes of its frame have the place before its first instruction in the order of its accesses. -/
def Gang.enterStow (g : Gang) (vector frame : DWord) (cycle : Nat) : Gang :=
  let h := g.enterTrap vector 0#32 false g.minPc ⟨.preempt, frame, 0#32⟩ (max cycle g.nextIssue + 1)
  { h with regs := h.regs.mapIdx fun n r => if n < 4 then { r with mark := none } else r
           preempted := true, frame := frame, issued := g.issued + 1, entry := g.issued + 1, holds := [] }

/-- The virtual address of a gang's frame (R380). -/
def frameOf (c : Context) (t : Team) (k : Kernel) (g : Gang) : Nat := c.desc.save.toNat + t.area + gangOffset k g.gidx

/-- The stores of a gang's frame (R380), on path C: the gang's own, so that it is STOWED only when they are acknowledged (R379), and each
ahead of every access of its stow handler (R385). -/
def State.frameReqs (s : State) (c : Context) (g : Gang) (frame : Nat) : Except (VErr × Nat) (List Req) :=
  match s.vstoreReqs { dispatcherFor c.id with team := g.team } false c.desc 0 frame 2048 (s.frameBits g) with
  | .error e => .error e
  | .ok rs => .ok (rs.map fun (r : Req) => { r with gid := g.gid, seq := g.issued, acq := true })

/-- PREEMPT_ENTRY (R168 step 0, R266, R377, R378, R385). -/
def execPreemptEntry (gid : Nat) (s : State) : Host.Outcome State Fault Refusal :=
  match s.gang? gid with
  | none => .next s
  | some g =>
    let again := s.retry (.preemptEntry gid)
    if g.preempt = false ∨ g.preempted = true ∨ g.life = .draining then .next s
    else if g.takesPreempt = false ∨ s.ports.any (fun p => p.gid == gid) = true ∨ s.midIssue gid = true then .next again
    else
      let s1 := (s.onGang gid fun g => g.leavePark (s.cycleOf g.quad)).stopCommands gid
      match s1.gang? gid, s1.team? g.team, s1.contextOf g with
      | some g1, some t, some c =>
        if c.desc.svec = 0#64 then .next (s.contextFault c.id faultNoVec g1.minPc)
        else if g1.frameWaits then .next (s1.retry (.preemptEntry gid))
        else
          let frame := frameOf c t (s1.kernelOfTeam t) g1
          match s1.frameReqs c g1 frame with
          | .error (.replay, _) => .next (s1.retry (.preemptEntry gid))
          | .error _ => .next (s1.contextFault c.id faultBadSave g1.minPc)
          | .ok rs =>
            let s2 := s1.send rs
            .next ((s2.putGang (g1.enterStow c.desc.svec (BitVec.ofNat 64 frame) (s2.cycleOf g.quad))).later [.engineStop t.id])
      | _, _, _ => .next s

/-! ### Commands and the team header (R378, R380) -/

/-- Where command record j lies in the team area (R380, R381). -/
def recordOffset (t : Team) (j : Nat) : Nat := if j < 128 then 0x200 + 64 * j else t.overflow + 64 * (j - 128)

/-- The kept commands of a team, in queue order. -/
def State.keptCmds (s : State) (team : Nat) : List Cmd := s.cmds.filter fun k => k.team == team && k.kept

/-- The stores of the opaque records of a team's kept commands (R378), each of the gang of its command (R379). -/
def State.writeRecords (s : State) (c : Context) (t : Team) : (j : Nat) → List Cmd → Except (VErr × Nat) State
  | _, [] => .ok s
  | j, k :: ks =>
    if c.desc.saveLen < t.area + recordOffset t j + 64 then .error (.fault, 0)
    else match s.vstoreReqs { dispatcherFor c.id with team := t.id } false c.desc 0 (c.desc.save.toNat + t.area + recordOffset t j) 64
        (Config.commandRecord k.id).toNat with
      | .error e => .error e
      | .ok rs => (s.send (rs.map fun (r : Req) => { r with gid := k.gid, seq := k.seq })).writeRecords c t (j + 1) ks

/-- Every gang of the team has taken PREEMPT or ends (R378): the kept commands are known. -/
def State.allEntered (s : State) (team : Nat) : Bool :=
  (s.gangsOf team).all fun g => g.preempted || g.life == .draining || g.life == .stowed

/-- Every gang of the team that is left is STOWED. -/
def State.allStowed (s : State) (team : Nat) : Bool :=
  !(s.gangsOf team).isEmpty && (s.gangsOf team).all fun g => g.life == .stowed

/-- The team is stowed (R379, R380): its header is in its area, its reservations are free. -/
def State.stowTeam (s : State) (c : Context) (t : Team) (x : Grid) : State :=
  match s.vstore { dispatcherFor c.id with team := t.id } true c.desc 0 (c.desc.save.toNat + t.area) 512 (teamHeader x t t.records.length) with
  | .error (.replay, _) => s.retry (.engineStop t.id)
  | .error _ => s.contextFault c.id faultBadSave 0#64
  | .ok s => (s.onTeam t.id fun t => { t with stowed := true, preempt := false, blocks := [], race := [] }).later [.admissionStep]

/-- ENGINE_STOP (R295, R316, R350, R378): the commands of the gangs that are about to take PREEMPT stop; once every gang has
taken it, the records are written; once every gang is STOWED, the header is. -/
def execEngineStop (team : Nat) (s : State) : Host.Outcome State Fault Refusal :=
  match s.team? team, (s.team? team).bind s.teamContext, (s.team? team).bind fun t => s.grid? t.grid with
  | some t, some c, some x =>
    if t.stowed then .next s
    else
      let s := ((s.gangsOf team).filter Gang.takesPreempt).foldl (fun s g => s.stopCommands g.gid) s
      let kept := s.keptCmds team
      if s.allEntered team && t.records.isEmpty && !kept.isEmpty then
        match s.writeRecords c t 0 kept with
        | .error (.replay, _) => .next (s.retry (.engineStop team))
        | .error _ => .next (s.contextFault c.id faultBadSave 0#64)
        | .ok s1 =>
          .next ((s1.onTeam team fun t => { t with records := kept.map (·.id) }).later
            ((s.gangsOf team).map fun g => .gangStowed g.gid))
      else if s.allStowed team then .next (s.stowTeam c t x)
      else .next s
  | _, _, _ => .next s

/-- A stowing gang's work is acknowledged (R379, R385): its requests, the commands of its handler, and the records of its
kept ones. -/
def State.stowQuiet (s : State) (g : Gang) : Bool :=
  !(s.reqs.any fun r => r.gid == g.gid && r.kind != .account)
    && (s.cmds.all fun k => k.gid != g.gid || k.kept || (k.op == .coll && decide (k.seq < g.entry)))
    && (match s.team? g.team with
        | some t => (s.cmds.all fun k => k.gid != g.gid || !k.kept || t.records.contains k.id)
        | none => true)

/-- The quadrant of a gang that is in none: a STOWED gang's. -/
def noQuad : Nat := 2 ^ 16

/-- GANG_STOWED (R28, R329, R379). -/
def execGangStowed (gid : Nat) (s : State) : Host.Outcome State Fault Refusal :=
  match s.gang? gid with
  | none => .next s
  | some g =>
    if g.life ≠ .stowing then .next s
    else if s.stowQuiet g = false then .next s
    else
      let s1 := (s.releaseTiles g).onGang gid fun g => { g with
        life := .stowed, quad := noQuad, results := g.results.filter (·.held), admitted := g.clockAt (s.cycleOf g.quad) }
      .next (s1.later [.engineStop g.team, .rinseStart g.quad, .admissionStep])

/-! ### Restore (R382, R385) -/

/-- Bits of a frame. -/
def frBits (v byte lo len : Nat) : Nat := bitsOf v (8 * byte + lo) len

/-- A reserved field of a frame is not zero, or a value is out of its range (R382: BADSAVE). -/
def frameBad (v : Nat) (k : Kernel) : Bool :=
  let z := fun (byte n : Nat) => decide (frBits v byte 0 (8 * n) ≠ 0)
  let gmax := frBits v 0x1A8 8 9
  (List.range 32).any (fun l => decide (frBits v (8 * l) 56 8 ≠ 0 ∨ frBits v (8 * l) 0 2 ≠ 0))
    || z 0x19C 4 || decide (frBits v 0x1A8 17 13 ≠ 0 ∨ frBits v 0x1A8 0 8 ≠ 0) || decide (gmax % 8 ≠ 0 ∨ k.regs < gmax)
    || decide (frBits v 0x1AC 7 25 ≠ 0) || decide (frBits v 0x1B4 24 8 ≠ 0) || z 0x1BC 4
    || decide (frBits v 0x1C8 9 23 ≠ 0 ∨ 20 < frBits v 0x1C8 0 8) || decide (frBits v 0x1D0 56 8 ≠ 0 ∨ frBits v 0x1D0 0 2 ≠ 0)
    || z 0x1E4 28
    || (List.range 8).any (fun n => let l := frBits v (0x408 + 16 * n) 0 32
         decide (if l = 0 then frBits v (0x400 + 16 * n) 0 128 ≠ 0
           else l ≤ frBits v (0x40C + 16 * n) 0 32 ∨ l % 16 ≠ 0))
    || z 0x480 128 || z 0x780 128

/-- A joint as the header gives it, its record of arrivals kept; none where a value is out of its range. -/
def jointFrom (w : Nat) (old : Joint) : Option Joint :=
  let n := bitsOf w 0 32
  let arr := bitsOf w 32 32
  let st := bitsOf w 112 2
  if bitsOf w 114 14 ≠ 0 ∨ st = 3 ∨ (st = 0 ∧ n ≠ 0) ∨ (st = 1 ∧ (n = 0 ∨ n ≤ arr)) then none
  else some { old with st := (if st = 0 then .idle else if st = 1 then .open_ else .broken), n := n, arr := arr,
                       phase := bitsOf w 64 32, out := bitsOf w 96 16 }

/-- The joints of a header; none where one is out of its range. -/
def jointsFrom (header : Nat) (t : Team) : Option (List Joint) :=
  let l := t.joints.mapIdx fun j x => jointFrom (bitsOf header (8 * (0x80 + 16 * j)) 128) x
  if l.all (·.isSome) then some (l.filterMap id) else none

/-- The header names the team and counts its records (R380). -/
def headerFits (header : Nat) (x : Grid) (t : Team) : Bool :=
  decide (bitsOf header 0 32 = x.word.toNat ∧ bitsOf header 32 32 = t.index ∧ bitsOf header 64 32 = 0
    ∧ bitsOf header 96 32 = t.records.length ∧ bitsOf header 128 896 = 0)

/-- The shadow of a frame (R380). -/
def frameShadow (v : Nat) : Shadow :=
  ⟨(List.range 32).map fun l =>
      ⟨BitVec.ofNat 64 (frBits v (8 * l) 0 56), frBits v (0x100 + 4 * l) 16 16, decide (frBits v 0x1A4 l 1 = 1),
        frBits v (0x100 + 4 * l) 0 16, decide (frBits v 0x1A0 l 1 = 1)⟩,
    decide (frBits v 0x1A8 31 1 = 1)⟩

/-- A gang as it starts at the restore vector (R382). DESIGN CHOICE (log 32): `$clock` goes on from what it was when the gang became
STOWED, with the cycles of the quadrant it is now in. -/
def Gang.restored (g : Gang) (v : Nat) (rvec : DWord) (frame quad slot cycle : Nat) : Gang :=
  { g with
    quad := quad, slot := slot, life := .ready, marker := false, preempt := false, preempted := false, fromRestore := true
    shadow := frameShadow v
    lanes := (frameShadow v).lanes.map fun x => ⟨rvec, 0, false, 0, x.live⟩
    serial := false
    gmax := frBits v 0x1A8 8 9
    regs := List.replicate g.regs.length ⟨.u 0#32, none⟩
    preds := (List.range 7).map fun n => BitVec.ofNat 32 (frBits v (0x180 + 4 * n) 0 32)
    kregs := (List.range 8).map fun n => (List.range 32).map fun l => BitVec.ofNat 16 (frBits v (0x200 + 64 * n + 2 * l) 0 16)
    mods := (List.range 8).map fun n => ⟨BitVec.ofNat 64 (frBits v (0x400 + 16 * n) 0 64),
      BitVec.ofNat 32 (frBits v (0x408 + 16 * n) 0 32), BitVec.ofNat 32 (frBits v (0x40C + 16 * n) 0 32)⟩
    latch := [none, none, none]
    status := BitVec.ofNat 7 (frBits v 0x1AC 0 7)
    clears := []
    cause := BitVec.ofNat 64 Cause.preempt.code
    epc := 0#64
    tval := BitVec.ofNat 64 frame
    tmask := 0#32
    hnd := true
    ck := BitVec.ofNat 64 (frBits v 0x1C0 0 64)
    override := if frBits v 0x1A8 30 1 = 1 then some (BitVec.ofNat 32 (frBits v 0x1B0 0 32)) else none
    holds := []
    nextIssue := cycle + 1
    admitted := cycle + (2 ^ 64 - g.admitted % 2 ^ 64)
    frame := BitVec.ofNat 64 frame }

/-- Hold the units that HELD names for a gang slot (R382). -/
def Quad.holdUnits (q : Quad) (held slot : Nat) : Quad :=
  { q with
    slots := q.slots.mapIdx fun t x => if bitsOf held t 1 = 1 then { x with holder := some slot } else x
    accs := q.accs.mapIdx fun a x => if bitsOf held (16 + a) 1 = 1 then { x with holder := some slot } else x }

/-- The units that HELD names are free in a quadrant. -/
def Quad.unitsFree (q : Quad) (held : Nat) : Bool :=
  (q.slots.mapIdx fun t x => bitsOf held t 1 = 0 || x.holder.isNone).all id
    && (q.accs.mapIdx fun a x => bitsOf held (16 + a) 1 = 0 || x.holder.isNone).all id

/-- The gangs of a stowed team with the frames in memory, or the first failure. -/
def State.framesOf (s : State) (c : Context) (t : Team) (k : Kernel) : Except VErr (List (Gang × Nat)) :=
  (s.gangsOf t.id).foldl (fun acc g => match acc with
    | .error e => .error e
    | .ok l => match s.vload c.desc 0 (frameOf c t k g) 2048 with
      | .error e => .error e.1
      | .ok v => .ok (l ++ [(g, v)])) (.ok [])

/-- A placement takes the gangs of a stowed team (R382): slots and lines of each quadrant suffice, and the units that HELD
names are free and named by one gang only. -/
def State.acceptsFrames (s : State) (room : List Free) (frames : List (Gang × Nat)) (cores : List Nat) : Bool :=
  ((frames.map fun f => quadFor cores f.1.gidx).eraseDups).all fun q =>
    let mine := frames.filter fun f => quadFor cores f.1.gidx == q
    (match roomOf room q with
     | some f => decide (mine.length ≤ f.slots) && decide (((mine.map fun m => frBits m.2 0x1A8 8 9).foldl (· + ·) 0) ≤ f.lines)
     | none => false)
      && (mine.all fun m => (s.quad q).unitsFree (frBits m.2 0x1B4 0 24))
      && (let held := mine.map fun m => frBits m.2 0x1B4 0 24
          held.foldl (· + ·) 0 == held.foldl (· ||| ·) 0)

/-- The placement of a restore, if there is one now (R382). -/
def State.restorePlace (s : State) (t : Team) (x : Grid) (frames : List (Gang × Nat)) (room : List Free) : Option (List Nat) :=
  s.place room ⟨0, 0, scratchSize x.kernel⟩ (s.acceptsFrames room frames) |>.filter fun _ => t.stowed

/-- Put one restored gang in its quadrant. -/
def State.restoreGang (s : State) (c : Context) (t : Team) (k : Kernel) (cores : List Nat) (f : Gang × Nat) : State :=
  let q := quadFor cores f.1.gidx
  let slot := s.freeSlot q
  (s.onGang f.1.gid fun g => g.restored f.2 c.desc.rvec (frameOf c t k f.1) q slot (s.cycleOf q)).onQuad q
    fun x => x.holdUnits (frBits f.2 0x1B4 0 24) slot

/-- The arrivals that were held for a team (R323). -/
def State.applyLate (s : State) (t : Team) : State :=
  t.late.foldl (fun s a => commandArrive s t.id a.1 (.engine (.bank a.2.2.1)) (if a.2.1 = 0 then none else some a.2.1) a.2.2.2)
    (s.onTeam t.id fun t => { t with late := [] })

/-- The team comes back on cores (R382). -/
def State.restoreTeam (s : State) (c : Context) (t : Team) (x : Grid) (joints : List Joint) (cores : List Nat)
    (frames : List (Gang × Nat)) : State :=
  let blocks := s.blocksFor x.vd (scratchSize x.kernel) cores
  let s := s.onTeam t.id fun t => { t with cores := cores, blocks := blocks, joints := joints, stowed := false }
  (frames.foldl (fun s f => s.restoreGang c t x.kernel cores f) s).applyLate t

/-- Every command record is as it was written (log 10). -/
def State.recordsFit (s : State) (c : Context) (t : Team) : Except VErr Bool :=
  (t.records.mapIdx fun j id => (j, id)).foldl (fun acc r => match acc with
    | .error e => .error e
    | .ok b => match s.vload c.desc 0 (c.desc.save.toNat + t.area + recordOffset t r.1) 64 with
      | .error e => .error e.1
      | .ok v => .ok (b && decide (v = (Config.commandRecord r.2).toNat))) (.ok true)

/-! ### Contexts (R373, R375) -/

/-- Read a context descriptor (R373). -/
def descriptorOf (v : Nat) : ContextDesc :=
  let f := fun (byte lo len : Nat) => bitsOf v (8 * byte + lo) len
  let a := fun (byte : Nat) => BitVec.ofNat 64 (f byte 0 56)
  { groot := a 0, hroot := a 8, tvec := a 0x10, svec := a 0x18, rvec := a 0x20, save := a 0x28, saveLen := f 0x30 0 32,
    ythr := f 0x34 16 16, vd := f 0x34 10 6, pmode := decide (f 0x34 9 1 = 1), cklog := decide (f 0x34 8 1 = 1),
    stowt := f 0x34 0 8, rlim := BitVec.ofNat 64 (f 0x38 0 64), htab := a 0x40, elog := a 0x48, frec := a 0x50 }

/-- CONTEXT_CREATE (R46, R373): the device reads the descriptor. A context of that number that has not ended stands. -/
def execContextCreate (ctx descriptor : Nat) (s : State) : Host.Outcome State Fault Refusal :=
  if s.contexts.any (fun c => c.id == ctx && !c.ended) then .next s
  else
    .next (s.await (.contextCreate ctx descriptor) 0 (s.readReqs (dispatcherFor noCtx) .device (dispatcherFor noCtx).own descriptor 128)
      fun s =>
        let d := descriptorOf (s.devLoad (keyOf .device descriptor) 128)
        let c : Context := ⟨ctx, descriptor, d, false, 0, 0, 0, false⟩
        { s with contexts := s.contexts.filter (fun (c : Context) => c.id != ctx) ++ [c] }.quantumInForce d.vd)

/-- The LAUNCH of a port would reach the dispatcher: some lane performs it, and it meets no trap, no pending register and no walk. -/
def State.launchReaches (s : State) (p : Port) (g : Gang) (x : Args) : Bool :=
  p.lanes &&& guardMask (g.viewAt p.sample) x.head.guard != 0#32 &&
    (match execLaunch x { s with ports := [p] } with
     | .next t => (match t.gang? p.gid with | some h => decide (g.issued < h.issued) | none => false)
     | _ => false)

/-- LAUNCHes of a context at a fetch port in this cycle that would reach the dispatcher: a tear-down wins over them (R366). -/
def State.launchesAt (s : State) (ctx : Nat) : Nat :=
  (s.ports.filter fun p => match s.gang? p.gid with
    | none => false
    | some g => s.gangIn ctx g && (match s.contextOf g, Lanes.lowest p.lanes with
      | some c, some l => match s.fetchBytes c.desc (g.lane l).pc.toNat with
        | .bytes bs => match decode (wordOfBytes bs) with
          | .ok (.launch x) => s.launchReaches p g x
          | _ => false
        | _ => false
      | _, _ => false)).length

/-- CONTEXT_TEARDOWN (R28, R295, R322, R350, R366, R375). -/
def execContextTeardown (ctx : Nat) (s : State) : Host.Outcome State Fault Refusal :=
  let n := s.launchesAt ctx
  let s1 := s.onContext ctx fun c => { c with dropped := c.dropped + n }
  let s2 := { s1 with ports := s1.ports.filter fun p => match s1.gang? p.gid with | some g => !s1.gangIn ctx g | none => true }
  .next (s2.contextFault ctx faultTearDown 0#64)

/-- The requests by which the device reads what a restore reloads: the descriptor, the frames, the header and the command records. -/
def State.restoreReads (s : State) (c : Context) (t : Team) (k : Kernel) : List Req :=
  let u : Source := { dispatcherFor c.id with team := t.id }
  let rd := fun (a n : Nat) => s.vreadReqs u c.desc 0 a n
  s.readReqs u .device u.own c.where_ 128 ++ rd (c.desc.save.toNat + t.area) 512
    ++ ((s.gangsOf t.id).flatMap fun g => rd (frameOf c t k g) 2048)
    ++ ((List.range t.records.length).flatMap fun j => rd (c.desc.save.toNat + t.area + recordOffset t j) 64)

/-- A stowed team comes back, what it reloads having been read: all or nothing (R382). A walk holds it. -/
def State.bringBack (s : State) (t : Team) (c : Context) (x : Grid) : State :=
  let again := s.holdAt (.teamRestore t.id) 0
  let bad := s.contextFault c.id faultBadSave 0#64
  match s.framesOf c t x.kernel with
  | .error .replay => again
  | .error _ => bad
  | .ok frames =>
    match s.restorePlace t x frames (s.room x.vd) with
    | none => s
    | some cores =>
      if c.desc.rvec = 0#64 then s.contextFault c.id faultNoVec 0#64
      else match s.vload c.desc 0 (c.desc.save.toNat + t.area) 512, s.recordsFit c t with
        | .error (.replay, _), _ | _, .error .replay => again
        | .error _, _ | _, .error _ => bad
        | .ok header, .ok fit =>
          match jointsFrom header t with
          | none => bad
          | some joints =>
            if !fit || !headerFits header x t || frames.any (fun f => frameBad f.2 x.kernel) then bad
            else (s.restoreTeam c t x joints cores frames).later [.admissionStep]

/-- TEAM_RESTORE (R266, R323, R373, R382, R385): the descriptor is read again, and the team comes back. -/
def execTeamRestore (team : Nat) (s : State) : Host.Outcome State Fault Refusal :=
  match s.team? team, (s.team? team).bind s.teamContext, (s.team? team).bind fun t => s.grid? t.grid with
  | some t, some c0, some x =>
    if t.stowed = false ∨ c0.ended = true ∨ (s.gangsOf team).isEmpty = true then .next (s.forget (.teamRestore team))
    else
      .next (s.await (.teamRestore team) 0 (s.restoreReads c0 t x.kernel) fun s =>
        let d := descriptorOf (s.devLoad (keyOf .device c0.where_) 128)
        let s := ((s.onContext c0.id fun c => { c with desc := d }).quantumInForce d.vd).quantumInForce c0.desc.vd
        s.bringBack t ((s.context? c0.id).getD c0) x)
  | _, _, _ => .next s

end Sys2Proof.Machine
end

