-- ==== Sys2Proof/Machine/Admission.lean ====
section
/-!
DEFINITION. Admission (R24, R26, R33, R361, R362, R364, R377) and the sharing of quadrants (R369 to R371, R376): the order of
grids, dependences, the stay of a virtual device, the rinse.
-/
namespace Sys2Proof.Machine
open Sys2Proof

/-! ### What waits -/

/-- Admission of a grid is not stopped, by the host for its context or for a DL grid (R33, R381). -/
def State.admits (s : State) (x : Grid) : Bool :=
  !x.yields && (match s.context? x.ctx with | some c => !c.ended && !c.held | none => false)

/-- The stowed teams of a grid; they come ahead of the grid's next team (R382). -/
def State.stowedTeams (s : State) (x : Grid) : List Team := s.teams.filter fun t => t.grid == x.id && t.stowed

/-- The gangs that a pool's grid waits to admit (R364). -/
def State.formedOf (s : State) (x : Grid) : Option (List PoolRec) :=
  x.own.bind fun id => (s.pool? x.vd id).bind fun p => p.formed.head?

/-- The grid has a team to admit (R361). -/
def State.unadmitted (s : State) (x : Grid) : Bool :=
  x.packet.isNone && (match x.own with
    | some _ => (s.formedOf x).isSome
    | none => decide (x.next < x.x * x.y * x.z))

/-- The grid waits: for a restore, or for its next team. -/
def State.waitsNow (s : State) (x : Grid) : Bool :=
  (match s.context? x.ctx with | some c => !c.ended | none => false)
    && (!(s.stowedTeams x).isEmpty || (s.admits x && s.unadmitted x))

/-! ### Dependences (R362) -/

/-- Whether the producers of a team have retired: their bits, read with acquire. -/
def State.depMet (s : State) (x : Grid) (index : Nat) : Check :=
  match s.context? x.ctx with
  | none => .hold
  | some c =>
    if x.dmap = 0 then .pass
    else match s.checkedLoad c.desc x.dmap 32 with
      | .error e => e
      | .ok v =>
        let m := depMapOf v
        (m.bits (index % x.x) (index / x.x % x.y) (index / x.x / x.y)).foldl (fun acc b => acc.then_ fun _ =>
          match s.checkedLoad c.desc (m.parea + 8 + b / 8) 1 with
          | .error e => e
          | .ok w => if bitsOf w (b % 8) 1 = 1 then .pass else .hold) .pass

/-! ### Admitting (R24, R26, R34) -/

/-- What an attempt to admit comes to. -/
inductive Attempt where
  | no
  | fail (status : Nat)
  | done (s : State)

/-- A grid's first team is admitted: a child runs, and its place in the quota is free (R365, R368). -/
def State.childRuns (s : State) (x : Grid) : State :=
  if x.began then s
  else
    let s := s.onGrid x.id fun x => { x with began := true }
    if x.child then (s.onVd x.vd fun v => { v with dlc := v.dlc - 1 }).onChild x.vd x.seq fun c => { c with state := 1 } else s

/-- Restore the grid's stowed team where a placement takes it (R382). -/
def State.tryRestore (s : State) (x : Grid) (t : Team) : Attempt :=
  match s.context? x.ctx with
  | none => .no
  | some c => match s.framesOf c t x.kernel with
    | .error .replay => .no
    | .error _ => .done (s.later [.teamRestore t.id])
    | .ok frames => if (s.restorePlace t x frames (s.room x.vd)).isSome then .done (s.later [.teamRestore t.id]) else .no

/-- Restore the first stowed team of a list that a placement takes (R382). -/
def State.tryRestores (s : State) (x : Grid) : List Team → Attempt
  | [] => .no
  | t :: ts => match s.tryRestore x t with
    | .no => s.tryRestores x ts
    | a => a

/-- Admit the gang formed from a basket (R34). -/
def State.tryBasket (s : State) (x : Grid) (rs : List PoolRec) : Attempt :=
  match s.place (s.room x.vd) x.demand (fun _ => true) with
  | none => .no
  | some cores =>
    let s := s.formTeam x 0 cores (basketLanes rs) (basketRegs x.kernel rs)
    .done (match x.own with
      | some id => s.onPool x.vd id fun p => { p with formed := p.formed.drop 1 }
      | none => s)

/-- Admit every team of a co-resident grid at once (R26). -/
def State.tryAll (s : State) (x : Grid) : Attempt :=
  let n := x.x * x.y * x.z
  if (s.room x.vd).foldl (fun a f => a + f.slots) 0 < n * x.size then .no
  else match s.placeMany x.demand n (s.room x.vd) with
    | none => .no
    | some places =>
      let s := (places.mapIdx fun i c => (i, c)).foldl (fun s p =>
        s.formTeam x p.1 p.2 (plainLanes x.kernel) (plainRegs x.kernel)) s
      .done ((s.childRuns x).onGrid x.id fun x => { x with next := n })

/-- Admit the lowest unadmitted team (R24). -/
def State.tryNext (s : State) (x : Grid) : Attempt :=
  match s.place (s.room x.vd) x.demand (fun _ => true) with
  | none => .no
  | some cores =>
    let s := s.formTeam x x.next cores (plainLanes x.kernel) (plainRegs x.kernel)
    .done ((s.childRuns x).onGrid x.id fun x => { x with next := x.next + 1 })

/-- The dependences of what the grid admits next: every team of a co-resident grid (R26, R362). -/
def State.depsNow (s : State) (x : Grid) : Check :=
  if x.coloc then (List.range (x.x * x.y * x.z)).foldl (fun acc i => acc.then_ fun _ => s.depMet x i) .pass
  else s.depMet x x.next

/-- Try to admit the grid's next team (R24, R26, R34, R362, R382). -/
def State.tryGrid (s : State) (x : Grid) : Attempt :=
  match s.stowedTeams x with
  | t :: ts => s.tryRestores x (t :: ts)
  | [] =>
    match s.formedOf x with
    | some rs => s.tryBasket x rs
    | none =>
      match s.depsNow x with
      | .hold => .no
      | .fail st => .fail st
      | .area => .no
      | .pass => if x.coloc then s.tryAll x else s.tryNext x

/-! ### The order (R361) -/

/-- Stamp a is earlier than stamp b (R361). -/
def earlierStamp (a b : Nat) : Bool :=
  let d := (b + 2 ^ 32 - a % 2 ^ 32) % 2 ^ 32
  decide (1 ≤ d ∧ d ≤ 2 ^ 31 - 1)
/-- Insert a DL grid behind those that are not later (R361). -/
def insertStamp (x : Grid) : List Grid → List Grid
  | [] => [x]
  | y :: ys => if earlierStamp x.deadline y.deadline then x :: y :: ys else y :: insertStamp x ys

/-- WEIGHT of a VD. -/
def State.weight (s : State) (v : Nat) : Nat := match s.vd? v with | some d => d.weight.toNat | none => 0
/-- Credits of a VD in a class (R361). -/
def State.credit (s : State) (cls : Cls) (v : Nat) : Nat :=
  match s.vd? v with | some d => d.credits.getD (cls.code - 1) 0 | none => 0
/-- Set the credits of a VD in a class. -/
def State.setCredit (s : State) (cls : Cls) (v n : Nat) : State :=
  s.onVd v fun d => { d with credits := setAt d.credits (cls.code - 1) n }

/-- The grids of a class that wait, in the order of creation. -/
def State.waiting (s : State) (cls : Cls) : List Grid := s.grids.filter fun x => x.cls == cls && s.waitsNow x

/-- The VDs of nonzero weight with a waiting grid of the class, ascending (R361). -/
def State.weighted (s : State) (cls : Cls) : List Nat :=
  (List.range 64).filter fun v => decide (s.weight v ≠ 0) && (s.waiting cls).any fun x => x.vd == v

/-- A new round starts when no such VD has credit left (R361). -/
def State.newRound (s : State) (cls : Cls) : State :=
  let vs := s.weighted cls
  if vs.all fun v => decide (s.credit cls v = 0) then vs.foldl (fun s v => s.setCredit cls v (s.weight v)) s else s

/-- The grids of a class in the order in which they are considered, each with the VD whose credit its admission costs
(R361); those of the VDs of weight 0 come last, in the order of creation. -/
def State.orderOf (s : State) (cls : Cls) : List (Grid × Option Nat) :=
  let gs := s.waiting cls
  let last := (gs.filter fun x => decide (s.weight x.vd = 0)).map fun x => (x, (none : Option Nat))
  match cls with
  | .dl => (((gs.filter fun x => decide (s.weight x.vd ≠ 0)).foldl (fun acc x => insertStamp x acc) []).map fun x => (x, none)) ++ last
  | _ =>
    let vs := s.weighted cls
    let own := fun (v : Nat) => gs.filter fun x => x.vd == v
    let paid := (vs.filter fun v => decide (s.credit cls v ≠ 0)).flatMap fun v => (own v).map fun x => (x, some v)
    let free := (vs.filter fun v => decide (s.credit cls v = 0)).flatMap fun v => (own v).map fun x => (x, none)
    paid ++ free ++ last

/-- Teams that a grid admits in one step (R26). -/
def Grid.atOnce (x : Grid) : Nat := if x.coloc then x.x * x.y * x.z else 1

/-- The grids that follow from a list of them: the first that admits a team now. A grid whose map cannot be read fails
(R360). A co-resident grid costs a credit for each of its teams; DESIGN CHOICE (log 29): no more than its VD has. -/
def State.firstAdmission (s : State) (cls : Cls) : List (Grid × Option Nat) → Option State
  | [] => none
  | (x, cost) :: rest =>
    match s.tryGrid x with
    | .done t => some (match cost with
        | some v => if !(s.stowedTeams x).isEmpty then t else t.setCredit cls v (s.credit cls v - x.atOnce)
        | none => t)
    | .fail st => some ((s.onGrid x.id fun x => x.stop st).completeGrids)
    | .no => s.firstAdmission cls rest

/-! ### A DL grid among its own VD's teams (R377) -/

/-- The state without some teams, to see what room they would leave. -/
def State.without (s : State) (ids : List Nat) : State :=
  { s with gangs := s.gangs.filter (fun g => !ids.contains g.team), teams := s.teams.filter fun t => !ids.contains t.id }

/-- The class of a team's grid. -/
def State.teamCls (s : State) (t : Team) : Nat := match s.grid? t.grid with | some x => x.cls.code | none => 0

/-- Insert a team by class, the lowest first, then by admission, the latest first (R377). -/
def insertVictim (s : State) (t : Team) : List Team → List Team
  | [] => [t]
  | u :: us =>
    if s.teamCls u < s.teamCls t ∨ (s.teamCls u = s.teamCls t ∧ u.admitted < t.admitted) then t :: u :: us
    else u :: insertVictim s t us

/-- What the grid admits next fits now: its next team, or all the teams of a co-resident grid (R24, R26). -/
def State.fits (s : State) (x : Grid) : Bool :=
  let room := s.room x.vd
  if x.coloc then
    decide (x.atOnce * x.size ≤ room.foldl (fun a f => a + f.slots) 0) && (s.placeMany x.demand x.atOnce room).isSome
  else (s.place room x.demand (fun _ => true)).isSome

/-- The teams that leave, one more at a time, until what the grid admits next fits (R377). -/
def State.victims (s : State) (x : Grid) : (gone : List Nat) → List Team → Option (List Nat)
  | gone, [] => if (s.without gone).fits x then some gone else none
  | gone, t :: ts => if (s.without gone).fits x then some gone else s.victims x (gone ++ [t.id]) ts

/-- Pre-empt the teams of lower class of the VD of a DL grid whose next team fits only if they leave (R377); admission of their grids
stops instead where the save area does not hold them (R381). -/
def State.makeRoom (s : State) (x : Grid) : State :=
  let mine := s.teams.filter fun t => !t.stowed && (match s.grid? t.grid with
    | some y => y.vd == x.vd && decide (x.cls.code < y.cls.code) | none => false)
  let going := (mine.filter (·.preempt)).map (·.id)
  match s.victims x going ((mine.filter fun t => !t.preempt).foldl (fun acc t => insertVictim s t acc) []) with
  | some ids => s.preemptTeams (ids.filter fun i => !going.contains i) true
  | none => s

/-- The DL grids that could be admitted but for room, in the order of R361. -/
def State.dlBlocked (s : State) : List Grid :=
  ((s.orderOf .dl).map (·.1)).filter fun x => (s.stowedTeams x).isEmpty && s.depsNow x == .pass

/-- Every DL grid that waits for room makes what it can (R377). The grids that no longer yield to one may be admitted again (R33). -/
def State.makeRooms (s : State) : State :=
  let held := fun (s : State) => (s.grids.filter (·.yields)).map (·.id)
  let s0 := { s with grids := s.grids.map fun (x : Grid) => { x with yields := false } }
  let s1 := s0.dlBlocked.foldl State.makeRoom s0
  if (held s).all (held s1).contains then s1 else s1.later [.admissionStep]

/-! ### Sharing (R371) -/

/-- The queue of a grid is not stopped (R371). -/
def State.queueRuns (s : State) (x : Grid) : Bool :=
  match x.queue with
  | some (q, _) => (match s.queue? q with | some y => decide (y.state ≠ 0) | none => true)
  | none => true

/-- The room of a VD with one quadrant as it will stand when it is left (R371). -/
def State.roomWith (s : State) (v q : Nat) : List Free := (s.room v).filter (fun f => f.quad != q) ++ [emptyFree q]

/-- Some choice of cores puts a gang of the team into the quadrant (R371). -/
def State.covers (s : State) (room : List Free) (d : Demand) (q : Nat) (accept : List Nat → Bool) : Bool :=
  (placements s.variant.bays).any fun cores =>
    cores.contains (q / 4) && (List.range d.t).any (fun g => quadFor cores g == q) && fitsOn room d cores && accept cores

/-- The state with the matrix units of a quadrant as its next resident will find them. -/
def State.withUnits (s : State) (q : Nat) : State :=
  s.onQuad q fun x => { x with slots := Quad.reset.slots, accs := Quad.reset.accs }

/-- The restore of a stowed team would use the quadrant (R371). -/
def State.restoreUses (s : State) (x : Grid) (t : Team) (q : Nat) : Bool :=
  match s.context? x.ctx with
  | none => false
  | some c => match s.framesOf c t x.kernel with
    | .error _ => false
    | .ok frames => match (s.withUnits q).restorePlace t x frames (s.roomWith x.vd q) with
      | some cores => frames.any fun f => quadFor cores f.1.gidx == q
      | none => false

/-- A grid is work for a quadrant (R371): a stowed team of it would use it, or its next team. -/
def State.workOf (s : State) (x : Grid) (q : Nat) : Bool :=
  s.waitsNow x && (match s.stowedTeams x with
    | t :: ts => (t :: ts).any fun t => s.restoreUses x t q
    | [] => s.queueRuns x && (x.own.isSome || s.depsNow x == .pass) && s.covers (s.roomWith x.vd q) x.demand q (fun _ => true))

/-- A VD has work for a quadrant, in one class or in any (R371). -/
def State.hasWork (s : State) (v q : Nat) (dlOnly : Bool) : Bool :=
  s.grids.any fun x => x.vd == v && (!dlOnly || x.cls == .dl) && s.workOf x q

/-- The sharers of a quadrant in cyclic order behind a VD (R371). -/
def State.sharersAfter (s : State) (q : Nat) (v : Option Nat) : List Nat :=
  let l := s.sharers q
  match v with
  | some v => l.filter (fun w => decide (v < w)) ++ l.filter (fun w => decide (w < v))
  | none => l

/-- The next resident of a quadrant (R371): the next sharer with work and nonzero weight; one of weight 0 only when no
sharer of nonzero weight has work. -/
def State.nextResident (s : State) (q : Nat) : Option Nat :=
  let cur := (s.quad q).vd.filter (s.sharers q).contains
  let others := (s.sharersAfter q (s.quad q).vd).filter fun v => s.hasWork v q false
  match others.find? (fun v => decide (s.weight v ≠ 0)) with
  | some v => some v
  | none =>
    match cur with
    | some c => if s.weight c ≠ 0 ∧ s.hasWork c q false = true then none else others.head?
    | none => others.head?

/-- A VD has DL work in a quadrant (R371): a DL team of it that runs there, or one that waits for it. -/
def State.dlWorkIn (s : State) (v q : Nat) : Bool :=
  s.hasWork v q true || s.gangs.any fun g => g.quad == q && g.holds_ &&
    (match s.gridOf g with | some x => x.vd == v && x.cls == .dl | none => false)

/-- The VD that is to become resident when the stay of the present one ends now (R371, R376): a quadrant's only VD where another
was resident last; a sharer when the resident VD's time, the rinse counted in it, is over, when it must yield, or when it shares the quadrant no longer. -/
def State.takesOver (s : State) (q : Nat) : Option Nat :=
  let x := s.quad q
  if x.leaving.isSome = true ∨ x.incoming.isSome = true ∨ x.rinsing = true then none
  else match s.sharers q, x.vd with
    | [], _ => none
    | [_], none => none
    | [v], some w => if v = w then none else some v
    | _, none => s.nextResident q
    | l, some v =>
      (s.nextResident q).filter fun next =>
        let time := match s.vd? v with | some d => d.weight.toNat * d.qeff.toNat | none => 0
        !l.contains v || decide (x.stay + time ≤ s.uc.toNat + Config.rinseMicros)
          || (decide (s.weight v = 0) && decide (s.weight next ≠ 0))
          || ((s.sharersAfter q (some v)).any (fun w => s.hasWork w q true) && !s.dlWorkIn v q)

/-- The quadrants whose stay ends now. -/
def State.expiries (s : State) : List Instr :=
  ((List.range s.variant.quads).filter fun q => (s.takesOver q).isSome).map fun q => .quantumExpiry q

/-- Check a device launch that has been created, from its descriptor on (R360, R367): a failure makes the child FAILED. -/
def State.checkChild (s : State) (x : Grid) : State :=
  match x.packet, s.context? x.ctx with
  | some p, some c =>
    let fail := fun (s : State) (st : Nat) =>
      ({ s with grids := s.grids.filter fun y => y.id != x.id }.onVd x.vd fun v => { v with dlc := v.dlc - 1 }).onChild x.vd x.seq
        fun c => { c with state := 3, status := st }
    if c.ended then fail s 10
    else match s.checkKernel x.vd (dispatcherFor c.id) c.desc (launchOf p) false with
      | .ok (k, s) => s.onGrid x.id fun x => { x with kernel := k, packet := none }
      | .error (.fail st) => fail s st
      | .error .area => fail (s.logError x.ctx 1 11 0 x.carea 0) 11
      | .error _ => s.retry (.admissionStep)
  | _, _ => s

/-- Check the device launches that have been created, in order. -/
def State.checkChildren (s : State) : State := (s.grids.filter (·.packet.isSome)).foldl (fun s x => s.checkChild x) s

/-- ADMISSION_STEP (R24, R361, R371, R377, R382): device launches are checked, grids that are done complete, and the first grid
in the order of R361 that can admit its lowest team does; where none can, a DL grid may make room, and stays may end. -/
def execAdmissionStep (s : State) : Host.Outcome State Fault Refusal :=
  let s := s.checkChildren.settlePools.completeGrids
  let s := [Cls.hi, .lo, .bg].foldl State.newRound s
  match s.firstAdmission .dl (s.orderOf .dl) with
  | some t => .next (t.later [.admissionStep])
  | none =>
    match [Cls.hi, .lo, .bg].findSome? fun c => s.firstAdmission c (s.orderOf c) with
    | some t => .next (t.later [.admissionStep])
    | none =>
      let s := s.makeRooms
      .next (s.later s.expiries)

/-! ### The end of a stay and the rinse (R371, R376) -/

/-- The gangs that are in a quadrant. -/
def State.gangsIn (s : State) (q : Nat) : List Gang := s.gangs.filter fun g => g.quad == q && g.holds_
/-- Teams with a gang in a quadrant, or with blocks of its scratch section (log 10). -/
def State.teamsIn (s : State) (q : Nat) : List Team :=
  s.teams.filter fun t => (s.gangsIn q).any (fun g => g.team == t.id) ||
    t.blocks.any fun b => decide (b.core = q / 4 ∧ b.section_ = q % 4)

/-- QUANTUM_EXPIRY (R371, R377): the resident VD's stay ends, its teams there are pre-empted as PMODE says, and the rinse
follows when they have left. -/
def execQuantumExpiry (q : Nat) (s : State) : Host.Outcome State Fault Refusal :=
  match s.takesOver q with
  | none => .next s
  | some next =>
    let s1 := s.onQuad q fun x => { x with leaving := x.vd, vd := none, incoming := some next }
    .next ((s1.preemptTeams ((s1.teamsIn q).map (·.id)) false).later [.rinseStart q])

/-- Clear what a rinse clears of memory (R376): the quadrant's tile slots and accumulators and its scratch section. -/
def State.rinseMem (s : State) (q : Nat) : List Host.Cell :=
  let scratch := keyOf .scratch (q / 4 * 2 ^ 20 + q % 4 * 2 ^ 18)
  s.mem.filter fun c =>
    !(decide (scratch ≤ c.1 ∧ c.1 < scratch + 2 ^ 18) || decide (slotKey q 0 0 ≤ c.1 ∧ c.1 < slotKey (q + 1) 0 0))

/-- RINSE_START (R376): the rinse of a quadrant that its VD has left. Its energy is charged to the outgoing VD, at CP0. -/
def execRinseStart (q : Nat) (s : State) : Host.Outcome State Fault Refusal :=
  let x := s.quad q
  if x.incoming.isNone ∨ x.rinsing = true ∨ (s.teamsIn q).isEmpty = false then .next s
  else
    let s1 := match x.leaving with
      | some v => s.charge v (Config.rinseCycles * (Config.quadPoints.getD 0 ⟨10, 6, 300⟩).energy)
      | none => s
    let s2 := { s1 with mem := s1.rinseMem q }.onQuad q fun x => { x with
      rinsing := true, icache := [], fills := [], slots := Quad.reset.slots, accs := Quad.reset.accs }
    .next (s2.later [.rinseComplete q])

/-- RINSE_COMPLETE (R33, R371, R376): the incoming VD becomes resident. -/
def execRinseComplete (q : Nat) (s : State) : Host.Outcome State Fault Refusal :=
  let x := s.quad q
  if x.rinsing = false then .next s
  else
    .next ((s.onQuad q fun x => { x with
      cycle := x.cycle + Config.rinseCycles, rinsing := false, vd := x.incoming, leaving := none, incoming := none,
      stay := s.uc.toNat }).later [.admissionStep])

/-- QUANTUM_WRITE (R369, R371, R384): a QUANTUM of 0 is refused. -/
def execQuantumWrite (vd : Nat) (value : Word) (s : State) : Host.Outcome State Fault Refusal :=
  if value = 0#32 then .next (s.onVd vd fun v => { v with qzero := true })
  else .next ((s.onVd vd fun v => { v with quantum := value }).quantumInForce vd)

end Sys2Proof.Machine
end

