-- ==== Sys2Proof/Machine/Rate.lean ====
section
/-!
DEFINITION. The rate (03, R324 to R326): the adjusters, the clamp, the choice of operating points, and the host's writes to
the rate block.
-/
namespace Sys2Proof.Machine
open Sys2Proof

/-! ### The adjusters (R47, R51) -/

/-- One step of the law of R47: `num/den` is 1 + e/2. -/
def rateLaw (ρ floor : Word) (num den : Nat) : Word :=
  let x := ρ.toNat * num / den
  let x := min (max x (ρ.toNat * 7 / 8)) (ρ.toNat * 9 / 8)
  BitVec.ofNat 32 (min (max x floor.toNat) (2 ^ 32 - 1))

/-- The device rate after a step: e is (P − T)/T with T = 0.95·CAPW and P in sixteenths of a watt (R44, R47). -/
def RateBlock.adjusted (r : RateBlock) (p : Nat) : Word :=
  rateLaw r.devRate r.floor (76 * r.capw.toNat + 5 * p) (152 * r.capw.toNat)

/-- A VD's share rate after a step (R51): P is the energy charged in the microsecond, in pJ. -/
def VD.adjusted (v : VD) (floor : Word) : Word :=
  rateLaw v.shareRate floor (19 * 10 ^ 6 * v.sharew.toNat + 20 * v.energy) (38 * 10 ^ 6 * v.sharew.toNat)

/-- The share adjuster of a VD, and a new microsecond of charges (R51, R326). -/
def VD.stepShare (v : VD) (floor : Word) : VD :=
  { v with energy := 0, shareRate := if v.sharew = 0#12 then v.shareRate else v.adjusted floor }

/-- OVERRUN after a window (R43, R49). -/
def RateBlock.overrunAfter (r : RateBlock) (p : Nat) : Nat := if 16 * r.capw.toNat < p then min (r.overrun + 1) 8 else 0

/-- The rate block after a step of the adjuster at microsecond m (R44, R47, R49, R50). -/
def RateBlock.step (r : RateBlock) (p m : Nat) : RateBlock :=
  let above := r.overrunAfter p
  let enters := !r.clamp && decide (8 ≤ above)
  let leaves := r.clamp && decide (10 * p < 144 * r.capw.toNat)
  { r with
    pmeas := BitVec.ofNat 16 p
    overrun := above
    devRate := r.adjusted p
    clamp := enters || (r.clamp && !leaves)
    clamps := if enters then r.clamps + 1 else r.clamps
    freeUntil := if leaves then m + 3 else r.freeUntil }

/-! ### Units (R55, R57 to R60) -/

/-- The stagger number of a unit (R57). -/
def staggerOf (u : PowerUnit) : Nat :=
  match u with
  | .quad n | .array n | .stager n | .block n | .channel n | .port n | .slice n => n

/-- The points of a unit (R58, R59); a port has those that its working lanes allow (R60). -/
def State.pointsOf (s : State) (u : PowerUnit) : List Config.Point :=
  match u with
  | .quad _ => Config.quadPoints
  | .array _ => Config.arrayPoints
  | .stager _ => Config.stagerPoints
  | .block _ => Config.blockPoints
  | .channel c => if c < 384 then Config.hbmPoints else Config.tier2Points
  | .port p =>
    let lanes := (s.fabric.getD p FabricPort.reset).lanes
    Config.portPoints.take (if 4 ≤ lanes then 3 else if 2 ≤ lanes then 2 else 1)
  | .slice _ => Config.slicePoints

/-- The command at the head of a unit's work. -/
def State.headCmd (s : State) (u : PowerUnit) : Option Cmd :=
  match u with
  | .array q => (s.matQueue q).find? fun k => k.op.lane == some .array
  | .stager n => (s.engineQueue (.stager n)).head?
  | .block n => (s.engineQueue (.block n)).head?
  | _ => none

/-- A request is for a memory channel (R387). -/
def Req.atChannel (c : Nat) (r : Req) : Bool :=
  !r.served && r.channel == c && (match r.space with | .device | .tier2 => true | _ => false)

/-- A COPY of the queue runs on a block engine (R357). -/
def Queue.copiesOn (x : Queue) (n : Nat) : Bool := decide (blockOfQueue x.q = n) && x.packets.any fun p => pkType p.bits == 3

/-- The unit has a work item in progress or queued (R55, R325); a quadrant that no VD owns has none. -/
def State.unitWork (s : State) (u : PowerUnit) : Bool :=
  match u with
  | .quad q => (s.ownerOf q).isSome && s.gangs.any fun g => g.quad == q && (match g.life with | .ready => true | _ => false)
  | .block n => (s.headCmd u).isSome || s.queues.any (·.copiesOn n)
  | .array _ | .stager _ => (s.headCmd u).isSome
  | .channel c => s.reqs.any (Req.atChannel c)
  | .port p => s.reqs.any fun r => !r.served && (match r.space with | .peer id => s.portFor id r.who == some p | _ => false)
  | .slice b => s.bankOps.any (fun o => o.bank / 64 == b) || s.reqs.any fun r =>
      !r.served && r.space == .common && (match r.accs with | a :: _ => s.bankNo (a.key % 2 ^ 64) / 64 == b | [] => false)

/-- The rate that governs the head work item (R39, R54); of a COPY, which no gang commands, the rate of its queue's VD (log 31). -/
def State.unitRate (s : State) (u : PowerUnit) : Word :=
  match u with
  | .quad q => match s.ownerOf q with | some v => s.vdRate v | none => s.rate.devRate
  | _ => match s.headCmd u with
    | some k => s.cmdRate k
    | none => match u, s.queues.find? (fun x => match u with | .block n => x.copiesOn n | _ => false) with
      | .block _, some x => s.vdRate x.vd
      | _, _ => s.rate.devRate

/-- The cost of a point at a rate, in 16.16 nanoseconds (R55): both figures truncated to 16.16, the product truncated. -/
def pointCost (p : Config.Point) (ρ : Word) : Nat :=
  p.num * 65536 / p.den + ρ.toNat * (p.energy * 65536 / 1000) / 65536

/-- The index of the least of a list, the lowest on a tie. -/
def argMin (l : List Nat) : Nat :=
  (l.foldl (fun acc x => (acc.1 + 1, match acc.2 with
    | none => some (acc.1, x)
    | some (i, y) => if x < y then some (acc.1, x) else some (i, y))) (0, (none : Option (Nat × Nat)))).2.elim 0 (·.1)

/-- The point a unit moves to (R55): the least cost, when it is at most 15/16 of the present cost or no test is made (R50),
or the present point is no longer allowed (R60). -/
def choosePoint (ps : List Config.Point) (ρ : Word) (cur : Nat) (free : Bool) : Nat :=
  let cs := ps.map (pointCost · ρ)
  let best := argMin cs
  match cs[cur]? with
  | none => best
  | some c => if free || decide (cs.getD best 0 ≤ c - c / 16) then best else cur

/-- Every unit of the part (R5, R7, R57): the I/O dies, which hold the block engines, are fitted in every variant. -/
def State.units (s : State) : List PowerUnit :=
  (List.range s.variant.quads).map .quad ++ (List.range s.variant.quads).map .array ++
  (List.range (2 * s.variant.cores)).map .stager ++ (List.range 16).map .block ++
  (List.range 400).map .channel ++ ((List.range 36).filter s.variant.portFitted).map .port ++
  (List.range s.variant.bays).map .slice

/-- An array in an open burst keeps its point (R60). -/
def State.inBurst (s : State) (u : PowerUnit) : Bool :=
  match u with | .array q => decide (0 < (s.quad q).burst) | _ => false

/-- The units that have run out of work are at point 0, from which new work starts (R55), but for an array in an open burst (R60). -/
def State.restUnits (s : State) : State := { s with points := s.points.filter fun p => s.unitWork p.unit || s.inBurst p.unit }

/-- The units whose stagger slot comes in microsecond m and which have work or a point to give up (R55). -/
def State.slotUnits (s : State) (m : Nat) : List PowerUnit :=
  s.units.filter fun u => decide ((m + staggerOf u) % 4 = 0) && (s.unitWork u || s.points.any (fun p => p.unit == u))

/-! ### Steps -/

/-- Nanoseconds more on `$time` (R406). -/
def State.advanceTime (s : State) (ns : Nat) : State :=
  let t := s.timeNs + ns
  { s with sec := BitVec.ofNat 48 (t / 10 ^ 9), ns := BitVec.ofNat 32 (t % 10 ^ 9) }

/-- A far-tier request has waited longer than FTO + 1 ms (R403, R407). -/
def State.farLate (s : State) : Bool :=
  s.reqs.any fun r => r.space == .far && !r.served && decide (r.sent + 1000 * (s.link.fto.toNat + 1) < s.uc.toNat)

/-- The 10 ms in which a staged patch may commit are over (R407, R419). -/
def State.patchLate (s : State) : Bool :=
  match s.worrid.staged with | some g => decide (g.since + 10000 ≤ s.uc.toNat) | none => false

/-- What the device does once in a microsecond of UC beside the rate (R407): evaluations, polls, flushes, ends of stays, the timeout of the
far tier, the hand-over of a staged patch. -/
def State.microsecondWork (s : State) : List Instr :=
  (if s.rate.clamp then [] else (s.slotUnits s.uc.toNat).map .unitEvaluation)
  ++ (s.queues.filter (·.wait.isSome)).map (fun x => .waitPoll x.q)
  ++ s.pools.flatMap (fun p => (p.baskets.filter fun b => match b.2 with
      | r :: _ => decide (p.flusht ≠ 0 ∧ r.arrived + p.flusht ≤ s.uc.toNat)
      | [] => false).map fun b => .basketFlushTimeout p.id b.1)
  ++ ((List.range 16).filter fun c => (s.ingress.getD c Ingress.reset).en).map .icbPoll
  ++ s.expiries ++ (if s.farLate then [.farTimeout] else [])
  ++ (if s.worrid.staged.isSome then [if s.patchLate then .patchAbandon else .patchCommit] else []) ++ [.admissionStep]

/-- ADJUSTER_STEP (R44, R47 to R51, R407): a microsecond begins; `power` is the module power of the last one in sixteenths of
a watt, as the meter gives it. A clamp that enters puts every unit at point 0. -/
def execAdjusterStep (power : Nat) (s : State) : Host.Outcome State Fault Refusal :=
  let p := min power 0xFFFF
  let uc := s.uc + 1
  let r := s.rate.step p uc.toNat
  let entered := r.clamp && !s.rate.clamp
  let s := { s.advanceTime 1000 with
    uc := uc
    rate := r
    vds := s.vds.map (VD.stepShare · r.floor)
    points := if entered then [] else s.points }
  .next (s.later s.microsecondWork)

/-- A new point for a unit: it waits to apply (R56); a choice of the present point takes back one that waits. -/
def State.aim (s : State) (u : PowerUnit) (n : Nat) : State :=
  let x := s.unitPt u
  if n = x.point then s.setUnit { x with pending := none }
  else (s.setUnit { x with pending := some n }).later [.pointChangeApply u]

/-- UNIT_EVALUATION (R55, R60, R324): nothing while the clamp holds; a unit without work holds point 0. -/
def execUnitEvaluation (u : PowerUnit) (s : State) : Host.Outcome State Fault Refusal :=
  let free := decide (s.uc.toNat ≤ s.rate.freeUntil)
  if s.rate.clamp ∨ (s.inBurst u = true ∧ free = false) then .next s
  else if s.unitWork u = false then .next (s.aim u 0)
  else .next (s.aim u (choosePoint (s.pointsOf u) (s.unitRate u) (s.unitPt u).point free))

/-- The array is within a tile step (R349). -/
def State.midItem (s : State) (u : PowerUnit) : Bool :=
  match u with
  | .array q => (s.matQueue q).any fun k => k.op.lane == some .array && k.started && !k.ended && decide (0 < k.step)
  | _ => false

/-- POINT_CHANGE_APPLY (R56, R60): a quadrant goes to the lower of both clocks for the time of a clock change; an array changes between
two work items, and in an open burst only after a release of the clamp. -/
def execPointChangeApply (u : PowerUnit) (s : State) : Host.Outcome State Fault Refusal :=
  let x := s.unitPt u
  match x.pending with
  | none => .next s
  | some n =>
    if s.inBurst u && decide (s.rate.freeUntil < s.uc.toNat) then .next (s.setUnit { x with pending := none })
    else if s.midItem u then .next (s.retry (.pointChangeApply u))
    else match u with
    | .quad q => .next ((s.setUnit { x with slow := some (min x.point n) }).later [.clockChangeComplete q])
    | _ => .next (s.setUnit { x with point := n, pending := none })

/-- CLOCK_CHANGE_COMPLETE (R56). -/
def execClockChangeComplete (q : Nat) (s : State) : Host.Outcome State Fault Refusal :=
  let x := s.unitPt (.quad q)
  match x.pending, x.slow with
  | some n, some _ => .next (s.setUnit { x with point := n, pending := none, slow := none })
  | _, _ => .next s

/-! ### The host's registers (R41 to R45, R51) -/

/-- The sum of all SHAREW. -/
def State.shareSum (s : State) : Nat := s.vds.foldl (fun a v => a + v.sharew.toNat) 0

/-- PWRCAP_WRITE (R41, R51). -/
def execPwrcapWrite (value : Word) (s : State) : Host.Outcome State Fault Refusal :=
  let w := (value.extractLsb' 0 12).toNat
  let c := min (max w 600) 2400
  .next { s with rate := { s.rate with
    capw := BitVec.ofNat 12 c
    capadj := s.rate.capadj || decide (c ≠ w) || decide (c < s.shareSum) } }

/-- RATEFLOOR_WRITE (R42). -/
def execRatefloorWrite (value : Word) (s : State) : Host.Outcome State Fault Refusal :=
  .next { s with rate := { s.rate with floor := if value.toNat < 0x100 then 0x100 else value } }

/-- VDSHARE_WRITE (R45, R51): a share that begins starts from the device rate. -/
def execVdshareWrite (vd : Nat) (value : Word) (s : State) : Host.Outcome State Fault Refusal :=
  let w := value.extractLsb' 0 12
  let s := s.onVd vd fun v => { v with
    sharew := w
    shareRate := if v.sharew = 0#12 ∧ w ≠ 0#12 then s.rate.devRate else v.shareRate }
  .next { s with rate := { s.rate with capadj := s.rate.capadj || decide (s.rate.capw.toNat < s.shareSum) } }

end Sys2Proof.Machine
end

