-- ==== Sys2Proof/Machine/DeviceMemory.lean ====
section
/-!
DEFINITION. Device memory (23): how a controller serves requests (R389 to R391, R399), row protection (R392), uncorrectable
errors (R393, R394), the mending pass (R396 to R399), the other repairs (R400), and the partition of the common store (R305).
-/
namespace Sys2Proof.Machine
open Sys2Proof

/-! ### Which request is next (R389, R390, R399) -/

/-- Stamp a is earlier than stamp b (R389). -/
def earlier16 (a b : Nat) : Bool :=
  let d := (b + 2 ^ 16 - a % 2 ^ 16) % 2 ^ 16
  decide (1 ≤ d ∧ d ≤ 2 ^ 15 - 1)

/-- The stacks of the map that a mending pass leads to (R398). -/
def State.stacksNew (s : State) : List Nat := s.hbm.filter fun x => x != s.mend.stack

/-- The copy of a mending pass writes at the new location (R398). -/
def Req.mendWrite (r : Req) : Bool := r.who == mendSource.who && !r.reads

/-- The row of a request (log 3). -/
def State.reqRow (s : State) (r : Req) : Nat :=
  let local_ := (stackOf s.stacksNew r.addr).2
  Config.rowOf r.channel (if r.mendWrite then local_ / 8192 * 256 + local_ % 256 else s.channelByte r.space r.addr)

/-- A channel may serve the request. -/
def State.servable (s : State) (c : Nat) (r : Req) : Bool :=
  r.atChannel c && reqReady s r && !s.rowHeldAt r.space r.addr && !s.movingHeld r

/-- Request a is served before request b, which came first (R390). -/
def servedBefore (a b : Req) : Bool := decide (a.cls < b.cls) || (a.cls == b.cls && earlier16 a.stamp b.stamp)

/-- The request a channel serves next (R390). -/
def State.nextReq (s : State) (c : Nat) : Option Req :=
  (s.reqs.filter (s.servable c)).foldl (fun acc r => match acc with
    | none => some r
    | some b => if servedBefore r b then some r else some b) none

/-! ### Deadlines and rows (R391, R392) -/

/-- A request that is served after its stamp counts in MISS of its requester (R391). -/
def State.countDeadline (s : State) (r : Req) : State :=
  if earlier16 r.stamp s.now64 then
    let n := ((s.miss.find? (fun m => m.1 == r.who)).map (·.2)).getD 0 + 1
    let rest := s.miss.filter fun m => m.1 != r.who
    { s with miss := if n = 0 then rest else rest ++ [(r.who, n)] }
  else s

/-- A row of a channel. -/
def RowCount.is (x : RowCount) (c w : Nat) : Bool := x.channel == c && x.row == w

/-- A row is refreshed: its counter is 0, it leaves the watch list (R392). -/
def State.refreshRow (s : State) (c w : Nat) : State := { s with rows := s.rows.filter fun x => !x.is c w }
/-- The neighbours of a row are refreshed and its counter is reset (R392). -/
def State.targetedRefresh (s : State) (c w : Nat) : State := ((s.refreshRow c (w + 1)).refreshRow c (w - 1)).refreshRow c w

/-- The watched rows of a row's bank. -/
def State.watchList (s : State) (c w : Nat) : List RowCount :=
  s.rows.filter fun x => x.watched && x.channel == c && Config.bankOfRow c x.row == Config.bankOfRow c w

/-- The entry of least weight, the first on a tie. -/
def lightest (l : List RowCount) : Option RowCount :=
  l.foldl (fun acc x => match acc with | none => some x | some y => if x.count < y.count then some x else some y) none

/-- A row enters its bank's watch list; a full list gives up its lightest entry (R392). -/
def State.watchRow (s : State) (c w : Nat) : State :=
  let full := s.watchList c w
  let s := if Config.watchEntries ≤ full.length then
      match lightest full with | some x => s.targetedRefresh c x.row | none => s
    else s
  { s with rows := s.rows.map fun x => if x.is c w then { x with watched := true } else x }

/-- A row is activated (R392): its counter rises, it may enter the watch list or reach saturation. Each request that a
controller serves activates its row (log 13). -/
def State.activate (s : State) (c w : Nat) : State :=
  let old := (s.rows.find? (·.is c w)).getD ⟨c, w, 0, false⟩
  let n := old.count + 1
  let s := { s with rows := s.rows.filter (fun x => !x.is c w) ++ [{ old with count := n }] }
  if Config.rowSaturation ≤ n then s.targetedRefresh c w
  else if Config.watchCount ≤ n ∧ old.watched = false then s.watchRow c w
  else s

/-- The check bits of a row's counter fail (R392): it counts as saturated, the row is in its bank's watch list with the weight 8,191, and the
event is in the device log. -/
def State.corruptRow (s : State) (c w addr : Nat) : State :=
  let s := { s with rows := s.rows.filter (fun (x : RowCount) => !x.is c w) ++ [({ channel := c, row := w, count := Config.rowSaturation, watched := false } : RowCount)] }
  (s.watchRow c w).logDevice 0 addr

/-! ### Uncorrectable errors (R393, R394) -/

/-- What a read of a request finds wrong: a bad line that it does not fill (R394), or the error found now. -/
def State.badLine (s : State) (r : Req) (fault : Option LineFault) : Option (Nat × Option LineFault) :=
  match r.lines.find? (fun l => s.badLines.contains l && !r.fills l) with
  | some l => some (l, none)
  | none => match fault, r.reads, r.lines with
    | some f, true, l :: _ => if f.counter then none else some (l, some f)
    | _, _, _ => none

/-- The error is served from a good copy (R393): a replica or the memory copy of a sealed granule, or memory behind a clean
copy in a cache partition, where there is one (R308). -/
def State.mended (s : State) (line : Nat) (f : Option LineFault) : Bool :=
  match f with
  | some f => (f.replicaReads && s.sealed.contains (line / 1024)) || (f.cleanCopy && decide (s.cstore.abanks < 64))
  | none => false

/-- A team is aborted (R394): it ends as a tear-down ends it, and its grid is to report STATUS 11. -/
def State.abortTeam (s : State) (id : Nat) : State :=
  let gone := s.gangs.filter fun g => g.team == id
  let cmds := s.cmds.filter fun (k : Cmd) => k.team == id
  let s := { s.leaveTags cmds with
    gangs := s.gangs.map (fun (g : Gang) => if g.team == id then g.drain (s.gangRate g) else g)
    cmds := s.cmds.filter (fun (k : Cmd) => k.team != id)
    colls := s.colls.map (fun (i : Coll) =>
      if s.cmds.any (fun k => k.team == id && k.coll == some i.no) then { i with abort := true } else i)
    dbg := if s.dbg.held = id then { s.dbg with stopped := false } else s.dbg }
  let s := s.onTeam id fun t => { t with stowed := false, preempt := false }
  let s := match s.team? id with
    | some t => s.onGrid t.grid fun x => { x with failed := match x.failed with | some f => some f | none => some 11 }
    | none => s
  (s.freePlaces cmds).later (gone.map fun g => .gangFree g.gid)

/-- Every context of a VD is torn down with the reason ABORT and its queues stop (R393). -/
def State.abortVd (s : State) (vd : Nat) : State :=
  let s := (s.contexts.filter fun c => c.desc.vd == vd).foldl (fun s c => s.contextFault c.id faultAbort 0#64) s
  (s.queues.filter fun x => x.vd == vd).foldl (fun s x => (s.onQueue x.q fun x => { x with state := 0 }).qcbStore x 0x14 4 0) s

/-- The device stops (R393): only a device reset resumes service. -/
def State.fatalStop (s : State) : State :=
  ({ s with halted := true, agenda := [], ports := [], joining := [], arrivals := [], again := [] }).tell .fatal

/-- The request is the host's, a peer's or the mending pass's, of which an error costs no one anything: the data are poisoned, and what is
copied stays bad (R393, R398; log 13). -/
def Req.forNoOne (r : Req) : Bool := r.who == hostNo || r.who == peerSource.who || r.who == mendSource.who

/-- What an uncorrectable error costs by the OWN of its page (R393). DESIGN CHOICE (log 13): team-private memory that a unit reads for no team
costs the context. -/
def State.consumeError (s : State) (r : Req) : State :=
  let context := s.contextFault r.ctx faultAbort (match s.gang? r.gid with | some g => g.minPc | none => 0#64)
  if r.forNoOne then s
  else match r.own with
  | 1 => if r.team = noTeam then context else s.abortTeam r.team
  | 0 => context
  | 2 => s.abortVd (s.vdOfContext r.ctx)
  | _ => s.fatalStop

/-- A memory event at a line, in the device log (R393, R422): its STATUS is 5, POISON. -/
def State.logLine (s : State) (line : Nat) : State := s.logDevice 5 (line * 64 % 2 ^ 64)

/-! ### Serving (R390, R391, R399) -/

/-- The energy of a request in pJ (R59): one item for each 64-byte burst. -/
def State.channelEnergy (s : State) (r : Req) : Nat :=
  ((s.pointsOf (.channel r.channel)).getD (s.unitPt (.channel r.channel)).point ⟨5, 2, 2400⟩).energy * r.lines.length

/-- A request is performed and its data leaves the controller; a line it fills is good again (R394). -/
def State.serve (s : State) (r : Req) : State :=
  let s := { s with badLines := s.badLines.filter fun l => !r.fills l }
  if r.kind = .account then s.retireReq r.id else (s.perform r).markServed r.id

/-- A refresh of a row of the channel is due: the scheduler performs it first (R390). -/
def State.refreshDue (s : State) (channel : Nat) : Bool :=
  s.agenda.any fun i => match i with | .rowRefresh c _ => c == channel | _ => false

/-- A request opens its row (R392), whose counter may fail its check bits there. -/
def State.openRow (s : State) (channel : Nat) (r : Req) (fault : Option LineFault) : State :=
  let s := s.activate channel (s.reqRow r)
  match fault with
  | some f => if f.counter then s.corruptRow channel (s.reqRow r) r.addr else s
  | none => s

/-- MEMORY_REQUEST (R389 to R394, R399): the controller of a channel, behind the refreshes that are due, serves its next request; `fault`
is an error as it finds it, uncorrectable in the data or in the counter of the row. -/
def execMemoryRequest (channel : Nat) (fault : Option LineFault) (s : State) : Host.Outcome State Fault Refusal :=
  match s.nextReq channel with
  | none => .next s
  | some r =>
    if s.refreshDue channel then .next (s.later [.memoryRequest channel fault])
    else
    let s := ((s.countDeadline r).openRow channel r fault).chargeCtx r.ctx (s.channelEnergy r)
    match s.badLine r fault with
    | none => .next (s.serve r)
    | some (l, f) =>
      if s.mended l f then .next ((s.logLine l).serve r)
      else
        let s := { ((s.logLine l).retireReq r.id).spoil r.id with badLines := l :: s.badLines.filter fun x => x != l }
        .next (s.consumeError r)

/-- ROW_REFRESH (R390, R392): a due refresh. -/
def execRowRefresh (channel row : Nat) (s : State) : Host.Outcome State Fault Refusal := .next (s.refreshRow channel row)

/-! ### The mending pass (R396 to R399) -/

/-- MEND_GO (R396 to R398): refused, or the pass starts; data above the new CAP is discarded. -/
def execMendGo (stack : Nat) (s : State) : Host.Outcome State Fault Refusal :=
  if s.mend.act ∨ s.hbm.contains stack = false ∨ s.hbm.length ≤ 1 then
    .next { s with mend := { s.mend with refused := true } }
  else
    let cap := (s.hbm.length - 1) * 2 ^ 36
    let s := { s with
      mem := s.mem.filter fun c => !decide (cap ≤ c.1 ∧ c.1 < 2 ^ 64)
      mend := { s.mend with phase := s.mend.phase + 1, act := true, next := cap / 65536 - 1, moving := false, stack := stack } }
    .next (s.later [.granuleMoving])

/-- A write to the granule has reached a controller and is not performed (R398). -/
def State.granuleWritten (s : State) (g : Nat) : Bool :=
  s.reqs.any fun r => !r.served && r.space == .device && (match r.kind with | .store | .atomic _ _ => true | _ => false) &&
    r.accs.any fun a => decide (a.key / 65536 = g)

/-- GRANULE_MOVING (R398): once the writes to granule NEXT are performed it is MOVING. -/
def execGranuleMoving (s : State) : Host.Outcome State Fault Refusal :=
  if s.mend.act = false ∨ s.mend.moving = true then .next s
  else if s.granuleWritten s.mend.next then .next (s.retry .granuleMoving)
  else .next ({ s with mend := { s.mend with moving := true } }.later [.granuleCommit])

/-- Gangs parked on a store to a MOVING granule go on (R28, R29). -/
def State.wakeMoving (s : State) : State :=
  { s with gangs := s.gangs.map fun (g : Gang) => match g.life with
      | .parked (.moving _) => g.wake (s.cycleOf g.quad + 1)
      | _ => g }

/-- Requests of a granule go to the channel of the new map and are replayed there (R399). -/
def State.replay (s : State) (g : Nat) : State :=
  let hit : Req → Bool := fun r => !r.served && r.space == .device && decide (r.addr / 65536 = g)
  let s := { s with reqs := s.reqs.map fun r => if hit r then { r with channel := s.channelOf .device r.addr } else r }
  s.later ((s.reqs.filter hit).map fun r => .memoryRequest r.channel none)

/-- The copies of the granule that is MOVING (R389, R398), by blocks of 256 bytes, which lie in one channel of either map: the read of the old
location and the write of the new one. -/
def State.granuleCopies (s : State) : List Req :=
  (List.range 256).flatMap fun i =>
    let a := 65536 * s.mend.next + 256 * i
    let lines : Nat → List LaneAcc := fun whole => (List.range 4).map fun j => ⟨0, keyOf .device (a + 64 * j), whole, 0⟩
    let new := stackOf s.stacksNew a
    [s.unitReq mendSource .account .untyped .device 3 a (lines 0) false,
     { s.unitReq mendSource .account .b128 .device 3 a (lines 0) false with channel := 32 * new.1 + new.2 / 256 % 32 }]

/-- The granule commits (R398, R399): it is NEW, held writes are replayed; with granule 0 the pass ends and the stack leaves the map. -/
def State.commitGranule (s : State) : State :=
  let g := s.mend.next
  let s1 := if g = 0 then
      { s with hbm := s.hbm.filter (fun x => x != s.mend.stack),
               mend := { s.mend with act := false, moving := false } }
    else { s with mend := { s.mend with next := g - 1, moving := false } }
  (s1.replay g).wakeMoving.later (if g = 0 then [] else [.granuleMoving])

/-- GRANULE_COMMIT (R398, R399): the granule is copied, then it commits. A line that cannot be read stays bad where it lies now. -/
def execGranuleCommit (s : State) : Host.Outcome State Fault Refusal :=
  if s.mend.act = false ∨ s.mend.moving = false then .next s
  else .next (s.await .granuleCommit 0 s.granuleCopies State.commitGranule)

/-! ### Other repairs (R400) -/

/-- CORE_SPARE (R6, R400): a spare takes the core's number; a core with no spare left stays out of every VD's QUADS. -/
def execCoreSpare (core : Nat) (s : State) : Host.Outcome State Fault Refusal :=
  if s.teams.any (fun t => !t.stowed && t.cores.contains core) then .next (s.tell (.repaired false))
  else if s.spares.getD (core / 48) 0 = 0 then
    .next ({ s with lostCores := core :: s.lostCores.filter (fun c => c != core) }.tell (.repaired false))
  else .next { s with spares := modifyAt s.spares (core / 48) (· - 1), repairs := s.repairs ++ [.core core] }

/-- ROW_REPAIR (R400): the bank is held until the repair is complete. -/
def execRowRepair (channel row : Nat) (s : State) : Host.Outcome State Fault Refusal :=
  .next { s with repairs := s.repairs ++ [.row channel row] }

/-- BANK_SPARE (R400): the bank's operations are held until the spare bank has its contents. -/
def execBankSpare (bay bank : Nat) (s : State) : Host.Outcome State Fault Refusal :=
  .next { s with repairs := s.repairs ++ [.bank bay bank] }

/-- CHANNEL_RETIRE (R400): the channel's addresses fault as not present. -/
def execChannelRetire (k : Nat) (s : State) : Host.Outcome State Fault Refusal :=
  .next ({ s with tier2Gone := k :: s.tier2Gone.filter (fun c => c != k) }.tell (.repaired true))

/-- What a repair held goes on. -/
def State.released (s : State) (r : Repair) : List Instr :=
  match r with
  | .core _ => [.admissionStep]
  | .row c _ => (s.reqs.filter (Req.atChannel c)).map fun _ => .memoryRequest c none
  | .bank bay bank => [.bankOperation (64 * bay + bank)]

/-- REPAIR_COMPLETE (R400): the repair of this place in the list is done. -/
def execRepairComplete (index : Nat) (s : State) : Host.Outcome State Fault Refusal :=
  match s.repairs[index]? with
  | none => .next s
  | some r => .next (({ s with repairs := s.repairs.eraseIdx index }.tell (.repaired true)).later (s.released r))

/-! ### The partition of the common store (R304, R305) -/

/-- A table of the host stage leads to a page of common memory (R305, R374): every entry of a level is followed. -/
def State.tableMapsCommon (s : State) : (fuel level table : Nat) → Bool
  | 0, _, _ => false
  | fuel + 1, level, table =>
    (List.range (if level < 2 then 8192 else if level = 2 then 512 else 32)).any fun i =>
      let e := s.load (keyOf .device (table + 8 * i)) 8
      if bitsOf e 0 1 = 0 then false
      else if bitsOf e 1 1 = 1 then decide (level ≠ 0 ∧ bitsOf e 8 3 = 2)
      else if level = 3 then false
      else s.tableMapsCommon fuel (level + 1) (bitsOf e 12 44 * 4096)

/-- Some context's host stage maps a page to common memory (R305). -/
def State.commonMapped (s : State) : Bool :=
  s.contexts.any fun c => !c.ended && s.tableMapsCommon 4 0 c.desc.hroot.toNat

/-- Where a byte of common memory lies after ABANKS has changed (R305, R307): its bank and place in the bank stay, and so its
address moves; none when its bank is no longer addressable. -/
def movedCpa (old new c : Nat) : Option Nat :=
  let z := old * 131072
  let x := c % z / 128
  let bank := x % old
  if old ≠ 0 ∧ bank < new then some (c / z * (new * 131072) + (x / old * new + bank) * 128 + c % 128) else none

/-- Memory after ABANKS has changed: the contents of every bank that remains addressable are kept (R305). -/
def repartition (old new : Nat) (m : List Host.Cell) : List Host.Cell :=
  let common : Host.Cell → Bool := fun c => decide (keyOf .common 0 ≤ c.1 ∧ c.1 < keyOf .common 0 + 2 ^ 64)
  (m.filter common).foldl (fun m c => match movedCpa old new (c.1 - keyOf .common 0) with
    | some a => memWrite m (keyOf .common a) c.2
    | none => m) (m.filter fun c => !common c)

/-- CSPART_WRITE (R305, R306): an invalid value sets CFGERR, a write while common memory is mapped BUSY. -/
def execCspartWrite (value : Word) (s : State) : Host.Outcome State Fault Refusal :=
  let n := (value.extractLsb' 0 7).toNat
  let bad := decide (n % 8 ≠ 0 ∨ 64 < n)
  let mapped := s.commonMapped
  if bad || mapped then .next { s with cstore := { s.cstore with cfgerr := s.cstore.cfgerr || bad, busy := s.cstore.busy || mapped } }
  else .next { s with cstore := { s.cstore with abanks := n }, mem := repartition s.cstore.abanks n s.mem }

end Sys2Proof.Machine
end

