-- ==== Sys2Proof/Machine/HostLink.lean ====
section
/-!
DEFINITION. The outside of the module (24): CXL.mem accesses (R402), the far link (R403), the Skewendi fabric (R404, R405),
Ethernet mode (R14), the time base (R406), and the host stage's entries (R13, R307).
-/
namespace Sys2Proof.Machine
open Sys2Proof

/-! ### Loads whose data is unusable, stores whose acknowledgement is lost (R220, R222) -/

/-- The code of a reason (R220). -/
def reasonCode (r : ErrReason) : BitVec 8 := match r with | .poison => 1 | .timeout => 2 | .farDown => 3 | .peer => 4

/-- A result with an error in some lanes (R220): they are written with zero; an error recorded earlier keeps its reason. -/
def Result.fail (x : Result) (reason : ErrReason) (lanes : Lanes) : Result :=
  { x with
    regs := x.regs.map fun w => { w with vals := LaneVec.of fun l => if lanes.getLsbD l then 0#32 else LaneVec.lane w.vals l }
    err := some (match x.err with
      | some m => { m with lanes := m.lanes ||| lanes }
      | none => ⟨x.pc, reasonCode reason, lanes, x.seq⟩) }

/-- The result of an instruction of a gang fails in some lanes (R220). -/
def State.failResult (s : State) (gid seq : Nat) (reason : ErrReason) (lanes : Lanes) : State :=
  s.onGang gid fun g => { g with results := g.results.map fun x => if x.seq = seq then x.fail reason lanes else x }

/-- An outstanding request comes to nothing (R220, R222, R405): a load or returning atomic completes with an error; a
posted store is recorded in the context's error log, and for the drain it is complete. -/
def State.loseReq (s : State) (reason : ErrReason) (r : Req) : State :=
  let s := s.retireReq r.id
  match r.kind with
  | .load | .atomic _ true =>
    (s.failResult r.gid r.seq reason (Lanes.of fun l => r.accs.any fun a => a.lane == l)).later
      [.variableResultReturn r.gid r.seq none]
  | .store | .atomic _ false => (s.logError r.ctx 2 0 0 r.addr 0).later (ackWork r.gid)
  | .account => s

/-- Every outstanding request of a kind comes to nothing. -/
def State.loseReqs (s : State) (reason : ErrReason) (hit : Req → Bool) : State :=
  (s.reqs.filter hit).foldl (fun s r => s.loseReq reason r) s

/-! ### CXL.mem (R402) -/

/-- A CXL.mem request ends with an error. -/
def State.countHerr (s : State) : State :=
  { s with link := { s.link with herrs := if s.link.herrs = 0xFFFF#16 then s.link.herrs else s.link.herrs + 1 } }

/-- The window of the host (R402); a device whose boot failed offers CXL.io only (R417). -/
def State.inWindow (s : State) (dpa n : Nat) : Bool :=
  s.worrid.bootStat != 3#2 &&
  decide (s.link.hmwBase.toNat * 2 ^ 30 ≤ dpa ∧ dpa + n ≤ (s.link.hmwBase.toNat + s.link.hmwSize.toNat) * 2 ^ 30)

/-- A granule of the range is sealed. -/
def State.anySealed (s : State) (sp : Space) (a n : Nat) : Bool := s.isSealed sp a || s.isSealed sp (a + n - 1)

/-- The host is held on a write to the MOVING granule (R399). -/
def State.hostHeld (s : State) : Bool := s.reqs.any fun r => r.who == hostNo && s.movingHeld r

/-- The host's read: its data leaves with the poison indication where a line could not be read (R393). -/
def State.hostRead (s : State) (i : Instr) (dpa len : Nat) : State :=
  let bad := s.awaitsBad i 0
  s.await i 0 (s.readReqs hostSource .device hostSource.own dpa len) fun s => s.tell (.hostData (memBytes s.mem (keyOf .device dpa) len) bad)

/-- The host's write: one that covers only a part of a bad line is discarded with an error (R394). -/
def State.hostWrite (s : State) (i : Instr) (dpa : Nat) (bytes : List Byte) : State :=
  let bad := s.awaitsBad i 0
  s.await i 0 (s.storeReqs hostSource false .device hostSource.own dpa bytes.length (bytesNat bytes)) fun s =>
    (if bad then s.countHerr else s).tell (.hostDone bad)

/-- HOST_MEM_ACCESS (R111, R389 to R394, R399, R402): an access goes to the controllers as requests of the host, and is answered once
they are performed. An access outside the window does not reach the device; one that is refused ends with an error. -/
def execHostMemAccess (access : HostAccess) (s : State) : Host.Outcome State Fault Refusal :=
  let i := Instr.hostMemAccess access
  match access with
  | .read dpa len =>
    if s.awaits i 0 then .next (s.hostRead i dpa len)
    else if s.inWindow dpa len = false then .next s
    else if s.memcap < dpa + len then .next (s.countHerr.tell (.hostData (List.replicate len 0xFF#8) true))
    else if s.hostHeld then .next (s.retry i)
    else .next (s.hostRead i dpa len)
  | .write dpa bytes =>
    if s.awaits i 0 then .next (s.hostWrite i dpa bytes)
    else if s.inWindow dpa bytes.length = false then .next s
    else if s.memcap < dpa + bytes.length ∨ s.anySealed .device dpa bytes.length = true then .next (s.countHerr.tell (.hostDone true))
    else if s.hostHeld then .next (s.retry i)
    else .next (s.hostWrite i dpa bytes)

/-! ### The far link (R403) -/

/-- The far tier goes down (R403): CAUSE records the first event, outstanding requests come to nothing. -/
def State.farLost (s : State) (cause : BitVec 2) (reason : ErrReason) : State :=
  let s := { s with link := { s.link with farDown := true, cause := if s.link.farDown then s.link.cause else cause } }
  s.loseReqs reason fun r => r.space == .far

/-- FAR_TIMEOUT (R403, R407): some far-tier request has waited longer than FTO + 1 ms. -/
def execFarTimeout (s : State) : Host.Outcome State Fault Refusal := .next (if s.farLate then s.farLost 1 .timeout else s)

/-- LINK_DOWN (R403). -/
def execLinkDown (s : State) : Host.Outcome State Fault Refusal :=
  .next ({ s with link := { s.link with up := false } }.farLost 2 .farDown)

/-- LINK_UP (R402). -/
def execLinkUp (s : State) : Host.Outcome State Fault Refusal := .next { s with link := { s.link with up := true } }

/-- RESUME (R402, R403): ignored while the link is down. -/
def execResume (s : State) : Host.Outcome State Fault Refusal :=
  .next (if s.link.up then { s with link := { s.link with farDown := false } } else s)

/-! ### The fabric (R404, R405) -/

/-- The place an address of a peer's request names (R404): bit 55 selects common memory. -/
def peerPlace (addr : BitVec 56) : Space × Nat :=
  if addr.getLsbD 55 then (.common, bitsOf addr.toNat 0 55) else (.device, addr.toNat)

/-- The place exists: below `$memcap`, or in the addressable partition (R307). -/
def State.peerReaches (s : State) (p : Space × Nat) (n : Nat) : Bool :=
  match p.1 with
  | .common => decide (p.2 + n ≤ s.variant.bays * (s.cstore.abanks * 131072))
  | _ => decide (p.2 + n ≤ s.memcap)

/-- A peer's bytes are read: its data leaves marked poisoned where a line could not be read. -/
def State.peerRead (s : State) (i : Instr) (peer : Nat) (p : Space × Nat) (len : Nat) : State :=
  let bad := s.awaitsBad i 0
  s.await i 0 (s.readReqs peerSource p.1 peerSource.own p.2 len) fun s => s.tell (.peerData peer (memBytes s.mem (keyOf p.1 p.2) len) bad)

/-- A peer's bytes are written; a write of a part of a bad line is refused (log 13). -/
def State.peerWrite (s : State) (i : Instr) (peer : Nat) (p : Space × Nat) (bytes : List Byte) : State :=
  let bad := s.awaitsBad i 0
  s.await i 0 (s.storeReqs peerSource false p.1 peerSource.own p.2 bytes.length (bytesNat bytes)) fun s =>
    s.tell (if bad then .peerRefused peer else .peerDone peer)

/-- A peer's word is read, changed and written in one step by the controller or the bank ALU that owns it (R219, R404): `f` does it, or
answers that a line could not be read. A bank that a repair holds performs nothing (R400). -/
def State.peerUpdate (s : State) (i : Instr) (p : Space × Nat) (w : Nat) (f : Bool → State → State) : State :=
  let bad := s.awaitsBad i 0
  s.await i 0 (s.readReqs peerSource p.1 peerSource.own p.2 w) fun s =>
    if p.1 = .common ∧ s.bankHeld (s.bankNo p.2) = true then s.holdAt i 0 else f bad s

/-- A K-path operation of a peer as an operation of a bank (R313, R404). -/
def peerBankOp (key : Nat) (ty : Ty) (op : BitVec 3) (sat : Bool) (rnd : BitVec 3) (data : Word) : BankOp :=
  { id := 0, bank := 0, cmd := 0, key := key, ty := ty, op := op.toNat, sat := sat, rnd := rnd.toNat, value := data.toNat,
    exact := false, count := 1, mag := largestMag [data.toNat], ops := 1 }

/-- A request of a peer that is enabled, to a place that exists (R404). -/
def State.servePeer (s : State) (peer : Nat) (op : FabricOp) : State :=
  let i := Instr.fabricRequest peer op
  match op with
  | .read addr len => s.peerRead i peer (peerPlace addr) len
  | .write addr bytes => s.peerWrite i peer (peerPlace addr) bytes
  | .atomic addr ty aop data cmp =>
    let p := peerPlace addr
    let w := accWidth ty
    s.peerUpdate i p w fun bad s =>
      let old := s.load (keyOf p.1 p.2) w
      let answer := Msg.peerData peer (memBytes s.mem (keyOf p.1 p.2) w) bad
      if bad then s.tell answer
      else (s.store (keyOf p.1 p.2) w (atomicOp ty aop.toNat old (data.toNat % 2 ^ (8 * w)) (cmp.toNat % 2 ^ (8 * w))).val).tell answer
  | .combine addr ty op sat rnd data =>
    let p := peerPlace addr
    s.peerUpdate i p 4 fun bad s =>
      let r := bankApply (peerBankOp (keyOf p.1 p.2) ty op sat rnd data) (s.load (keyOf p.1 p.2) 4)
      if bad then s.tell (.peerRefused peer) else (s.store (keyOf p.1 p.2) 4 r.val).tell (.peerCombined peer r.flags)

/-- The type and the operation of an atomic belong together (R217). -/
def atomicTypeOk (ty : Ty) (aop : Nat) : Bool :=
  [.i32, .u32, .i64, .u64].contains ty || (ty == .f32 && decide (aop ≤ 2)) || (ty == .res28 && decide (aop = 0))

/-- The type and the operation of a K-path operation belong together (R313). -/
def combineTypeOk (ty : Ty) (op : Nat) : Bool :=
  [.i32, .u32].contains ty && decide (op ≤ 6) || [.f32, .bf16x2].contains ty && (decide (op ≤ 2) || op == 6)
    || ty == .res28 && (op == 0 || op == 6)

/-- The bytes of a peer's request, whether it is aligned (R204) and of a type (R217, R313) as it must be, and whether it writes. -/
def extentOf (op : FabricOp) : BitVec 56 × Nat × Bool × Bool :=
  match op with
  | .read a n => (a, n, true, false)
  | .write a bs => (a, bs.length, true, true)
  | .atomic a ty aop _ _ => (a, accWidth ty, atomicTypeOk ty aop.toNat && decide (a.toNat % accWidth ty = 0), true)
  | .combine a ty op _ _ _ => (a, 4, combineTypeOk ty op.toNat && decide (a.toNat % 4 = 0), true)

/-- The device takes a request of a peer (R404): the host has enabled the peer, and the place exists. A write to a sealed granule is
refused too (log 13). -/
def State.takesPeer (s : State) (peer : Nat) (op : FabricOp) : Bool :=
  let e := extentOf op
  let p := peerPlace e.1
  s.peersOn.contains peer && s.peerReaches p e.2.1 && e.2.2.1 && !(e.2.2.2 && s.anySealed p.1 p.2 e.2.1)

/-- FABRIC_REQUEST (R389 to R394, R399, R404): a request of a peer is served by the controllers and the banks, or refused. -/
def execFabricRequest (peer : Nat) (op : FabricOp) (s : State) : Host.Outcome State Fault Refusal :=
  if s.awaits (.fabricRequest peer op) 0 || s.takesPeer peer op then .next (s.servePeer peer op)
  else .next (s.tell (.peerRefused peer))

/-- FABRIC_LANE_FAIL (R60, R405): a lane of the port fails; the port's requests are held until its lanes have changed. -/
def execFabricLaneFail (port : Nat) (s : State) : Host.Outcome State Fault Refusal :=
  match s.fabric[port]? with
  | none => .next s
  | some x =>
    if x.lanes = 0 ∨ x.changing = true then .next s
    else .next ({ s with fabric := setAt s.fabric port { x with changing := true } }.later [.portDegradeComplete port])

/-- No port to a peer remains (R322, R405): its outstanding requests complete with the reason PEER, the fleet collectives
that include it end with ABORT. -/
def State.losePeer (s : State) (id : Nat) : State :=
  let s := s.loseReqs .peer fun r => r.space == .peer id
  (s.colls.filter fun (i : Coll) => decide (i.scope = 4) && !i.done &&
    (match s.grid? i.grid with | some x => Config.fleetHas x.fleet id | none => false)).foldl (fun s i => collAbort s i) s

/-- A port carries nothing any more: its peer is lost when it was the last one that led there (R405). -/
def State.lostPort (s : State) (port : Nat) : State :=
  match Config.portPeer port with
  | some id => if (s.portsTo id).isEmpty then s.losePeer id else s
  | none => s

/-- PORT_DEGRADE_COMPLETE (R405): four lanes become two, two become one; with its last lane the port is removed. -/
def execPortDegradeComplete (port : Nat) (s : State) : Host.Outcome State Fault Refusal :=
  match s.fabric[port]? with
  | none => .next s
  | some x =>
    if x.changing = false then .next s
    else
      let s1 := { s with fabric := setAt s.fabric port { x with changing := false, lanes := x.lanes / 2 } }
      .next (s1.lostPort port)

/-- PORT_MODE_REQUEST (R14, R405, R408): a port in Ethernet mode carries no requests to a peer. -/
def execPortModeRequest (port : Nat) (ethernet : Bool) (s : State) : Host.Outcome State Fault Refusal :=
  let capable := [0, 1, 18, 19].contains port && s.variant.portFitted port
  if !capable || (ethernet && !s.variant.ethin) then .next (s.tell (.portMode port false))
  else
    let s1 := { s with fabric := modifyAt s.fabric port fun x => { x with ethernet := ethernet } }
    .next ((if ethernet then s1.lostPort port else s1).tell (.portMode port true))

/-! ### Time (R406) -/

/-- PTP_MESSAGE (R406): an offset of more than 1 ms is stepped, not below 0; a smaller one is slewed, which changes the pace of
the oscillator that counts UC and `$time` alike (R407), and so nothing that the model counts in microseconds (log 14). -/
def execPtpMessage (offsetNs : Int) (s : State) : Host.Outcome State Fault Refusal :=
  if offsetNs.natAbs ≤ 1000000 then .next s
  else
    let t := (s.timeNs + offsetNs).toNat
    .next { s with sec := BitVec.ofNat 48 (t / 10 ^ 9), ns := BitVec.ofNat 32 (t % 10 ^ 9) }

/-! ### The host stage (R13, R307, R374) -/

/-- An entry that is refused when it is written: a leaf to a second tier that is not fitted, or to common addresses above
the range. -/
def State.mappingRefused (s : State) (level : Nat) (value : DWord) : Bool :=
  let e := value.toNat
  if bitsOf e 0 1 = 0 ∨ bitsOf e 1 1 = 0 ∨ level = 0 then false
  else match bitsOf e 8 3 with
    | 1 => !s.variant.tier2
    | 2 => decide (s.variant.bays * (s.cstore.abanks * 131072) < bitsOf e 12 44 * 4096 / leafSize level * leafSize level + leafSize level)
    | _ => false

/-- MAPPING_REQUEST (R13, R307): the entry is written, and walks that wait look again. DESIGN CHOICE (log 13): the write is a request of
the host. -/
def execMappingRequest (level entryDpa : Nat) (value : DWord) (s : State) : Host.Outcome State Fault Refusal :=
  let i := Instr.mappingRequest level entryDpa value
  if s.awaits i 0 = false ∧ s.mappingRefused level value = true then .next (s.tell (.mapping false))
  else
    let bad := s.awaitsBad i 0
    .next (s.await i 0 (s.storeReqs hostSource false .device hostSource.own entryDpa 8 value.toNat) fun s =>
      (s.tell (.mapping (!bad))).later s.walkers)

end Sys2Proof.Machine
end

