-- ==== Sys2Proof/Machine/Ingress.lean ====
section
/-!
DEFINITION. Time-stamped ingress (24, 25): the channels' registers (R409), their control blocks (R410, R415), frames (R408,
R411, R412), states (R413) and loss counts (R414).
-/
namespace Sys2Proof.Machine
open Sys2Proof

/-- The path of ingress channels (R91). -/
def ingressPath : Nat := 6

/-- STATE (R409). -/
def chStop : BitVec 2 := 0
/-- RUN. -/
def chRun : BitVec 2 := 1
/-- ERROR. -/
def chError : BitVec 2 := 2

/-- Channel c. -/
def State.chan (s : State) (c : Nat) : Ingress := s.ingress.getD c Ingress.reset

/-- The descriptor of the context a channel works in. -/
def State.chanDesc (s : State) (x : Ingress) : Option ContextDesc := (s.context? x.ctx.toNat).map (·.desc)

/-- A channel works in a context. -/
def State.chanSource (s : State) (c : Nat) : Source := ingressSource c (s.chan c).ctx.toNat

/-- Read n bytes as a channel does; a context that is not there is a fatal fault. -/
def State.chanLoad (s : State) (x : Ingress) (va n : Nat) : Except VErr Nat :=
  match s.chanDesc x with
  | none => .error .fault
  | some d => match s.vload d ingressPath va n with | .ok v => .ok v | .error e => .error e.1
/-- The stores of n bytes as a channel makes them: with release, in the order in which it sends them (R410, R412). -/
def State.chanStores (s : State) (c va n v : Nat) : Except VErr (List Req) :=
  match s.chanDesc (s.chan c) with
  | none => .error .fault
  | some d => match s.vstoreReqs (s.chanSource c) true d ingressPath va n v with | .ok rs => .ok rs | .error e => .error e.1

/-- A failure holds the channel: a walk (R410, R412). -/
def VErr.holds (e : VErr) : Bool := match e with | .replay | .moving => true | _ => false

/-- The channel is enabled, and the read that enabling makes is not done (R410, R413). -/
def Ingress.starting (x : Ingress) : Bool := x.en && x.state == chStop
/-- The frame at the head is dealt with. -/
def Ingress.next (x : Ingress) : Ingress := { x with frames := x.frames.drop 1, begun := false, slot := 0 }
/-- The channel stops (R413, R414): at once, what is not published stays so. -/
def Ingress.stop (x : Ingress) : Ingress :=
  { x with en := false, state := chStop, lc := 0, frames := [], begun := false, slot := 0, clearing := false }
/-- The channel goes to ERROR. -/
def Ingress.fail (x : Ingress) (ecode : BitVec 6) : Ingress := { x with state := chError, ecode := ecode, clearing := false }
/-- The channel runs from the read index on. -/
def Ingress.run (x : Ingress) (ridx : Word) : Ingress := { x with state := chRun, widx := ridx, ridx := ridx, ecode := 0 }

/-- A taken frame is dropped and counted (R409, R414). -/
def Ingress.drop (x : Ingress) : Ingress :=
  { x with
    drops := if x.drops = 0xFFFFFF#24 then x.drops else x.drops + 1
    lc := if x.lc = 0xFFFFFFFF#32 then x.lc else x.lc + 1 }

/-- Free slots of the ring (R412). -/
def Ingress.free (x : Ingress) : Nat := 2 ^ x.log2n.toNat - (x.widx - x.ridx).toNat

/-! ### The control block (R410, R413, R415) -/

/-- What a read of the control block comes to: a walk holds it, it fails, or RIDX and the word of CMD. -/
inductive IcbRead where
  | held
  | fault
  | read (ridx : Word) (w : Nat)
  deriving DecidableEq, Repr

/-- The requests that read the control block. -/
def State.blockReads (s : State) (c : Nat) : List Req :=
  match s.chanDesc (s.chan c) with
  | none => []
  | some d => s.vreadReqs (s.chanSource c) d ingressPath (s.chan c).icb.toNat 8

/-- The control block as it is read. DESIGN CHOICE (log 20): an uncorrectable error in it (`bad`) counts as a fatal fault. -/
def State.readBlock (s : State) (c : Nat) (bad : Bool) : IcbRead :=
  match s.chanLoad (s.chan c) (s.chan c).icb.toNat 8 with
  | .error e => if e.holds then .held else .fault
  | .ok v => if bad then .fault else .read (BitVec.ofNat 32 v) (v / 2 ^ 32)

/-- The state change of a command (R413): CMD in bits 1:0 of the second word, RIDX the first. -/
def Ingress.command (x : Ingress) (cmd : Nat) (ridx : Word) : Ingress :=
  if cmd = 1 ∧ x.state = chRun then x.fail 1
  else if cmd = 2 ∧ x.state = chError then x.run ridx
  else x

/-- CMD is written 0 (R410, R415): a walk holds the write, another failure is ERROR. -/
def State.clearCmd (s : State) (c : Nat) : State :=
  let at_ := (s.chan c).icb.toNat + 4
  let failed : VErr → State := fun e => s.onIngress c fun x => if e.holds then { x with clearing := true } else x.fail 2
  match s.chanLoad (s.chan c) at_ 4 with
  | .error e => failed e
  | .ok w => match s.chanStores c at_ 4 (w - w % 4) with
    | .error e => failed e
    | .ok rs => (s.onIngress c fun x => { x with clearing := false }).send rs

/-- The channel acts on what it has read (R413, R415): the state change of CMD, and then CMD is written 0. -/
def State.actOn (s : State) (c : Nat) (ridx : Word) (w : Nat) : State :=
  let s := s.onIngress c fun x => { x with ridx := ridx }.command (w % 4) ridx
  if w % 4 = 0 ∨ w % 4 = 3 then s else s.clearCmd c

/-! ### Slots (R411, R412, R414) -/

/-- The 8-byte header of slot i (R411). -/
def slotHeader (i : Word) (len nsl type : Nat) : Nat := type * 2 ^ 4 + nsl * 2 ^ 8 + len * 2 ^ 32 + (i.toNat % 2 ^ 16) * 2 ^ 48

/-- The slots of a frame: length, TYPE and 56 bytes of payload each (R411). -/
def frameSlots (f : Frame) : List (Nat × Nat × Nat) :=
  let n := f.bytes.length
  let rest := (n - 40 + 55) / 56
  let first := f.ns.toNat + f.sec.toNat * 2 ^ 32 + n * 2 ^ 80 + bytesNat (f.bytes.take 40) * 2 ^ 128
  (min n 40, 1, first) :: (List.range rest).map fun k =>
    let part := (f.bytes.drop (40 + 56 * k)).take 56
    (part.length, if k + 1 = rest then 3 else 2, bytesNat part)

/-- The stores of a slot at WIDX, payload and header (R411, R412). -/
def State.slotStores (s : State) (c nsl len type payload : Nat) : Except VErr (List Req) :=
  let x := s.chan c
  s.chanStores c (x.ring.toNat + 64 * (x.widx.toNat % 2 ^ x.log2n.toNat)) 64 (slotHeader x.widx len nsl type + payload * 2 ^ 64)

/-- The next slot of the frame at the head is written (R412, R413), and WIDX moves; a replayable fault holds the frame, a fatal one is
ERROR, and the frame is dropped. A LOSS that came up meanwhile follows the frame (R414). -/
def State.writeSlot (s : State) (c : Nat) (f : Frame) : State :=
  let i := Instr.framePublish c
  let x := s.chan c
  let slots := frameSlots f
  let moved : State → State := fun s =>
    let s := s.onIngress c fun x => { x with widx := x.widx + 1, slot := x.slot + 1 }
    if x.slot + 1 < slots.length then s.retry i else (s.onIngress c Ingress.next).laterOnce (.lossSlotWrite c)
  if s.awaits i 1 then s.await i 1 [] moved
  else match slots[x.slot]? with
    | none => s.onIngress c Ingress.next
    | some q => match s.slotStores c slots.length q.1 q.2.1 q.2.2 with
      | .ok rs => s.await i 1 rs moved
      | .error e => if e.holds then s.retry i else s.onIngress c fun x => ((x.fail 2).drop).next

/-- The frame at the head after the control block has been read (R410, R412, R413): it is begun, or dropped where the channel does not run
or the ring has no room. A held write of CMD, and a LOSS slot, come first (R414, R415). -/
def State.beginFrame (s : State) (c : Nat) (f : Frame) : State :=
  let i := Instr.framePublish c
  let x := s.chan c
  if x.clearing then s.retry i
  else if x.state ≠ chRun ∨ x.free < (frameSlots f).length + (if x.lc = 0#32 then 0 else 1) then
    (s.onIngress c fun x => x.drop.next).laterOnce (.lossSlotWrite c)
  else if x.lc ≠ 0#32 then (s.laterOnce (.lossSlotWrite c)).retry i
  else (s.onIngress c fun x => { x with begun := true, slot := 0 }).writeSlot c f

/-- The channel has read its control block before a frame (R410). -/
def State.publish (s : State) (c : Nat) (f : Frame) (bad : Bool) : State :=
  match s.readBlock c bad with
  | .held => s.retry (.framePublish c)
  | .fault => s.onIngress c fun x => ((x.fail 2).drop).next
  | .read ridx w => (s.actOn c ridx w).beginFrame c f

/-! ### Steps -/

/-- The port that PORT selects (R409). -/
def ingressPort (p : BitVec 2) : Nat := [0, 1, 18, 19].getD p.toNat 0

/-- The channel that takes a frame (R408). -/
def State.taker (s : State) (port : Nat) (ethertype : BitVec 16) : Option Nat :=
  (List.range 16).find? fun c =>
    let x := s.chan c
    x.en && ingressPort x.port == port && (x.etype == 0#16 || x.etype == ethertype)

/-- FRAME_ARRIVAL (R408, R412): a frame that a channel takes waits for it, as far as the port's buffer goes. -/
def execFrameArrival (port : Nat) (ethertype : BitVec 16) (fcsOk : Bool) (frame : List Byte) (s : State) :
    Host.Outcome State Fault Refusal :=
  let open_ := match s.fabric[port]? with | some x => x.ethernet | none => false
  if open_ = false ∨ fcsOk = false ∨ frame.length < 60 ∨ 9212 < frame.length then .next s
  else match s.taker port ethertype with
    | none => .next s
    | some c =>
      if (s.chan c).frames.length ≤ Config.receiveBuffer port then
        .next ((s.onIngress c fun x => { x with frames := x.frames ++ [⟨s.sec, s.ns, frame⟩] }).later [.framePublish c])
      else .next ((s.onIngress c Ingress.drop).laterOnce (.lossSlotWrite c))

/-- A slot of the channel is being written: commands are acted on between frames (R413). -/
def State.chanWrites (s : State) (c : Nat) : Bool := (s.chan c).begun || s.awaits (.lossSlotWrite c) 0

/-- FRAME_PUBLISH (R410, R412, R413): before a frame the channel reads its control block; then it writes the frame's slots one after
the other. A frame waits for the read that enabling makes, and for what the channel still has to write before it. -/
def execFramePublish (c : Nat) (s : State) : Host.Outcome State Fault Refusal :=
  let i := Instr.framePublish c
  match (s.chan c).frames with
  | [] => .next (s.forget i)
  | f :: _ =>
    if (s.chan c).begun then .next (s.writeSlot c f)
    else if (s.chan c).starting || s.chanWrites c then .next (s.retry i)
    else if (s.chan c).clearing then .next ((s.clearCmd c).retry i)
    else
      let bad := s.awaitsBad i 0
      .next (s.await i 0 (s.blockReads c) fun s => s.publish c f bad)

/-- LOSS_SLOT_WRITE (R412, R414): a channel that runs and has lost frames writes LC into a slot as soon as one is free, between frames; WIDX
moves with it. -/
def execLossSlotWrite (c : Nat) (s : State) : Host.Outcome State Fault Refusal :=
  let i := Instr.lossSlotWrite c
  let x := s.chan c
  let moved : State → State := fun s => s.onIngress c fun x => { x with widx := x.widx + 1 }
  if s.awaits i 0 then .next (s.await i 0 [] moved)
  else if x.begun = true ∨ x.clearing = true ∨ x.state ≠ chRun ∨ x.lc = 0#32 ∨ x.free = 0 then .next s
  else match s.slotStores c 1 0 4 x.lc.toNat with
    | .ok rs => .next ((s.onIngress c fun x => { x with lc := 0 }).await i 0 rs moved)
    | .error e => .next (if e.holds then s.retry i else s.onIngress c fun x => x.fail 2)

/-- The read that enabling makes (R410, R413): RUN from RIDX, and CMD is acted on (R415); or ERROR. A walk holds the channel in STOP until
the next poll. -/
def State.enableChan (s : State) (c : Nat) (bad : Bool) : State :=
  match s.readBlock c bad with
  | .held => s
  | .fault => s.onIngress c fun x => x.fail 2
  | .read ridx w => (s.onIngress c fun x => x.run ridx).actOn c ridx w

/-- A poll of a channel that does not stand still (R410, R415); slots that have become free take a LOSS (R414). -/
def State.pollChan (s : State) (c : Nat) (bad : Bool) : State :=
  match s.readBlock c bad with
  | .held => s
  | .fault => s.onIngress c fun x => x.fail 2
  | .read ridx w => (s.actOn c ridx w).laterOnce (.lossSlotWrite c)

/-- ICB_POLL (R407, R410): once a microsecond an enabled channel reads its control block, between frames (R413); the first read after
EN = 1 is the one that enabling makes. -/
def execIcbPoll (c : Nat) (s : State) : Host.Outcome State Fault Refusal :=
  let i := Instr.icbPoll c
  let x := s.chan c
  if x.en = false ∨ s.chanWrites c = true then .next (s.forget i)
  else if x.clearing then .next (s.clearCmd c)
  else
    let bad := s.awaitsBad i 0
    .next (s.await i 0 (s.blockReads c) fun s => if x.starting then s.enableChan c bad else s.pollChan c bad)

/-- The channel stops (R413): what its steps wait for is forgotten. -/
def State.stopChan (s : State) (c : Nat) : State :=
  (((s.onIngress c Ingress.stop).forget (.framePublish c)).forget (.lossSlotWrite c)).forget (.icbPoll c)

/-- INGRESS_ENABLE (R14, R409, R413): a write to the word at 0x00 of a channel. While STATE is not STOP only an EN of 0
counts. -/
def execIngressEnable (c : Nat) (value : Word) (s : State) : Host.Outcome State Fault Refusal :=
  let en := value.getLsbD 31
  if s.variant.ethin = false then .next s
  else if (s.chan c).state ≠ chStop then .next (if en then s else s.stopChan c)
  else
    let n := (value.extractLsb' 24 5).toNat
    let s := (if en then s.forget (.icbPoll c) else s.stopChan c).onIngress c fun x => { x with
      en := en
      port := value.extractLsb' 29 2
      log2n := BitVec.ofNat 5 (min (max n 4) 16)
      ctx := value.extractLsb' 12 12 }
    .next (if en then s.later [.icbPoll c] else s)

/-- INGRESS_STOP (R413): EN is written 0. -/
def execIngressStop (c : Nat) (s : State) : Host.Outcome State Fault Refusal :=
  .next (if s.variant.ethin then s.stopChan c else s)

end Sys2Proof.Machine
end

