-- ==== Sys2Proof/Machine/Management.lean ====
section
/-!
DEFINITION. The management core and its registers (26): boot, measurement and attestation (R417, R418, R421), hot patches
(R419, R420), sampling (R423), the debug stop (R424, R425), the register space (R416) and reset.
-/
namespace Sys2Proof.Machine
open Sys2Proof

/-! ### Measurement registers (R418) -/

/-- Extend MRi with a digest (R418). -/
def State.extendMr (s : State) (i : Nat) (d : BitVec 512) : State :=
  { s with worrid := { s.worrid with mr := modifyAt s.worrid.mr i fun m => extendDigest m d } }
/-- Extend MR4 for an arming or a disarming (R418); the digest is a free value. -/
def State.extendArm (s : State) : State :=
  { s with freeCount := s.freeCount + 1 }.extendMr 4 (Config.armDigest s.freeCount)
/-- Worrid runs: an image passed at boot (R417, R420). -/
def Worrid.running (w : Worrid) : Bool := w.bootStat == 1#2 || w.bootStat == 2#2

/-! ### Power-up and reset (R61, R393, R417) -/

/-- POWER_UP (R61, R406, R407, R417, R418): everything is at its reset value, the boot ROM measures itself and the image it
starts, and the fuses. Outside events that are due stay due. -/
def execPowerUp (boot : BootInput) (s : State) : Host.Outcome State Fault Refusal :=
  let s0 := { State.resetOf s.variant with agenda := s.agenda, freeCount := s.freeCount }
  let s1 := (s0.extendMr 0 boot.romDigest).extendMr 3 boot.fuseDigest
  let start := fun (slot : BootSlot) (stat : BitVec 2) =>
    let t := s1.extendMr 1 slot.digest
    { t with worrid := { t.worrid with wver := slot.version, bootStat := stat } }
  .next (if boot.slotA.verified then start boot.slotA 1 else if boot.slotB.verified then start boot.slotB 2
    else { s1 with worrid := { s1.worrid with bootStat := 3 } })

/-- A key of the scratchpad, a tile slot or an accumulator: what a quadrant holds (log 4). -/
def isQuadKey (k : Nat) : Bool := decide (4 * 2 ^ 64 ≤ k ∧ k < 6 * 2 ^ 64)

/-- DEVICE_RESET (R327, R371, R393): every unit is at its reset value. What only a power-up starts anew stays: UC, `$time`, the
measurement registers and the firmware; so do the contents of memory, the seals and what has been retired or lost (log 15). What the
quadrants hold is as a rinse leaves it, so that no VD sees another's (R90, R376). -/
def execDeviceReset (s : State) : Host.Outcome State Fault Refusal :=
  .next { State.resetOf s.variant with
    agenda := s.agenda
    mem := s.mem.filter fun c => !isQuadKey c.1
    sealed := s.sealed, hbm := s.hbm, badLines := s.badLines, spares := s.spares, lostCores := s.lostCores
    tier2Gone := s.tier2Gone, deviceId := s.deviceId, peersOn := s.peersOn, tcm := s.tcm, worrid := s.worrid
    uc := s.uc, sec := s.sec, ns := s.ns, msgs := s.msgs, nextId := s.nextId, freeCount := s.freeCount }

/-! ### Hot patches (R419, R420) -/

/-- PATCH_GO (R419, R420): GO with the image that PADDR names. -/
def execPatchGo (image : PatchImage) (s : State) : Host.Outcome State Fault Refusal :=
  let w := s.worrid
  let put := fun (w : Worrid) => Host.Outcome.next { s with worrid := w }
  if w.running = false then .next s
  else if w.pstat = 1#3 then put { w with busy := true }
  else if image.signed = false then put { w with pstat := 3 }
  else if image.base ≠ w.wver then put { w with pstat := 4 }
  else put { w with pstat := 1, staged := some ⟨image, s.uc.toNat⟩ }

/-- The table with entries replaced. -/
def replaceEntries (table new : List (BitVec 8 × BitVec 32)) : List (BitVec 8 × BitVec 32) :=
  new.foldl (fun t e => t.filter (fun x => x.1 != e.1) ++ [e]) table

/-- A function that the image lists has an activation in progress (R419). -/
def State.patchBlocked (s : State) (g : Staged) : Bool := g.image.inactive.any (Config.functionActive s.uc.toNat)

/-- PATCH_COMMIT (R419): the swap, WVER and MR2 in one step, within 10 ms and once no listed function has an activation in progress. -/
def execPatchCommit (s : State) : Host.Outcome State Fault Refusal :=
  match s.worrid.staged with
  | none => .next s
  | some g =>
    if s.patchBlocked g || s.patchLate then .next s
    else
    let s := { s with worrid := { s.worrid with
      table := replaceEntries s.worrid.table g.image.entries, wver := g.image.version, pstat := 2, staged := none } }
    .next (s.extendMr 2 g.image.digest)

/-- PATCH_ABANDON (R419): the 10 ms of the hand-over are over. -/
def execPatchAbandon (s : State) : Host.Outcome State Fault Refusal :=
  .next (if s.patchLate then { s with worrid := { s.worrid with pstat := 5, staged := none } } else s)

/-! ### WEXT and attestation (R418, R420, R421) -/

/-- WEXT (R418, R420): a digest extends MR(5 + i); i = 3 is ignored. -/
def execWext (index : BitVec 2) (digest : BitVec 512) (s : State) : Host.Outcome State Fault Refusal :=
  .next (if index = 3#2 then s else s.extendMr (5 + index.toNat) digest)

/-- GET_MEASUREMENTS (R421): blocks 1 to 8 are MR0 to MR7, block 9 the hand-over record, zero unless a patch is staged. -/
def execGetMeasurements (s : State) : Host.Outcome State Fault Refusal :=
  if s.worrid.running = false then .next s
  else
    let w := s.worrid
    let sig := Config.signature s.freeCount
    let m := match w.staged with
      | some g => Msg.measurements w.mr true g.image.base g.image.version g.image.digest sig
      | none => Msg.measurements w.mr false 0 0 0 sig
    .next ({ s with freeCount := s.freeCount + 1 }.tell m)

/-! ### Sampling (R423) -/

/-- SAMPLING_ARM (R418, R423): a VD's sample control; arming and disarming extend MR4. -/
def execSamplingArm (vd : Nat) (ring : DWord) (log2n : BitVec 5) (interval : Word) (s : State) :
    Host.Outcome State Fault Refusal :=
  let was := match s.vd? vd with | some v => decide (v.interval ≠ 0#32) | none => false
  let s1 := s.onVd vd fun v => { v with ring := ring, log2n := log2n, interval := interval }
  .next (if was ≠ decide (interval ≠ 0#32) then s1.extendArm else s1)

/-- The memory level of a sampled instruction (R423): by the space of a request it has in flight; a free value says whether a
line of device memory or the second tier was found in the common store, where that has a cache partition (R308). -/
def sampleLevelOf (s : State) (q : Nat) (t : Tagged) (free : Nat) : Nat :=
  match s.reqs.find? (fun r => r.gid == t.gid && r.seq == t.seq && r.kind != .account) with
  | none => 0
  | some r => match r.space with
    | .scratch => 1
    | .common =>
      let bay := s.bankNo r.addr / 64
      if bay = q / 4 / 4 then 2 else if bay / 12 = q / 4 / 48 then 3 else 4
    | .device => if free % 4 = 0 ∨ 64 ≤ s.cstore.abanks then 5 else 1 + free % 4
    | .tier2 => if free % 4 = 0 ∨ 64 ≤ s.cstore.abanks then 6 else 1 + free % 4
    | .far | .peer _ => 7

/-- The execute time of a tagged instruction where the spec fixes it (R142, R426): from sampling to the cycle of its result's write. -/
def sampleExecute (s : State) (t : Tagged) : Option Nat :=
  (s.gang? t.gid).bind fun g => (g.results.find? fun r => r.seq == t.seq && r.pc == t.pc && r.exactDue).map fun r => r.due - t.sample

/-- The five cycle counts of a sample record (R423): fetch, issue wait, operand collection, execute, write-back. Collection is what R141
makes it, execution what R142 fixes; the others are free values. -/
def sampleCounts (s : State) (t : Tagged) : Nat :=
  let free := (Config.sampleCycles s.freeCount).toNat
  let put := fun (n v : Nat) => v % 2 ^ 16 * 2 ^ (16 * n)
  put 0 free + put 1 (free / 2 ^ 16) + put 2 (t.sample - t.issue) + put 3 ((sampleExecute s t).getD (free / 2 ^ 48)) + put 4 (free / 2 ^ 64)

/-- The 64 bytes of a sample record (R423). -/
def sampleBits (s : State) (q : Nat) (t : Tagged) : Nat :=
  t.pc.toNat + t.grid.toNat * 2 ^ 64 + t.team % 2 ^ 32 * 2 ^ 96 + (t.gidx % 2 ^ 9 + q * 2 ^ 16) * 2 ^ 128
    + sampleCounts s t * 2 ^ 160 + sampleLevelOf s q t (Config.sampleLevel s.freeCount) * 2 ^ 240
    + t.joint * 2 ^ 248 + t.phase % 2 ^ 32 * 2 ^ 256

/-- SAMPLE_RECORD (R423): the record of the tagged instruction; the next is tagged after 1 to 2·INTERVAL issues. -/
def execSampleRecord (q : Nat) (s : State) : Host.Outcome State Fault Refusal :=
  let x := s.quad q
  match x.tagged, (s.ownerOf q).bind s.vd? with
  | some t, some v =>
    let vd := (s.ownerOf q).getD 0
    let at_ := v.ring.toNat + 64 * (v.index.toNat % 2 ^ v.log2n.toNat)
    let n := 1 + Config.sampleCount s.freeCount % max (2 * v.interval.toNat) 1
    let s1 := (s.post (dispatcherFor noCtx) at_ 64 (sampleBits s q t)).onVd vd fun v => { v with index := v.index + 1 }
    .next { s1.onQuad q fun x => { x with tagged := none, untilTag := n } with freeCount := s.freeCount + 1 }
  | _, _ => .next (s.onQuad q fun x => { x with tagged := none })

/-! ### The debug stop (R424, R425) -/

/-- The team that DBGCTL, GRIDSEQ and TEAM select (R424). -/
def State.debugTeam (s : State) : Option Team :=
  s.teams.find? fun t => !t.stowed && decide (t.index = s.dbg.team.toNat) && (match s.grid? t.grid with
    | some x => decide (x.ctx = s.dbg.ctx.toNat ∧ x.seq % 2 ^ 26 = s.dbg.gridSeq.toNat % 2 ^ 26)
    | none => false)

/-- DEBUG_ARM (R418, R424): a write to DBGCTL. -/
def execDebugArm (value : Word) (s : State) : Host.Outcome State Fault Refusal :=
  let arm := value.getLsbD 31
  let s1 := { s with dbg := { s.dbg with arm := arm, ctx := value.extractLsb' 0 12 } }
  let s2 := if arm ≠ s.dbg.arm then s1.extendArm else s1
  .next (s2.later ((if value.getLsbD 30 then [.teamStop] else []) ++ (if value.getLsbD 29 then [.teamResume] else [])))

/-- TEAM_STOP (R424, R425). -/
def execTeamStop (s : State) : Host.Outcome State Fault Refusal :=
  match s.debugTeam with
  | some t => .next (stopTeam s t.id)
  | none => .next s

/-- TEAM_RESUME (R424, R425): each gang goes on at the boundary where it halted. -/
def execTeamResume (s : State) : Host.Outcome State Fault Refusal :=
  .next { s with
    gangs := s.gangs.map fun (g : Gang) => { g with stopped := false }
    dbg := { s.dbg with stopped := false } }

/-! ### The register space (R416) -/

/-- Replace word n of a bit vector of several words. -/
def putWord {w : Nat} (x : BitVec w) (n : Nat) (v : Word) : BitVec w :=
  BitVec.ofNat w (x.toNat - bitsOf x.toNat (32 * n) 32 * 2 ^ (32 * n) + v.toNat * 2 ^ (32 * n))

/-- What a write to a register comes to: a step of its own, or a new state. -/
abbrev RegOut := Host.Outcome State Fault Refusal

/-- The rate block (R41 to R45). -/
def writeRate (s : State) (o : Nat) (v : Word) : RegOut :=
  if o = 0 then execPwrcapWrite v s
  else if o = 4 then execRatefloorWrite v s
  else if o = 8 then .next { s with rate := { s.rate with capadj := s.rate.capadj && !v.getLsbD 2 } }
  else if 0x100 ≤ o ∧ o < 0x200 then execVdshareWrite ((o - 0x100) / 4) v s
  else .next s

/-- The common-store block (R305, R306). -/
def writeCommon (s : State) (o : Nat) (v : Word) : RegOut :=
  if o = 0 then execCspartWrite v s
  else if o = 4 then .next { s with cstore := { s.cstore with
    busy := s.cstore.busy && !v.getLsbD 1, cfgerr := s.cstore.cfgerr && !v.getLsbD 0 } }
  else .next s

/-- The host-link block (R402). -/
def writeLink (s : State) (o : Nat) (v : Word) : RegOut :=
  if o = 0 then .next { s with link := { s.link with fto := v.extractLsb' 0 6 } }
  else if o = 8 then (if v.getLsbD 0 then execResume s else .next s)
  else if o = 0xC then .next { s with link := { s.link with hmwSize := v.extractLsb' 10 22, hmwBase := v.extractLsb' 0 10 } }
  else .next s

/-- A log header by words (R422). -/
def LogHeader.write (h : LogHeader) (n : Nat) (v : Word) : LogHeader :=
  match n with
  | 0 => { h with ering := putWord h.ering 0 v }
  | 1 => { h with ering := putWord h.ering 1 v }
  | 2 => { h with elen := v }
  | 3 => { h with eidx := v }
  | 4 => { h with cring := putWord h.cring 0 v }
  | 5 => { h with cring := putWord h.cring 1 v }
  | 6 => { h with clen := v }
  | 7 => { h with cidx := v }
  | _ => h

/-- The memory block (R391, R396, R422). -/
def writeMemory (s : State) (o : Nat) (v : Word) : RegOut :=
  if o = 0 then (if v.getLsbD 31 then execMendGo (v.extractLsb' 0 4).toNat s else .next s)
  else if o = 4 then .next { s with mend := { s.mend with refused := s.mend.refused && !v.getLsbD 30 } }
  else if 0x40 ≤ o ∧ o < 0x80 then .next { s with devLog := s.devLog.write ((o - 0x40) / 4) v }
  else .next s

/-- A channel's registers while it is in STOP (R409). -/
def Ingress.write (x : Ingress) (o : Nat) (v : Word) : Ingress :=
  match o with
  | 0x04 => { x with etype := v.extractLsb' 0 16 }
  | 0x08 => { x with ring := putWord x.ring 0 v }
  | 0x0C => { x with ring := putWord x.ring 1 v }
  | 0x10 => { x with icb := putWord x.icb 0 v }
  | 0x14 => { x with icb := putWord x.icb 1 v }
  | _ => x

/-- The ingress block (R14, R409). -/
def writeIngress (s : State) (o : Nat) (v : Word) : RegOut :=
  let c := o / 0x20
  if 16 ≤ c then .next s
  else if o % 0x20 = 0 then execIngressEnable c v s
  else if s.variant.ethin = false ∨ (s.chan c).state ≠ chStop then .next s
  else .next (s.onIngress c fun x => x.write (o % 0x20) v)

/-- A VD's descriptor (R369). -/
def writeVd (s : State) (o : Nat) (v : Word) : RegOut :=
  let vd := o / 0x100
  let f := o % 0x100
  if f < 0x60 then .next ((s.onVd vd fun d => { d with quads := putWord d.quads (f / 4) v }).claimQuads.later [.admissionStep])
  else if f = 0x60 then .next (s.onVd vd fun d => { d with weight := v.extractLsb' 24 8, dlq := v.extractLsb' 0 16 })
  else if f = 0x64 then execQuantumWrite vd v s
  else if f = 0x6C then .next (s.onVd vd fun d => { d with qzero := d.qzero && !v.getLsbD 1, qadj := d.qadj && !v.getLsbD 0 })
  else if f = 0x70 then .next (s.onVd vd fun d => { d with gqt := putWord d.gqt 0 v })
  else if f = 0x74 then .next (s.onVd vd fun d => { d with gqt := putWord d.gqt 1 v })
  else .next s

/-- The host queue table (R372); only nonzero entries are listed. DESIGN CHOICE (log 31): bits 30:28 and 21:10, of which R372 says
nothing, are stored and read back. -/
def writeHqt (s : State) (o : Nat) (v : Word) : RegOut :=
  let n := o / 4
  let rest := s.hqt.filter fun e => e.1 != n
  .next { s with hqt := if v = 0#32 then rest else rest ++ [(n, v)] }

/-- A VD's sample control by words (R423). -/
def writeSample (s : State) (o : Nat) (v : Word) : RegOut :=
  let vd := o / 0x20
  match s.vd? vd with
  | none => .next s
  | some d =>
    match o % 0x20 with
    | 0x00 => execSamplingArm vd (putWord d.ring 0 v) d.log2n d.interval s
    | 0x04 => execSamplingArm vd (putWord d.ring 1 v) d.log2n d.interval s
    | 0x08 => execSamplingArm vd d.ring (v.extractLsb' 0 5) d.interval s
    | 0x0C => execSamplingArm vd d.ring d.log2n v s
    | 0x10 => .next (s.onVd vd fun d => { d with index := v })
    | _ => .next s

/-- The Worrid block (R420, R423, R424). DESIGN CHOICE (log 31): the extend of WEXT acts with the write of its last word, at 0x080, with
the digest words as they were last written. -/
def writeWorrid (s : State) (o : Nat) (v : Word) : RegOut :=
  let w := s.worrid
  if o = 0x008 then
    (if v.getLsbD 0 then execPatchGo (Config.patchImage w.paddr.toNat (s.mem.filter fun c => decide (c.1 < 2 ^ 64))) s else .next s)
  else if o = 0x00C then .next { s with worrid := { w with busy := w.busy && !v.getLsbD 3 } }
  else if o = 0x010 then .next { s with worrid := { w with paddr := putWord w.paddr 0 v } }
  else if o = 0x014 then .next { s with worrid := { w with paddr := putWord w.paddr 1 v } }
  else if 0x040 ≤ o ∧ o < 0x080 then .next { s with worrid := { w with wext := putWord w.wext ((o - 0x40) / 4) v } }
  else if o = 0x080 then execWext (v.extractLsb' 0 2) w.wext s
  else if o = 0x300 then execDebugArm v s
  else if o = 0x304 then .next { s with dbg := { s.dbg with gridSeq := v } }
  else if o = 0x308 then .next { s with dbg := { s.dbg with team := v } }
  else if o = 0x310 then .next { s with dbg := { s.dbg with dump := putWord s.dbg.dump 0 v } }
  else if o = 0x314 then .next { s with dbg := { s.dbg with dump := putWord s.dbg.dump 1 v } }
  else if 0x400 ≤ o ∧ o < 0xC00 then writeSample s (o - 0x400) v
  else .next s

/-- REGISTER_WRITE (R3, R4, R416): a write to an offset that no block defines, or that is no multiple of 4, is ignored. -/
def execRegisterWrite (offset : Nat) (value : Word) (s : State) : Host.Outcome State Fault Refusal :=
  if offset % 4 ≠ 0 then .next s
  else if offset < 0x1000 then writeRate s offset value
  else if offset < 0x2000 then writeCommon s (offset - 0x1000) value
  else if offset < 0x4000 then writeLink s (offset - 0x2000) value
  else if offset < 0x8000 then writeMemory s (offset - 0x4000) value
  else if offset < 0x10000 then writeIngress s (offset - 0x8000) value
  else if offset < 0x14000 then writeVd s (offset - 0x10000) value
  else if offset < 0x15000 then writeHqt s (offset - 0x14000) value
  else if offset < 0x20000 then .next s
  else if offset < 0x22000 then (if offset % 8 = 0 then execQueueNotify ((offset - 0x20000) / 8) value s else .next s)
  else if offset < 0x40000 then .next s
  else if offset < 0x80000 then
    (if offset % 8 = 0 ∧ offset % 0x1000 < 0x800 then execGuestNotify ((offset - 0x40000) / 0x1000) (offset % 0x1000 / 8) value s
     else .next s)
  else writeWorrid s (offset - 0x80000) value

/-! ### What the registers read (R3, R4, R416) -/

/-- A bit at a place. -/
def bitAt (b : Bool) (n : Nat) : Nat := if b then 2 ^ n else 0

/-- A word of a channel's registers (R14, R409). -/
def Ingress.readWord (x : Ingress) (o : Nat) : Nat :=
  match o with
  | 0x00 => bitAt x.en 31 + x.port.toNat * 2 ^ 29 + x.log2n.toNat * 2 ^ 24 + x.ctx.toNat * 2 ^ 12
  | 0x04 => x.etype.toNat
  | 0x08 => bitsOf x.ring.toNat 0 32
  | 0x0C => bitsOf x.ring.toNat 32 32
  | 0x10 => bitsOf x.icb.toNat 0 32
  | 0x14 => bitsOf x.icb.toNat 32 32
  | 0x18 => x.widx.toNat
  | 0x1C => x.state.toNat * 2 ^ 30 + x.ecode.toNat * 2 ^ 24 + x.drops.toNat
  | _ => 0

/-- A word of a VD's descriptor (R369). -/
def VD.readWord (v : VD) (o : Nat) : Nat :=
  if o < 0x60 then bitsOf v.quads.toNat (8 * o) 32
  else match o with
    | 0x60 => v.weight.toNat * 2 ^ 24 + v.dlq.toNat
    | 0x64 => v.quantum.toNat
    | 0x68 => v.qeff.toNat
    | 0x6C => bitAt v.qzero 1 + bitAt v.qadj 0
    | 0x70 => bitsOf v.gqt.toNat 0 32
    | 0x74 => bitsOf v.gqt.toNat 32 32
    | 0x78 => v.qmiss.toNat
    | _ => 0

/-- A word of the Worrid block (R420, R423, R424). -/
def State.readWorrid (s : State) (o : Nat) : Nat :=
  let w := s.worrid
  if o = 0x000 then w.wver.toNat
  else if o = 0x004 then w.bootStat.toNat
  else if o = 0x00C then bitAt w.busy 3 + w.pstat.toNat
  else if o = 0x010 then bitsOf w.paddr.toNat 0 32
  else if o = 0x014 then bitsOf w.paddr.toNat 32 32
  else if 0x100 ≤ o ∧ o < 0x300 then bitsOf (w.mr.getD ((o - 0x100) / 64) 0).toNat (8 * ((o - 0x100) % 64)) 32
  else if o = 0x300 then bitAt s.dbg.arm 31 + bitAt s.dbg.stopped 28 + s.dbg.ctx.toNat
  else if o = 0x304 then s.dbg.gridSeq.toNat
  else if o = 0x308 then s.dbg.team.toNat
  else if o = 0x310 then bitsOf s.dbg.dump.toNat 0 32
  else if o = 0x314 then bitsOf s.dbg.dump.toNat 32 32
  else if 0x400 ≤ o ∧ o < 0xC00 then
    let v := (s.vd? ((o - 0x400) / 0x20)).getD VD.reset
    match o % 0x20 with
    | 0x00 => bitsOf v.ring.toNat 0 32
    | 0x04 => bitsOf v.ring.toNat 32 32
    | 0x08 => v.log2n.toNat
    | 0x0C => v.interval.toNat
    | 0x10 => v.index.toNat
    | _ => 0
  else 0

/-- A word of the device log's header (R422). -/
def LogHeader.readWord (h : LogHeader) (n : Nat) : Nat :=
  match n with
  | 0 => bitsOf h.ering.toNat 0 32
  | 1 => bitsOf h.ering.toNat 32 32
  | 2 => h.elen.toNat
  | 3 => h.eidx.toNat
  | 4 => bitsOf h.cring.toNat 0 32
  | 5 => bitsOf h.cring.toNat 32 32
  | 6 => h.clen.toNat
  | 7 => h.cidx.toNat
  | _ => 0

/-- What the host reads at an offset of the register space (R416): fields that are WO or RSV, and offsets that no block
defines, read as zero. DESIGN CHOICE (log 31): a read at an offset that is no multiple of 4 gives the word that the block's own
arithmetic reaches, and a notify register or window reads as zero. -/
def State.registerRead (s : State) (offset : Nat) : Word :=
  let o := offset
  BitVec.ofNat 32 <|
    if o = 0x000 then s.rate.capw.toNat
    else if o = 0x004 then s.rate.floor.toNat
    else if o = 0x008 then s.rate.clamps.toNat * 2 ^ 16 + s.rate.overrun * 2 ^ 8 + bitAt s.rate.capadj 2 + bitAt s.rate.clamp 1
    else if o = 0x00C then s.rate.pmeas.toNat
    else if o = 0x010 then s.rate.devRate.toNat
    else if 0x100 ≤ o ∧ o < 0x200 then ((s.vd? ((o - 0x100) / 4)).getD VD.reset).sharew.toNat
    else if o = 0x1000 then s.cstore.abanks
    else if o = 0x1004 then bitAt s.cstore.busy 1 + bitAt s.cstore.cfgerr 0
    else if o = 0x2000 then s.link.fto.toNat
    else if o = 0x2004 then bitAt s.link.up 31 + bitAt s.link.farDown 30 + s.link.cause.toNat * 2 ^ 28 + s.link.herrs.toNat
    else if o = 0x200C then s.link.hmwSize.toNat * 2 ^ 10 + s.link.hmwBase.toNat
    else if o = 0x4004 then bitAt s.mend.act 31 + bitAt s.mend.refused 30 + s.mend.next
    else if 0x4040 ≤ o ∧ o < 0x4080 then s.devLog.readWord ((o - 0x4040) / 4)
    else if 0x5000 ≤ o ∧ o < 0x8000 then ((s.miss.find? fun m => m.1 == (o - 0x5000) / 4).map (·.2.toNat)).getD 0
    else if 0x8000 ≤ o ∧ o < 0x8200 then
      (if s.variant.ethin then (s.chan ((o - 0x8000) / 0x20)).readWord (o % 0x20) else 0)
    else if 0x10000 ≤ o ∧ o < 0x14000 then ((s.vd? ((o - 0x10000) / 0x100)).getD VD.reset).readWord (o % 0x100)
    else if 0x14000 ≤ o ∧ o < 0x15000 then ((s.hqt.find? fun e => e.1 == (o - 0x14000) / 4).map (·.2.toNat)).getD 0
    else if 0x80000 ≤ o then s.readWorrid (o - 0x80000)
    else 0

end Sys2Proof.Machine
end

