-- ==== Sys2Proof/Machine/Scheduler.lean ====
section
/-!
DEFINITION. The quadrant scheduler (R36, R232 to R237): which gang issues, from which ports, and when its operands are sampled
(R141); the instruction cache (R281); the returns of results and requests (R142, R143, R427), the end of a walk (R89) and of a
sleep (R250); and what the machine does next: an issue of a fetch port, work that falls due, or the work that follows (log 1).
-/
namespace Sys2Proof.Machine
open Sys2Proof

/-! ### The instruction cache (R281) -/

/-- The lines of 128 bytes that hold an instruction, and where each lies. -/
def State.fetchLines (s : State) (d : ContextDesc) (pc : Nat) : List (Nat × Place) :=
  ([pc / 128, (pc + 11) / 128].eraseDups).filterMap fun l =>
    (s.translate d (128 * l)).toOption.map fun p => (keyOf p.space p.addr / 128, p)
/-- Lines of the instruction cache (R281). -/
def icacheLines : Nat := 512

/-- Lines used now stand first; what is beyond the last line leaves (R281). -/
def Quad.useLines (x : Quad) (ls : List Nat) : Quad :=
  { x with icache := (ls ++ x.icache.filter fun e => !ls.contains e).take icacheLines }

/-- A controller has still to serve the load of a line of 128 bytes for a quadrant. -/
def State.lineWaits (s : State) (q line : Nat) : Bool :=
  s.reqs.any fun r => r.kind == .account && r.quad == q && r.reads && r.accs.any fun a => a.key / 128 == line

/-- Lines whose load has ended are in the cache. -/
def State.takeFills (s : State) (q : Nat) : State :=
  s.onQuad q fun x =>
    let here := x.fills.filter fun f => decide (f.2 ≤ x.cycle) && !s.lineWaits q f.1
    { x.useLines (here.map (·.1)) with fills := x.fills.filter fun f => !here.contains f }

/-- A fetch uses the lines of its instruction that the cache holds (R281). -/
def State.useFetched (s : State) (q : Nat) (ls : List (Nat × Place)) : State :=
  s.onQuad q fun x => x.useLines ((ls.map (·.1)).filter x.icache.contains)

/-- A miss: the lines that are neither in the cache nor on their way are loaded (R281), and the controllers account for the loads
(R52, R389); those that are held are used. -/
def State.loadLines (s : State) (g : Gang) (q : Nat) (ls : List (Nat × Place)) : State :=
  let x := s.quad q
  let new := ls.filter fun l => !x.icache.contains l.1 && !x.fills.any (fun f => f.1 == l.1)
  let s1 := (s.useFetched q ls).onQuad q fun x => { x with fills := x.fills ++ new.map fun l => (l.1, x.cycle + s.loadTime q l.2) }
  match s.gridOf g with
  | some gr => if new.isEmpty then s1 else s1.bookReads g gr (new.flatMap fun l => [(128 * l.1, l.2.own), (128 * l.1 + 64, l.2.own)])
  | none => s1

/-- What the fetch finds at an address: a trap or a park of the fetch itself, lines that are not in the cache, a word that is no
instruction, or an instruction. -/
inductive Peek where
  | trap
  | miss
  | illegal
  | instr (i : Instr)
  deriving DecidableEq, Repr

/-- The fetch of a quadrant at an address of a context (R148, R281). -/
def State.peek (s : State) (q : Nat) (d : ContextDesc) (pc : Nat) : Peek :=
  match s.fetchBytes d pc with
  | .bytes bs =>
    if (s.fetchLines d pc).all fun l => (s.quad q).icache.contains l.1 then
      match decode (wordOfBytes bs) with
      | .ok i => .instr i
      | .error _ => .illegal
    else .miss
  | _ => .trap

/-! ### What holds an instruction (R36, R224, R290, R330, R363) -/

/-- What a fence waits for is not complete (R95, R106, R224, R229): loads have returned, stores and atomics are acknowledged (R427),
acquires are performed, seals have taken effect, commands have ended. -/
def State.holdWaits (s : State) (g : Gang) (h : Hold) : Bool :=
  let mine := fun (r : Req) => r.gid == g.gid && decide (r.seq < h.before)
  (h.loads && (g.results.any (fun r => r.waitsReqs && decide (r.seq < h.before)) || s.reqs.any fun r => mine r && !r.served &&
    (match r.kind with | .load | .atomic _ _ => true | _ => false))) ||
  (h.stores && s.reqs.any fun r => mine r && (match r.kind with | .store | .atomic _ _ => true | _ => false)) ||
  (h.acqs && s.reqs.any fun r => mine r && !r.served && r.acq) ||
  s.sealing.any (fun x => x.gid == g.gid) ||
  s.cmds.any fun k => k.gid == g.gid && decide (k.seq < h.before) && h.paths.getLsbD k.op.path

/-- The fences of a gang that are not complete. -/
def State.openHolds (s : State) (g : Gang) : List Hold := g.holds.filter (s.holdWaits g)

/-- A store or atomic, which FENCE `.st` holds (R223, R276). -/
def storesNow (i : Instr) : Bool :=
  match i with | .st _ | .sts _ | .stp _ | .atom _ | .atoms _ | .stsh _ => true | _ => false
/-- What a fence counts as a memory-class instruction: STSH and LDSH too (R276). -/
def memoryClass (i : Instr) : Bool :=
  decide (i.cls = .memory) || (match i with | .stsh _ | .ldsh _ => true | _ => false)

/-- A fence holds the instruction (R223, R224). -/
def fenceHeld (holds : List Hold) (i : Instr) : Bool :=
  holds.any fun h => (h.holdLoads && memoryClass i) || (h.holdStores && storesNow i)
    || (h.holdEngine && decide (i.cls = .engine))

/-- A queue that a gang's commands go to is full: the gang issues no engine-class instruction (R290, R312, R330). -/
def State.queueFull (s : State) (g : Gang) : Bool :=
  decide (16 ≤ (s.engineQueue (stagerOf g)).length) || decide (8 ≤ (s.engineQueue (nestOf g)).length)
    || decide (64 ≤ (s.engineQueue (blockOf g)).length) || decide (32 ≤ (s.engineQueue (bankOfGang g)).length)
    || decide (16 ≤ (s.matQueue g.quad).length)

/-- The buffer of the pool has no room for the records of a DEFER (R363). -/
def State.poolFull (s : State) (g : Gang) (i : Instr) (mask : Lanes) : Bool :=
  match i, s.gridOf g with
  | .defer _, some x =>
    (match s.poolOf x with
     | some p => decide (p.rcap < p.records.length + mask.count)
     | none => false)
  | _, _ => false

/-- Guard and hints of an instruction; those of an unguarded one for a step of an engine. -/
def instrHead (i : Instr) : Head := match i.fields with | some r => r.head | none => ⟨⟨false, 7#3⟩, ⟨false, false, false, false, false⟩⟩

/-- The instructions that perform at issue an access, or a release, that the earlier accesses of their gang come before (R95, R105,
R108, R289, R382). -/
def actsAtIssue (g : Gang) (i : Instr) : Bool :=
  match i with
  | .ldsh _ | .launch _ | .jarrive _ | .regx _ | .acopy _ | .afill _ | .bcopy _ | .nest _ | .nestr _ | .nestq _ | .bankop _
  | .bankred _ | .coll _ | .cres _ | .tdrain _ | .tsave _ | .trest _ => true
  | .hset _ | .hget _ => !g.holds.isEmpty
  | .tret _ => g.fromRestore
  | _ => false

/-- The instructions of other classes that a FENCEX or a seal comes before: a release at a joint (R95), and accesses on path C
(R106). -/
def afterFencex (i : Instr) : Bool :=
  match i with | .jarrive _ | .regx _ | .launch _ | .hset _ | .hget _ => true | _ => false

/-- A fence that is not complete waits for commands or seals of the gang. DEDUCED (log 32): the release of a JARRIVE and the C-path
access of an HSET, HGET or LAUNCH behind it wait too, since the FENCEX comes before them (R95, R106). -/
def State.fencexHeld (s : State) (g : Gang) (holds : List Hold) (i : Instr) : Bool :=
  afterFencex i && holds.any fun h => s.sealing.any (fun x => x.gid == g.gid) ||
    s.cmds.any fun k => k.gid == g.gid && decide (k.seq < h.before) && h.paths.getLsbD k.op.path

/-- A full queue or buffer holds the instruction for these lanes (R36), or what comes before it: an earlier access of the gang that a
repair, a MOVING granule or a link holds, or the commands of a FENCEX. -/
def State.unitHeld (s : State) (g v : Gang) (holds : List Hold) (i : Instr) (lanes : Lanes) : Bool :=
  let mask := lanes &&& guardMask v (instrHead i).guard
  (decide (i.cls = .engine) && s.queueFull g) ||
    (decide (mask ≠ 0#32) && (s.poolFull g i mask || (actsAtIssue g i && s.blocked g.gid) || s.fencexHeld g holds i))

/-! ### The ports (R141, R232, R233) -/

/-- The lanes outside the primary set with the least key among them (R233). -/
def Gang.secondSet (g : Gang) : Lanes :=
  let rest := g.live &&& ~~~g.nextSet
  match g.minLane rest with
  | none => 0#32
  | some k => Lanes.of fun l => rest.getLsbD l && (g.lane l).sameKey (g.lane k)

/-- The instruction performs C-path accesses (R233). -/
def cPath (i : Instr) : Bool :=
  decide (i.cls = .memory) ||
  (match i with
   | .stsh _ | .ldsh _ | .hset _ | .hget _ | .launch _ | .acopy _ | .afill _ | .bcopy _ | .nest _ | .nestr _ | .nestq _
   | .bankop _ | .bankred _ | .coll _ | .cres _ | .tdrain _ | .tsave _ | .trest _ => true
   | _ => false)

/-- The instruction never issues from the secondary port: NOP.join (R245), STSH and LDSH (R276). -/
def primaryOnly (i : Instr) : Bool :=
  match i with
  | .nop x => decide (x.sel = 1#4)
  | .stsh _ | .ldsh _ => true
  | _ => false

/-- The instruction would park the gang for these lanes (R29): SLEEP, a REGX that does not complete its phase (R261), and JWAIT on a
phase that is not complete or while registers are pending (R265). -/
def State.wouldPark (s : State) (g v : Gang) (i : Instr) (lanes : Lanes) : Bool :=
  let mask := lanes &&& guardMask v (instrHead i).guard
  decide (mask ≠ 0#32) &&
  (match i with
   | .sleep _ => true
   | .regx x =>
     (match s.team? g.team with
      | some t => let q := t.joint x.jnt.toNat; decide (q.st = .open_ ∧ q.arr + 1 < q.n)
      | none => false)
   | .jwait x =>
     (match s.team? g.team with
      | some t =>
        let q := t.joint x.jnt.toNat
        decide (q.st = .open_) && (g.pendingCodes.any (fun n => decide (n < 0x200)) ||
          !q.complete ((⟨v, 0#32⟩ : Src).word x.a ((Lanes.lowest mask).getD 0)).toNat)
      | none => false)
   | _ => false)

/-- The secondary port may issue beside the primary (R233). -/
def State.pairs (s : State) (g v : Gang) (holds : List Hold) (i1 i2 : Instr) (lanes : Lanes) : Bool :=
  let named := namedCodes i2 (instrHead i2) v lanes
  decide (i2.cls ≠ i1.cls) && !primaryOnly i2 && !s.wouldPark g v i2 lanes && !(cPath i1 && cPath i2) && !fenceHeld holds i2
    && !s.unitHeld g v holds i2 lanes && !named.any g.pendingCodes.contains

/-- A result writes lane values into a G-line of a bank (R141). -/
def Result.busyBanks (r : Result) : List Nat :=
  r.regs.filterMap fun w =>
    if (match w.exact with | some x => x.shape.isG | none => !fullWidth w.mask || (press w.vals).isG) then some (w.n % 4) else none

/-- Some result of the quadrant whose cycle is known takes one of the banks in a cycle (R141). -/
def State.bankTaken (s : State) (q : Nat) (banks : List Nat) (cycle : Nat) : Bool :=
  s.gangs.any fun g => g.quad == q && g.results.any fun r => r.exactDue && r.due == cycle && r.busyBanks.any banks.contains

/-- The last collection cycle (R141): from cycle c on, `need` cycles are wanted, and a cycle that a write takes is lost. -/
def State.collect (s : State) (q : Nat) (banks : List Nat) : (fuel need c : Nat) → Nat
  | 0, _, c => c
  | fuel + 1, need, c =>
    let need := if s.bankTaken q banks (c + 1) then need else need - 1
    if need = 0 then c + 1 else s.collect q banks fuel need (c + 1)

/-- The cycle in which operands collected from cycle u + 1 on are sampled (R141). -/
def State.sampleCycle (s : State) (q u : Nat) (regs : List Nat) : Nat :=
  let banks := (regs.map (· % 4)).eraseDups
  let k := max ((banks.map fun b => (regs.filter fun n => n % 4 == b).length).foldl max 0) 1
  if banks.isEmpty then u + 1 else s.collect q banks 2048 k u

/-- The ports of one gang in a cycle, none when it is passed over (R36), and the state with the lines it misses on their
way. The secondary instruction beside a TRET is performed before it, since TRET moves its lanes too (R271). DESIGN CHOICE (log 29): the
shapes that decide the count k of R141 are those of cycle u + 1. -/
def State.tryGang (s : State) (q u : Nat) (g : Gang) : State × List Port :=
  match s.contextOf g with
  | none => (s, [])
  | some k =>
    let v := g.viewAt (u + 1)
    let holds := s.openHolds g
    let n := s.issues + 1
    let one := g.nextSet
    let pc1 := (g.setPc one).toNat
    let lines1 := s.fetchLines k.desc pc1
    match s.peek q k.desc pc1 with
    | .trap => (s, [⟨g.gid, one, u + 1, false, 0#32, n⟩])
    | .illegal => (s.useFetched q lines1, [⟨g.gid, one, u + 1, false, 0#32, n⟩])
    | .miss => (s.loadLines g q lines1, [])
    | .instr i1 =>
      let s := s.useFetched q lines1
      if s.unitHeld g v holds i1 one then (s, [])
      else
        let two := if g.serial then 0#32 else g.secondSet
        let pc2 := (g.setPc two).toNat
        let second := if two = 0#32 then Peek.trap else s.peek q k.desc pc2
        let lines2 := s.fetchLines k.desc pc2
        let s := match second with | .miss => s.loadLines g q lines2 | .instr _ => s.useFetched q lines2 | _ => s
        let mate := match second with | .instr i2 => if s.pairs g v holds i1 i2 two then some i2 else none | _ => none
        let held := fenceHeld holds i1
        let regs := (if held then [] else bankRegs i1 v one) ++ (match mate with | some i2 => bankRegs i2 v two | none => [])
        let sample := s.sampleCycle q u regs.eraseDups
        let first := if held then [] else [(⟨g.gid, one, sample, false, if mate.isSome then two else 0#32, n⟩ : Port)]
        let other := if mate.isSome then [(⟨g.gid, two, sample, true, if held then 0#32 else one, n⟩ : Port)] else []
        let ports := if g.hnd && (match i1 with | .tret _ => true | _ => false) then other ++ first else first ++ other
        (s.onGang g.gid fun g => { g with holds := holds }, ports)

/-! ### Which gang issues (R36) -/

/-- The rank of a class in the order of service (R36). -/
def Cls.rank : Cls → Nat
  | .dl => 0 | .hi => 1 | .lo => 2 | .bg => 3

/-- The class of a gang's context, by its grid. -/
def State.rankOf (s : State) (g : Gang) : Nat := match s.gridOf g with | some x => x.cls.rank | none => 4

/-- Gang a comes before gang b: the higher class, the one issued less recently, the lower slot (R36). -/
def State.issuesBefore (s : State) (a b : Gang) : Bool :=
  let x := s.rankOf a
  let y := s.rankOf b
  decide (x < y) || (x == y && (decide (a.lastIssue < b.lastIssue) || (a.lastIssue == b.lastIssue && decide (a.slot < b.slot))))

/-- Insert a gang in the order of R36. -/
def State.insertGang (s : State) (g : Gang) : List Gang → List Gang
  | [] => [g]
  | x :: xs => if s.issuesBefore g x then g :: x :: xs else x :: s.insertGang g xs

/-- The gangs of a quadrant that may issue in a cycle, in the order of R36. -/
def State.candidates (s : State) (q u : Nat) : List Gang :=
  (s.gangs.filter fun g => g.quad == q && g.life == .ready && !g.stopped && decide (g.nextIssue ≤ u) && !g.takesPreempt
    && decide (g.live ≠ 0#32) && !s.ports.any (fun p => p.gid == g.gid) && !s.midIssue g.gid).foldl (fun acc g => s.insertGang g acc) []

/-- The ports of the first candidate that issues. -/
def State.firstIssue (s : State) (q u : Nat) : List Gang → State × List Port
  | [] => (s, [])
  | g :: gs =>
    match s.tryGang q u g with
    | (t, []) => t.firstIssue q u gs
    | r => r

/-- The joint an instruction names, or 0xFF (R423). -/
def jointNamed (i : Instr) : Nat :=
  let cmd := fun (x : HandleArgs) => if x.jnt.toNat = noJoint then 0xFF else x.jnt.toNat
  match i with
  | .jinit x | .jarrive x | .jwait x | .jtest x | .regx x | .acopy x | .afill x | .bcopy x | .nest x | .nestr x | .nestq x
  | .bankop x | .bankred x | .coll x | .cres x | .tdrain x | .tsave x | .trest x | .tzero x | .tmma x | .tmmas x => cmd x
  | _ => 0xFF

/-- The instruction of a port as the fetch finds it. -/
def State.instrAt (s : State) (p : Port) : Option Instr :=
  (s.gang? p.gid).bind fun g => (s.contextOf g).bind fun k => match s.fetchBytes k.desc (g.setPc p.lanes).toNat with
    | .bytes bs => (decode (wordOfBytes bs)).toOption
    | _ => none

/-! ### Events at joints (R259, R352) -/

/-- The place of an instruction among the events of one cycle at a joint (R259): 0 an arrival, a transfer, the check of a command;
1 a wait or a test, which sees a phase that completes in its cycle; 2 JINIT; none where it meets no joint. -/
def jointRank (i : Instr) : Option Nat :=
  match i with
  | .jinit _ => some 2
  | .jwait _ | .jtest _ => some 1
  | _ => if jointNamed i = 0xFF then none else some 0

/-- The rank of a port's instruction. -/
def State.portRank (s : State) (p : Port) : Option Nat := (s.instrAt p).bind jointRank

/-- The ports of an issue that are performed at once, and those that wait for their sampling cycle: a joint event, with what is
performed after it. -/
def State.splitPorts (s : State) (ps : List Port) : List Port × List (List Port) :=
  match ps with
  | [] => ([], [])
  | p :: rest =>
    let now := p :: rest.filter fun q => (s.portRank q).isNone
    let late := (rest.filter fun q => (s.portRank q).isSome).map ([·])
    if (s.portRank p).isSome then ([], now :: late) else (now, late)

/-- A joint event reaches its joint in the coming cycle: its operands are sampled (R141, R352). -/
def State.joins (s : State) (u : List Port) : Bool :=
  match u with
  | [] => true
  | p :: _ => match s.gang? p.gid with | some g => decide (p.sample ≤ s.cycleOf g.quad + 1) | none => true

/-- The place of a joint event among those of its cycle (R259): its rank, then the GIDX of its gang. -/
def State.joinKey (s : State) (u : List Port) : Nat × Nat :=
  match u with
  | [] => (0, 0)
  | p :: _ => ((s.portRank p).getD 0, match s.gang? p.gid with | some g => g.gidx | none => 0)

/-- Pairs in ascending order. -/
def keyBefore (a b : Nat × Nat) : Bool := decide (a.1 < b.1) || (a.1 == b.1 && decide (a.2 < b.2))

/-- The first of a list in the order of a key, the earlier one on a tie. -/
def leastBy {α : Type} (key : α → Nat × Nat) (l : List α) : Option α :=
  l.foldl (fun acc x => match acc with | none => some x | some y => if keyBefore (key x) (key y) then some x else some y) none

/-- The joint event that comes next in this cycle (R259). -/
def State.nextJoin (s : State) : Option (List Port) := leastBy s.joinKey (s.joining.filter s.joins)

/-- The place of an engine arrival in the table of R259; none of a step that is no arrival. -/
def arrivalKey (i : Instr) : Option (Nat × Nat) :=
  match i with
  | .commandComplete (.stager u) => some (1, u)
  | .commandComplete (.block k) => some (2, k)
  | .commandComplete (.nest n) => some (3, n)
  | .matrixCommandComplete q .array => some (4, q)
  | .matrixCommandComplete q .move => some (5, q)
  | .commandComplete (.moveLane q) => some (5, q)
  | .commandComplete (.bank b) => some (6, b)
  | _ => none

/-- The engine arrival that comes next in this cycle (R259). -/
def State.nextArrival (s : State) : Option Instr := leastBy (fun i => (arrivalKey i).getD (0, 0)) s.arrivals

/-- An engine arrival takes its place in this round; a second one of the same lane waits for the next (R259). -/
def State.noteArrival (s : State) (i : Instr) : State :=
  if s.arrivals.contains i then s.retry i else { s with arrivals := s.arrivals ++ [i] }

/-! ### Sampling (R423) -/

/-- The tag of an instruction that issues from a port of a gang, behind `before` others of it (R423). -/
def State.tagOf (s : State) (g : Gang) (p : Port) (before : Nat) : Tagged :=
  let pc := g.setPc p.lanes
  let j := match s.instrAt p with | some i => jointNamed i | none => 0xFF
  let grid := match s.gridOf g with | some x => BitVec.ofNat 32 (x.seq % 2 ^ 26 + x.vd * 2 ^ 26) | none => 0#32
  let at_ : Nat × Nat := match s.team? g.team with | some t => (t.index, (t.joint j).phase) | none => (0, 0)
  { gid := g.gid, seq := g.issued + before, pc := pc, grid := grid, team := at_.1, gidx := g.gidx, joint := j, phase := at_.2,
    issue := s.cycleOf g.quad, sample := p.sample }

/-- Sampling of a scheduler (R423) at an issue from a port, behind `before` others of its gang in the cycle: the count of issues runs down
to the instruction that is tagged. -/
def State.sampleOne (s : State) (q before : Nat) (p : Port) : State :=
  let x := s.quad q
  match (s.ownerOf q).bind s.vd?, s.gang? p.gid with
  | some d, some g =>
    if d.interval = 0#32 ∨ x.tagged.isSome = true ∨ s.instrAt p = none then s
    else if x.untilTag = 0 then (s.onQuad q fun x => { x with tagged := some (s.tagOf g p before) }).later [.sampleRecord q]
    else s.onQuad q fun x => { x with untilTag := x.untilTag - 1 }
  | _, _ => s

/-- Sampling of a scheduler (R423): the issues of a cycle in their order, on whichever port. -/
def State.sampleIssue (s : State) (q : Nat) (ports : List Port) : State :=
  (ports.zipIdx).foldl (fun s p => s.sampleOne q p.2 p.1) s

/-- The energy of a quadrant's cycle in pJ, charged to the VD that owns it (R52, R56, R58). -/
def State.chargeCycle (s : State) (q : Nat) : State :=
  let u := s.unitPt (.quad q)
  match s.ownerOf q with
  | some v => s.charge v (Config.quadPoints.getD (u.slow.getD u.point) ⟨10, 6, 300⟩).energy
  | none => s

/-- SCHEDULER_ISSUE (R36, R55, R232 to R234): a cycle of a quadrant; the gang that issues, with its ports. Units that have run out of work
are at point 0. A quadrant that is rinsed issues nothing: its cycles are the rinse's (R376); nor does one that no VD has (R370). -/
def execSchedulerIssue (q : Nat) (s : State) : Host.Outcome State Fault Refusal :=
  if s.quads.length ≤ q ∨ (s.quad q).rinsing = true then .next s
  else
    let s := ((s.restUnits.onQuad q fun x => { x with cycle := x.cycle + 1 }).takeFills q).chargeCycle q
    let u := s.cycleOf q
    let r := s.firstIssue q u (if (s.ownerOf q).isNone then [] else s.candidates q u)
    let ps := r.1.splitPorts r.2
    .next ({ r.1 with ports := r.1.ports ++ ps.1, joining := r.1.joining ++ ps.2,
                      issues := if r.2.isEmpty then r.1.issues else r.1.issues + 1 }.sampleIssue q r.2)

/-! ### The end of an issue cycle (R36, R144, R236, R237) -/

/-- A gang at the end of an issue cycle, the device's n-th: Y cleared when every live lane has it (R236), serial mode left when no live
lane is deeper than 255 (R237), its place in the least-recently-issued order (R36), where a port that only parked on a pending register or
a walk has not issued (an instruction that performs takes its place with `commitGang`). -/
def Gang.endCycle (g : Gang) (n : Nat) : Gang :=
  { g with
    lanes := if g.lanes.all (fun x => !x.live || x.y) then g.lanes.map fun x => { x with y := false } else g.lanes
    serial := g.serial && g.lanes.any (fun x => x.live && decide (255 < x.depth))
    marker := g.marker && g.life != .ready
    lastIssue := match g.life with
      | .parked (.pending _) | .parked .walk => g.lastIssue
      | _ => n }

/-- The first port has issued; with the last one of its gang its issue cycle ends, and a gang that has parked at a switch marker
raises an error mark there (R221). -/
def State.popPort (s : State) : State :=
  match s.ports with
  | [] => s
  | p :: rest =>
    let t : State := { s with ports := rest }
    if rest.any (fun q => q.gid == p.gid) || s.midIssue p.gid then t
    else boundaryLdErr (t.onGang p.gid fun g => g.endCycle p.order) p.gid

/-! ### Results (R142, R143, R144) -/

/-- A gang parked on pending registers or at a switch marker goes on once they have their values (R143, R144). -/
def State.wakeReady (s : State) (gid : Nat) : State :=
  match s.gang? gid with
  | none => s
  | some g =>
    match g.life with
    | .parked (.pending codes) =>
      if codes.any g.pendingCodes.contains then s else s.putGang (g.wake (s.cycleOf g.quad + 1))
    | .parked .marker => if g.outstanding then s else s.putGang (g.wake (s.cycleOf g.quad + 1))
    | _ => s

/-- A result has returned in a cycle: later RDSRs of `$status` are not written before two cycles have passed (R75, R426). -/
def laterStatus (rs : List Result) (seq cycle : Nat) : List Result :=
  rs.map fun x => if x.statusRead && decide (seq < x.seq) then { x with due := max x.due (cycle + 2) } else x

/-- A gang with its fixed results due by a cycle written (R142). -/
def Gang.writeDue (g : Gang) (cycle : Nat) : Gang :=
  { g.viewAt cycle with
    results := (g.dueFixed cycle).foldl (fun rs r => laterStatus rs r.seq cycle)
      (g.results.filter fun r => !(r.kind == .fixed && decide (r.due ≤ cycle))) }

/-- The gang has a fixed result due by a cycle. -/
def Gang.hasDue (g : Gang) (cycle : Nat) : Bool := g.results.any fun r => r.kind == .fixed && decide (r.due ≤ cycle)

/-- FIXED_RESULT_WRITE (R142, R144): the fixed results of a quadrant that are due. -/
def execFixedResultWrite (q : Nat) (s : State) : Host.Outcome State Fault Refusal :=
  let u := s.cycleOf q
  let hit := s.gangs.filter fun g => g.quad == q && g.hasDue u
  .next (hit.foldl (fun s g => (s.onGang g.gid fun g => g.writeDue u).wakeReady g.gid) s)

/-- A request of an instruction of a gang that its result waits for, the accounts of what it reads at issue among them (R394). -/
def Req.of (r : Req) (gid seq : Nat) : Bool := r.gid == gid && r.seq == seq

/-- A command, a REGX phase or a restore is to return the result itself. -/
def State.returnsLater (s : State) (g : Gang) (x : Result) : Bool :=
  x.held || s.cmds.any (fun k => k.gid == g.gid && k.seq == x.seq) ||
  (match s.team? g.team with
   | some t => t.joints.any fun j => j.regx.any fun r => r.gid == g.gid && r.seq == x.seq
   | none => false)

/-- An RDSR of `$status` still waits: an earlier result is not written, an earlier atomic not performed (R75, R218). -/
def State.statusWaits (s : State) (g : Gang) (x : Result) : Bool :=
  x.statusRead &&
  (g.results.any (fun r => decide (r.seq < x.seq)) ||
   s.reqs.any fun r => r.gid == g.gid && decide (r.seq < x.seq) && !r.served &&
    (match r.kind with | .atomic _ _ => true | _ => false))

/-- The result of an instruction may be written now. -/
def State.mayReturn (s : State) (g : Gang) (x : Result) : Bool :=
  decide (x.due ≤ s.cycleOf g.quad) && !s.returnsLater g x && !s.statusWaits g x
    && !s.reqs.any (fun r => r.of g.gid x.seq)

/-- The data of an instruction comes back unusable (R220); data that their source has poisoned are a memory event (R393). -/
def State.returnBad (s : State) (gid seq : Nat) (e : ReturnErr) : State :=
  if (s.gang? gid).any fun g => g.results.any fun x => x.seq == seq && x.kind == .variable then
    let s := s.failResult gid seq e.reason e.lanes
    if e.reason = .poison then s.logDevice 5 e.addr.toNat else s
  else s

/-- VARIABLE_RESULT_RETURN (R143, R144, R220): the result of an instruction is written and its pending marks clear; `err` says
that its data is unusable. A DRAINING gang's result goes nowhere. -/
def execVariableResultReturn (gid seq : Nat) (err : Option ReturnErr) (s : State) : Host.Outcome State Fault Refusal :=
  let s := match err with | some e => s.returnBad gid seq e | none => s
  match s.gang? gid with
  | none => .next s
  | some g =>
    match g.results.find? (fun x => x.seq == seq && x.kind == .variable) with
    | none => .next s
    | some x =>
      let rest := g.results.filter fun y => !(y.seq == seq && y.kind == .variable)
      if g.life = .draining then .next (s.putGang { g with results := rest })
      else if s.mayReturn g x then
        .next ((s.putGang ({ g with results := laterStatus rest seq (s.cycleOf g.quad) }.applyResult x)).wakeReady gid)
      else if s.returnsLater g x || x.exactDue then .next s
      else .next (s.retry (.variableResultReturn gid seq none))

/-! ### Requests (R216, R403, R405, R427) -/

/-- A request is acknowledged (R427): the drain or the stowing of its gang may end, and walks look again. -/
def State.acknowledge (s : State) (r : Req) : State :=
  let s := s.retireReq r.id
  let s := match r.kind with
    | .atomic _ _ => s.onGang r.gid fun g => { g with results := laterStatus g.results r.seq (s.cycleOf g.quad) }
    | _ => s
  s.later (ackWork r.gid ++ (if r.kind.posted then s.walkers else []))

/-- A request is performed and acknowledged (R427). -/
def State.finish (s : State) (r : Req) : State := (s.perform r).acknowledge r

/-- A seal that waits for writes in flight looks again (R112, R229). -/
def State.trySeals (s : State) (id : Nat) : State :=
  if s.sealing.any (fun x => x.id == id) then
    let t := s.takeSeals s.sealing
    if t.sealing.any (fun x => x.id == id) then t.retry (.storePerformed id) else t
  else s

/-- STORE_PERFORMED (R427): a request that has been served is acknowledged; the unit that owns its place performs another when
its turn has come: a scratch request in its last pass, others when nothing earlier holds them. So does a seal that waits (R229). -/
def execStorePerformed (id : Nat) (s : State) : Host.Outcome State Fault Refusal :=
  match s.reqs.find? fun r => r.id == id with
  | none => .next (s.trySeals id)
  | some r =>
    let again := Host.Outcome.next (s.retry (.storePerformed id))
    if r.served then
      .next (s.acknowledge r)
    else match r.space with
      | .scratch =>
        if (match r.due with | some d => decide (d ≤ s.cycleOf r.quad) | none => true) && reqReady s r then .next (s.finish r)
        else .next s
      | .device | .tier2 => .next ((s.later [.memoryRequest r.channel none]).retry (.storePerformed id))
      | .common =>
        let bank := s.bankNo r.addr
        if reqReady s r = false ∨ s.bankHeld bank = true then again
        else match r.kind with
          | .atomic _ _ => .next ((s.later [.bankOperation bank]).retry (.storePerformed id))
          | _ => .next (s.finish r)
      | .far =>
        if s.farGone then .next (s.loseReq .farDown r)
        else if reqReady s r then .next (s.finish r) else again
      | .peer id =>
        match s.portFor id r.who with
        | none => .next (s.loseReq .peer r)
        | some p =>
          if (s.fabric.getD p FabricPort.reset).changing || !reqReady s r then again
          else .next (s.finish r)

/-! ### Walks and sleeps -/

/-- The work that takes up a command again. -/
def Cmd.resume (k : Cmd) : Instr :=
  match k.place, k.coll with
  | .matrix q, _ => .commandChunk (.moveLane q) .none
  | .engine _, some no => .collInstanceComplete no [] .none
  | .engine e, none => .commandChunk e .none

/-- PAGE_WALK_COMPLETE (R29, R89, R293): the gang and its commands that a replayable fault holds look again. -/
def execPageWalkComplete (gid : Nat) (s : State) : Host.Outcome State Fault Refusal :=
  let held := s.cmds.filter fun k => k.gid == gid && k.walking
  let s1 := { s with cmds := s.cmds.map fun (k : Cmd) => if k.gid == gid then { k with walking := false } else k }
  let s2 := s1.onGang gid fun g => match g.life with
    | .parked .walk => g.wake (s.cycleOf g.quad + 1)
    | _ => g
  .next (s2.later (held.map Cmd.resume))

/-- The gang sleeps no longer. -/
def Gang.sleepOver (g : Gang) (cycle : Nat) : Bool :=
  match g.life with | .parked (.sleep w) => decide (w ≤ cycle) | _ => false

/-- SLEEP_EXPIRY (R250, R251): the gang issues again from the cycle after the wake on. -/
def execSleepExpiry (gid : Nat) (s : State) : Host.Outcome State Fault Refusal :=
  .next (s.onGang gid fun g => if g.sleepOver (s.cycleOf g.quad) then g.wake (s.cycleOf g.quad + 1) else g)

/-! ### What comes next (log 1) -/

/-- What falls due in the quadrants' present cycles: fixed results, scratch passes, results of a fixed time, sleeps, the end of
holding ready. -/
def State.dueWork (s : State) : Option Instr :=
  match s.gangs.find? fun g => g.hasDue (s.cycleOf g.quad) with
  | some g => some (.fixedResultWrite g.quad)
  | none =>
    match s.reqs.find? fun r => r.space == .scratch && !r.served &&
        (match r.due with | some d => decide (d ≤ s.cycleOf r.quad) | none => false) && reqReady s r with
    | some r => some (.storePerformed r.id)
    | none =>
      match s.gangs.findSome? fun g => (g.results.find? fun x => x.kind == .variable && x.exactDue && s.mayReturn g x).map
          fun x => (g.gid, x.seq) with
      | some x => some (.variableResultReturn x.1 x.2 none)
      | none =>
        match s.gangs.find? fun g => g.sleepOver (s.cycleOf g.quad) with
        | some g => some (.sleepExpiry g.gid)
        | none =>
          (s.quads.findIdx? fun x => match x.ready with | some c => decide (c ≤ x.cycle) | none => false).map .burstHoldExpiry

/-- What the machine does next: a state that is reached without an instruction, an instruction of the first port, or a step of
the device with the state in which it is taken. -/
inductive Work where
  | state (s : State)
  | port (i : Instr)
  | device (i : Instr) (s : State)

/-- The issue of a port as its traps before decode see it. -/
def State.portCtx (s : State) (p : Port) (g : Gang) : Ictx :=
  { s := s, g := g, v := g, port := p, mask := p.lanes, pc := g.setPc p.lanes, cyc := s.cycleOf g.quad }

/-- The live lanes at an address (R148). -/
def Gang.lanesAt (g : Gang) (pc : DWord) : Lanes := Lanes.of fun l => g.live.getLsbD l && (g.lane l).pc == pc

/-- The first port: its instruction as the fetch finds it, or the trap or park of the fetch (R148, R168, R169). A port whose
gang has ended issues nothing. -/
def State.portWork (s : State) (p : Port) : Work :=
  match s.gang? p.gid with
  | none => .state s.popPort
  | some g =>
    match g.life, s.contextOf g with
    | .ready, some k | .parked _, some k =>
      let c := s.portCtx p g
      match s.fetchBytes k.desc c.pc.toNat with
      | .replay hosts => .state (parkWalk c s hosts []).popPort
      | .page va => .state (trapHere c s ⟨.page, BitVec.ofNat 64 va, g.lanesAt c.pc⟩ (c.cyc + 1)).popPort
      | .prot va => .state (trapHere c s ⟨.prot, BitVec.ofNat 64 va, g.lanesAt c.pc⟩ (c.cyc + 1)).popPort
      | .bytes bs =>
        match decode (wordOfBytes bs) with
        | .ok i => .port i
        | .error e => .state (trapHere c s ⟨.illegal, e.tval, p.lanes⟩ (c.cyc + 1)).popPort
    | _, _ => .state s.popPort

/-- A device reset or power-up, which a halted device still takes (R393). -/
def restarts (i : Instr) : Bool := match i with | .deviceReset | .powerUp _ => true | _ => false

/-- The end of a round: engine arrivals in the order of R259, then the joint events that are sampled, then the next round, with the
steps that are tried again. -/
def State.jointWork (s : State) : Work :=
  match s.nextArrival with
  | some i => .device i { s with arrivals := s.arrivals.erase i }
  | none => match s.nextJoin with
    | some u => .state { s with ports := u, joining := s.joining.erase u }
    | none => .state { s with turn := 0, agenda := s.agenda ++ s.again, again := [] }

/-- A round (log 1): the agenda, but engine arrivals, which wait for the joints' turn; a cycle of every quadrant, in ascending order;
the joints' turn. -/
def State.roundWork (s : State) : Work :=
  match s.turn, s.agenda with
  | 0, i :: rest =>
    let t : State := { s with agenda := rest }
    if (arrivalKey i).isSome then .state (t.noteArrival i) else .device i t
  | _, _ => if s.turn < s.quads.length then .device (.schedulerIssue s.turn) { s with turn := s.turn + 1 } else s.jointWork

/-- What the machine does next: an issue that waits at a port, then work that falls due, then the round (log 1). -/
def State.work (s : State) : Work :=
  if s.halted then
    match s.agenda with
    | [] => .state s
    | i :: rest => if restarts i then .device i { s with agenda := rest } else .state { s with agenda := rest }
  else match s.ports with
    | p :: _ => s.portWork p
    | [] =>
      match s.dueWork with
      | some i => .device i s
      | none => s.roundWork

end Sys2Proof.Machine
end

