-- ==== Sys2Proof/Machine/Loader.lean ====
section
/-!
DEFINITION. A state in which an instruction stands where the next step fetches it. The G9 loads no program by itself: a context,
its page tables and its code come from the host, and a launch makes gangs of a grid (R357, R373). `placeWord` stands for all of
that at once (log 17): page tables of one leaf, a context, a grid of one team of one gang, and the issue of its primary port.
-/
namespace Sys2Proof.Machine
open Sys2Proof

/-- Where the loader puts the first-level table, the second-level table and the instruction. -/
def loadRoot : Nat := 0x10000
def loadTable : Nat := 0x20000
def loadEntry : Nat := 0x40000

/-- A page table that maps the first GiB to itself, for both stages (R374): an entry that leads to a second table, a leaf with
every permission and OWN 1. -/
def loadTables (m : List Host.Cell) : List Host.Cell :=
  memStore (memStore m loadRoot 8 (loadTable + 1)) loadTable 8 0x5F

/-- The context of the loaded gang: both stages start at the loader's table (R373). -/
def loadContext : Context :=
  { id := 0, where_ := 0, ended := false, reason := 0, dropped := 0, saveTop := 0, held := false,
    desc := { groot := BitVec.ofNat 64 loadRoot, hroot := BitVec.ofNat 64 loadRoot, tvec := BitVec.ofNat 64 0x50000,
              svec := 0, rvec := 0, save := 0, saveLen := 0, ythr := 4096, vd := 0, pmode := false, cklog := false, stowt := 0,
              rlim := 0xFF00000000000100#64, htab := 0, elog := 0, frec := 0 } }

/-- The kernel of the loaded gang: every register, every joint, no scratchpad. -/
def loadKernel : Kernel :=
  { entry := BitVec.ofNat 64 loadEntry, trapv := 0, rcen := false, rcj := 0, joints := 24, gmax := 256, regs := 256,
    teammax := 1, scratch := 0 }

/-- The grid of the loaded gang. -/
def loadGrid (id : Nat) : Grid :=
  { id := id, vd := 0, seq := 0, ctx := 0, cls := .hi, x := 1, y := 1, z := 1, size := 1, kernel := loadKernel, span := 16,
    deadline := 0, pool := 0, next := 1, fleet := 0, coloc := false, dmap := 0, carea := 0, param := [], irq := none,
    queue := none, child := false, own := none, packet := none, record := none, retired := 0, failed := none, began := true, yields := false, bits := [] }

/-- Its team, on core 0. -/
def loadTeam (id grid : Nat) : Team :=
  { id := id, grid := grid, index := 0, size := 1, cores := [0], blocks := [], joints := List.replicate 24 Joint.idle,
    race := [], stowed := false, area := 0, overflow := 0, preempt := false, admitted := id, colls := [], records := [],
    late := [] }

/-- Its gang, in quadrant 0. -/
def loadGang (gid team cycle : Nat) : Gang :=
  freshGang gid team 0 0 0 cycle loadKernel (plainLanes loadKernel) (plainRegs loadKernel)

/-- The state with a word where the next step fetches: a gang of 32 live lanes stands at it and its primary port issues it. -/
def State.placeWord (s : State) (w : InstrWord) : State :=
  let n := s.nextId
  { s.onVd 0 (fun d => { d with quads := d.quads ||| 1#768 }) with
    halted := false
    mem := memStoreBytes (loadTables s.mem) loadEntry (bytesOfWord w)
    contexts := loadContext :: s.contexts
    grids := loadGrid n :: s.grids
    teams := loadTeam (n + 1) n :: s.teams
    gangs := loadGang (n + 2) (n + 1) (s.cycleOf 0) :: s.gangs
    ports := [⟨n + 2, 0xFFFFFFFF#32, s.cycleOf 0 + 1, false, 0#32, s.issues + 1⟩]
    issues := s.issues + 1
    nextId := n + 3 }

end Sys2Proof.Machine
end

