-- ==== Sys2Proof/Machine/Dispatch.lean ====
section
/-!
DEFINITION. The meaning of every instruction and of every step of the device, by constructor.
-/
namespace Sys2Proof.Machine
open Sys2Proof

/-- What an instruction does: one direct call of its meaning. -/
def exec (i : Instr) (s : State) : Host.Outcome State Fault Refusal :=
  match i with
  | .iadd x => Sys2Proof.Machine.execIadd x s
  | .isub x => Sys2Proof.Machine.execIsub x s
  | .imul x => Sys2Proof.Machine.execImul x s
  | .imulh x => Sys2Proof.Machine.execImulh x s
  | .imad x => Sys2Proof.Machine.execImad x s
  | .imadw x => Sys2Proof.Machine.execImadw x s
  | .idiv x => Sys2Proof.Machine.execIdiv x s
  | .irem x => Sys2Proof.Machine.execIrem x s
  | .imin x => Sys2Proof.Machine.execImin x s
  | .imax x => Sys2Proof.Machine.execImax x s
  | .iabs x => Sys2Proof.Machine.execIabs x s
  | .ineg x => Sys2Proof.Machine.execIneg x s
  | .isad x => Sys2Proof.Machine.execIsad x s
  | .iadds x => Sys2Proof.Machine.execIadds x s
  | .isubs x => Sys2Proof.Machine.execIsubs x s
  | .icmp x => Sys2Proof.Machine.execIcmp x s
  | .isel x => Sys2Proof.Machine.execIsel x s
  | .shl x => Sys2Proof.Machine.execShl x s
  | .shr x => Sys2Proof.Machine.execShr x s
  | .sra x => Sys2Proof.Machine.execSra x s
  | .shrr x => Sys2Proof.Machine.execShrr x s
  | .rotl x => Sys2Proof.Machine.execRotl x s
  | .and x => Sys2Proof.Machine.execAnd x s
  | .or x => Sys2Proof.Machine.execOr x s
  | .xor x => Sys2Proof.Machine.execXor x s
  | .andn x => Sys2Proof.Machine.execAndn x s
  | .not x => Sys2Proof.Machine.execNot x s
  | .lop3 x => Sys2Proof.Machine.execLop3 x s
  | .clz x => Sys2Proof.Machine.execClz x s
  | .popc x => Sys2Proof.Machine.execPopc x s
  | .brev x => Sys2Proof.Machine.execBrev x s
  | .bfx x => Sys2Proof.Machine.execBfx x s
  | .bfi x => Sys2Proof.Machine.execBfi x s
  | .prmt x => Sys2Proof.Machine.execPrmt x s
  | .mov x => Sys2Proof.Machine.execMov x s
  | .dot2 x => Sys2Proof.Machine.execDot2 x s
  | .dot4 x => Sys2Proof.Machine.execDot4 x s
  | .padd x => Sys2Proof.Machine.execPadd x s
  | .psub x => Sys2Proof.Machine.execPsub x s
  | .pmul x => Sys2Proof.Machine.execPmul x s
  | .pmin x => Sys2Proof.Machine.execPmin x s
  | .pmax x => Sys2Proof.Machine.execPmax x s
  | .pshr x => Sys2Proof.Machine.execPshr x s
  | .fadd x => Sys2Proof.Machine.execFadd x s
  | .fsub x => Sys2Proof.Machine.execFsub x s
  | .fmul x => Sys2Proof.Machine.execFmul x s
  | .ffma x => Sys2Proof.Machine.execFfma x s
  | .fmin x => Sys2Proof.Machine.execFmin x s
  | .fmax x => Sys2Proof.Machine.execFmax x s
  | .fcmp x => Sys2Proof.Machine.execFcmp x s
  | .frcp x => Sys2Proof.Machine.execFrcp x s
  | .frsq x => Sys2Proof.Machine.execFrsq x s
  | .fsqrt x => Sys2Proof.Machine.execFsqrt x s
  | .fexp2 x => Sys2Proof.Machine.execFexp2 x s
  | .flog2 x => Sys2Proof.Machine.execFlog2 x s
  | .fsinp x => Sys2Proof.Machine.execFsinp x s
  | .fcosp x => Sys2Proof.Machine.execFcosp x s
  | .fclass x => Sys2Proof.Machine.execFclass x s
  | .frnd x => Sys2Proof.Machine.execFrnd x s
  | .pfadd x => Sys2Proof.Machine.execPfadd x s
  | .pfmul x => Sys2Proof.Machine.execPfmul x s
  | .pffma x => Sys2Proof.Machine.execPffma x s
  | .cvt x => Sys2Proof.Machine.execCvt x s
  | .cvtn x => Sys2Proof.Machine.execCvtn x s
  | .cvtq x => Sys2Proof.Machine.execCvtq x s
  | .radd x => Sys2Proof.Machine.execRadd x s
  | .rsub x => Sys2Proof.Machine.execRsub x s
  | .rmul x => Sys2Proof.Machine.execRmul x s
  | .rcvt x => Sys2Proof.Machine.execRcvt x s
  | .pand x => Sys2Proof.Machine.execPand x s
  | .por x => Sys2Proof.Machine.execPor x s
  | .pxor x => Sys2Proof.Machine.execPxor x s
  | .pnot x => Sys2Proof.Machine.execPnot x s
  | .pget x => Sys2Proof.Machine.execPget x s
  | .pset x => Sys2Proof.Machine.execPset x s
  | .slide x => Sys2Proof.Machine.execSlide x s
  | .shfl x => Sys2Proof.Machine.execShfl x s
  | .bcast x => Sys2Proof.Machine.execBcast x s
  | .vote x => Sys2Proof.Machine.execVote x s
  | .redux x => Sys2Proof.Machine.execRedux x s
  | .scan x => Sys2Proof.Machine.execScan x s
  | .matchLanes x => Sys2Proof.Machine.execMatchLanes x s
  | .ld x => Sys2Proof.Machine.execLd x s
  | .st x => Sys2Proof.Machine.execSt x s
  | .lds x => Sys2Proof.Machine.execLds x s
  | .sts x => Sys2Proof.Machine.execSts x s
  | .ldp x => Sys2Proof.Machine.execLdp x s
  | .stp x => Sys2Proof.Machine.execStp x s
  | .atom x => Sys2Proof.Machine.execAtom x s
  | .atoms x => Sys2Proof.Machine.execAtoms x s
  | .pf x => Sys2Proof.Machine.execPf x s
  | .fence x => Sys2Proof.Machine.execFence x s
  | .fencex x => Sys2Proof.Machine.execFencex x s
  | .seal x => Sys2Proof.Machine.execSeal x s
  | .unseal x => Sys2Proof.Machine.execUnseal x s
  | .minit x => Sys2Proof.Machine.execMinit x s
  | .lea x => Sys2Proof.Machine.execLea x s
  | .bra x => Sys2Proof.Machine.execBra x s
  | .brx x => Sys2Proof.Machine.execBrx x s
  | .call x => Sys2Proof.Machine.execCall x s
  | .callx x => Sys2Proof.Machine.execCallx x s
  | .ret x => Sys2Proof.Machine.execRet x s
  | .yield x => Sys2Proof.Machine.execYield x s
  | .exit x => Sys2Proof.Machine.execExit x s
  | .defer x => Sys2Proof.Machine.execDefer x s
  | .nop x => Sys2Proof.Machine.execNop x s
  | .sleep x => Sys2Proof.Machine.execSleep x s
  | .jinit x => Sys2Proof.Machine.execJinit x s
  | .jarrive x => Sys2Proof.Machine.execJarrive x s
  | .jwait x => Sys2Proof.Machine.execJwait x s
  | .jtest x => Sys2Proof.Machine.execJtest x s
  | .regx x => Sys2Proof.Machine.execRegx x s
  | .trap x => Sys2Proof.Machine.execTrap x s
  | .tret x => Sys2Proof.Machine.execTret x s
  | .brk x => Sys2Proof.Machine.execBrk x s
  | .rdsr x => Sys2Proof.Machine.execRdsr x s
  | .wrsr x => Sys2Proof.Machine.execWrsr x s
  | .setrate x => Sys2Proof.Machine.execSetrate x s
  | .clrrate x => Sys2Proof.Machine.execClrrate x s
  | .cksum x => Sys2Proof.Machine.execCksum x s
  | .stsh x => Sys2Proof.Machine.execStsh x s
  | .ldsh x => Sys2Proof.Machine.execLdsh x s
  | .getsh x => Sys2Proof.Machine.execGetsh x s
  | .acopy x => Sys2Proof.Machine.execAcopy x s
  | .afill x => Sys2Proof.Machine.execAfill x s
  | .bcopy x => Sys2Proof.Machine.execBcopy x s
  | .hset x => Sys2Proof.Machine.execHset x s
  | .hget x => Sys2Proof.Machine.execHget x s
  | .nest x => Sys2Proof.Machine.execNest x s
  | .nestr x => Sys2Proof.Machine.execNestr x s
  | .nestq x => Sys2Proof.Machine.execNestq x s
  | .bankop x => Sys2Proof.Machine.execBankop x s
  | .bankred x => Sys2Proof.Machine.execBankred x s
  | .coll x => Sys2Proof.Machine.execColl x s
  | .cres x => Sys2Proof.Machine.execCres x s
  | .tclaim x => Sys2Proof.Machine.execTclaim x s
  | .trel x => Sys2Proof.Machine.execTrel x s
  | .tzero x => Sys2Proof.Machine.execTzero x s
  | .tmma x => Sys2Proof.Machine.execTmma x s
  | .tmmas x => Sys2Proof.Machine.execTmmas x s
  | .tdrain x => Sys2Proof.Machine.execTdrain x s
  | .tsave x => Sys2Proof.Machine.execTsave x s
  | .trest x => Sys2Proof.Machine.execTrest x s
  | .tburst x => Sys2Proof.Machine.execTburst x s
  | .tstat x => Sys2Proof.Machine.execTstat x s
  | .launch x => Sys2Proof.Machine.execLaunch x s
  | .lstat x => Sys2Proof.Machine.execLstat x s
  | .fixedResultWrite quad => Sys2Proof.Machine.execFixedResultWrite quad s
  | .variableResultReturn gid seq err => Sys2Proof.Machine.execVariableResultReturn gid seq err s
  | .storePerformed req => Sys2Proof.Machine.execStorePerformed req s
  | .pageWalkComplete gid => Sys2Proof.Machine.execPageWalkComplete gid s
  | .sleepExpiry gid => Sys2Proof.Machine.execSleepExpiry gid s
  | .gangFree gid => Sys2Proof.Machine.execGangFree gid s
  | .admissionStep => Sys2Proof.Machine.execAdmissionStep s
  | .schedulerIssue quad => Sys2Proof.Machine.execSchedulerIssue quad s
  | .engineCommandStart e => Sys2Proof.Machine.execEngineCommandStart e s
  | .commandChunk e out => Sys2Proof.Machine.execCommandChunk e out s
  | .commandComplete e => Sys2Proof.Machine.execCommandComplete e s
  | .bankOperation bank => Sys2Proof.Machine.execBankOperation bank s
  | .collInstanceComplete instanceNo remote out => Sys2Proof.Machine.execCollInstanceComplete instanceNo remote out s
  | .matrixCommandStart quad lane => Sys2Proof.Machine.execMatrixCommandStart quad lane s
  | .matrixSequencerStep quad => Sys2Proof.Machine.execMatrixSequencerStep quad s
  | .matrixCommandComplete quad lane => Sys2Proof.Machine.execMatrixCommandComplete quad lane s
  | .tstatResult quad => Sys2Proof.Machine.execTstatResult quad s
  | .burstHoldExpiry quad => Sys2Proof.Machine.execBurstHoldExpiry quad s
  | .adjusterStep power => Sys2Proof.Machine.execAdjusterStep power s
  | .unitEvaluation u => Sys2Proof.Machine.execUnitEvaluation u s
  | .pointChangeApply u => Sys2Proof.Machine.execPointChangeApply u s
  | .clockChangeComplete quad => Sys2Proof.Machine.execClockChangeComplete quad s
  | .pwrcapWrite value => Sys2Proof.Machine.execPwrcapWrite value s
  | .ratefloorWrite value => Sys2Proof.Machine.execRatefloorWrite value s
  | .vdshareWrite vd value => Sys2Proof.Machine.execVdshareWrite vd value s
  | .cspartWrite value => Sys2Proof.Machine.execCspartWrite value s
  | .registerWrite offset value => Sys2Proof.Machine.execRegisterWrite offset value s
  | .quantumWrite vd value => Sys2Proof.Machine.execQuantumWrite vd value s
  | .queueNotify q value => Sys2Proof.Machine.execQueueNotify q value s
  | .guestNotify vd gq value => Sys2Proof.Machine.execGuestNotify vd gq value s
  | .launchPacket q => Sys2Proof.Machine.execLaunchPacket q s
  | .poolPacket q => Sys2Proof.Machine.execPoolPacket q s
  | .copyPacket q => Sys2Proof.Machine.execCopyPacket q s
  | .signalPacket q => Sys2Proof.Machine.execSignalPacket q s
  | .waitPacket q => Sys2Proof.Machine.execWaitPacket q s
  | .waitPoll q => Sys2Proof.Machine.execWaitPoll q s
  | .ratePacket q => Sys2Proof.Machine.execRatePacket q s
  | .markPacket q => Sys2Proof.Machine.execMarkPacket q s
  | .copyPacketComplete q index => Sys2Proof.Machine.execCopyPacketComplete q index s
  | .basketFlushTimeout pool basket => Sys2Proof.Machine.execBasketFlushTimeout pool basket s
  | .quantumExpiry quad => Sys2Proof.Machine.execQuantumExpiry quad s
  | .hostPreemptRequest ctx boundary teams => Sys2Proof.Machine.execHostPreemptRequest ctx boundary teams s
  | .preemptEntry gid => Sys2Proof.Machine.execPreemptEntry gid s
  | .engineStop team => Sys2Proof.Machine.execEngineStop team s
  | .gangStowed gid => Sys2Proof.Machine.execGangStowed gid s
  | .rinseStart quad => Sys2Proof.Machine.execRinseStart quad s
  | .rinseComplete quad => Sys2Proof.Machine.execRinseComplete quad s
  | .teamRestore team => Sys2Proof.Machine.execTeamRestore team s
  | .contextTeardown ctx => Sys2Proof.Machine.execContextTeardown ctx s
  | .memoryRequest channel fault => Sys2Proof.Machine.execMemoryRequest channel fault s
  | .rowRefresh channel row => Sys2Proof.Machine.execRowRefresh channel row s
  | .mendGo stack => Sys2Proof.Machine.execMendGo stack s
  | .granuleMoving => Sys2Proof.Machine.execGranuleMoving s
  | .granuleCommit => Sys2Proof.Machine.execGranuleCommit s
  | .coreSpare core => Sys2Proof.Machine.execCoreSpare core s
  | .rowRepair channel row => Sys2Proof.Machine.execRowRepair channel row s
  | .bankSpare bay bank => Sys2Proof.Machine.execBankSpare bay bank s
  | .channelRetire k => Sys2Proof.Machine.execChannelRetire k s
  | .repairComplete index => Sys2Proof.Machine.execRepairComplete index s
  | .hostMemAccess access => Sys2Proof.Machine.execHostMemAccess access s
  | .farTimeout => Sys2Proof.Machine.execFarTimeout s
  | .linkDown => Sys2Proof.Machine.execLinkDown s
  | .linkUp => Sys2Proof.Machine.execLinkUp s
  | .resume => Sys2Proof.Machine.execResume s
  | .fabricRequest peer op => Sys2Proof.Machine.execFabricRequest peer op s
  | .fabricLaneFail port => Sys2Proof.Machine.execFabricLaneFail port s
  | .portDegradeComplete port => Sys2Proof.Machine.execPortDegradeComplete port s
  | .portModeRequest port ethernet => Sys2Proof.Machine.execPortModeRequest port ethernet s
  | .ptpMessage offsetNs => Sys2Proof.Machine.execPtpMessage offsetNs s
  | .frameArrival port ethertype fcsOk frame => Sys2Proof.Machine.execFrameArrival port ethertype fcsOk frame s
  | .framePublish channel => Sys2Proof.Machine.execFramePublish channel s
  | .lossSlotWrite channel => Sys2Proof.Machine.execLossSlotWrite channel s
  | .icbPoll channel => Sys2Proof.Machine.execIcbPoll channel s
  | .ingressEnable channel value => Sys2Proof.Machine.execIngressEnable channel value s
  | .ingressStop channel => Sys2Proof.Machine.execIngressStop channel s
  | .powerUp boot => Sys2Proof.Machine.execPowerUp boot s
  | .deviceReset => Sys2Proof.Machine.execDeviceReset s
  | .patchGo image => Sys2Proof.Machine.execPatchGo image s
  | .patchCommit => Sys2Proof.Machine.execPatchCommit s
  | .patchAbandon => Sys2Proof.Machine.execPatchAbandon s
  | .wext index digest => Sys2Proof.Machine.execWext index digest s
  | .getMeasurements => Sys2Proof.Machine.execGetMeasurements s
  | .samplingArm vd ring log2n interval => Sys2Proof.Machine.execSamplingArm vd ring log2n interval s
  | .sampleRecord quad => Sys2Proof.Machine.execSampleRecord quad s
  | .debugArm value => Sys2Proof.Machine.execDebugArm value s
  | .teamStop => Sys2Proof.Machine.execTeamStop s
  | .teamResume => Sys2Proof.Machine.execTeamResume s
  | .mappingRequest level entryDpa value => Sys2Proof.Machine.execMappingRequest level entryDpa value s
  | .contextCreate ctx descriptor => Sys2Proof.Machine.execContextCreate ctx descriptor s
  | .preemptRequestWithdrawn ctx => Sys2Proof.Machine.execPreemptRequestWithdrawn ctx s

end Sys2Proof.Machine
end

