-- ==== Sys2Proof/Machine/Step.lean ====
section
/-!
DEFINITION. One step of the machine: the next work of the state, performed; and the state with an instruction where the next
step fetches it.
-/
namespace Sys2Proof.Machine
open Sys2Proof

/-- One step: a state reached without an instruction, an issue of the first port, which then has issued, or a step of the
device. -/
def step (s : State) : Host.Outcome State Fault Refusal :=
  match s.work with
  | .state t => .next t
  | .device i t => exec i t
  | .port i =>
    match exec i s with
    | .next t => .next t.popPort
    | .fault f => .fault f
    | .refused r => .refused r

/-- The state with an opcode-table word, its bits above `nbits` zero, where the next step fetches its instruction. -/
def State.withFetchWord (s : State) (nbits w : Nat) : State := s.placeWord (BitVec.ofNat 96 (w % 2 ^ nbits))

end Sys2Proof.Machine
end

