-- ==== Sys2Proof/Safety.lean ====
section
/-!
DEFINITION. The terms in which statements are made: what counts as a safe state and a safe run, when an instruction of a port is
performed, and what every instruction that is performed does beside its own effect.
-/
namespace Sys2Proof.Safety
open Sys2Proof Machine

/-- The memory of the state is in its canonical form (log 4). -/
def Canonical (s : State) : Prop := Memory.wf s.mem = true

/-- The machine goes on from the state: its step answers a next state. -/
def GoesOn (s : State) : Prop := ∃ t, Machine.step s = .next t

/-- The next k steps of the machine all answer a next state with canonical memory. -/
def SafeRun : Nat → State → Prop
  | 0, s => Canonical s
  | k + 1, s => Canonical s ∧ ∃ t, Machine.step s = .next t ∧ SafeRun k t

/-! ### An instruction at its port -/

/-- What the meaning of an instruction of a port is given: the gang as sampled, the write mask, the address. -/
abbrev ctx (i : Instr) (s : State) (p : Port) (g : Gang) : Ictx := ictxOf (instrHead i) p g s

/-- The first port is `p`, and its gang is `g`. -/
structure AtPort (s : State) (p : Port) (g : Gang) : Prop where
  port : s.ports.head? = some p
  gang : s.gang? p.gid = some g

/-- The first port performs the instruction (R168): no trap at decode (steps 3 to 5), no deferred load error (R221), no register
it names pending (R143), a lane in the write mask (R134), no indexed operand out of reach (step 6). -/
structure Performs (i : Instr) (s : State) (p : Port) (g : Gang) : Prop extends AtPort s p g where
  decode : earlyTrap i (ctx i s p g) = none
  marks : ldErr g (eligibleMarks i g (namedAt i (instrHead i) (ctx i s p g)) true) = none
  ready : ∀ n ∈ namedAt i (instrHead i) (ctx i s p g), n ∉ g.pendingCodes
  lanes : (ctx i s p g).mask ≠ 0#32
  reach : indexedTrap i (ctx i s p g) = none

/-! ### What an instruction comes to -/

/-- The gang of an instruction with its issued lanes at the next instruction, at address + 12 (R146). -/
def stepped (c : Ictx) : Gang := { c.g with lanes := advance c.g c.iset c.pc }

/-- The gang of a branch: the lanes of the write mask go as `f` says, the other issued lanes to address + 12. -/
def moved (c : Ictx) (f : Nat → LaneState → LaneState) : Gang := { c.g with lanes := moveLanes c f }

/-- A result of fixed time: written `lat` cycles after sampling (R142). -/
def fixedResult (c : Ictx) (lat : Nat) (regs : List RegWrite) (preds : List PredWrite) : Result :=
  { seq := c.g.issued, pc := c.pc, kind := .fixed, due := c.port.sample + lat, exactDue := true, regs := regs, preds := preds,
    mods := [], reserve := [], err := none, waitsReqs := false, statusRead := false, held := false }

/-- A result of variable time: its registers are pending until it returns, not before `lat` cycles after sampling (R143); it
reserves a line for each whole register it may write, or G image it loads (R137, R278). -/
def pendingResult (c : Ictx) (lat : Nat) (regs : List RegWrite) (preds : List PredWrite) (mods : List (Nat × ModReg)) : Result :=
  { seq := c.g.issued, pc := c.pc, kind := .variable, due := c.port.sample + lat, exactDue := false, regs := regs, preds := preds,
    mods := mods, reserve := (regs.filter reservesLine).map (·.n), err := none,
    waitsReqs := false, statusRead := false, held := false }

/-- The results an instruction leaves outstanding: none where it writes nothing (D is `zero`, R151) and waits for nothing. -/
def outstanding (r : Result) : List Result :=
  if r.regs.isEmpty && r.preds.isEmpty && r.mods.isEmpty && !r.waitsReqs then [] else [r]

/-- A variable result writes part of these registers: they are G from now on (R137). -/
def unfolded (g : Gang) (ws : List RegWrite) : Gang :=
  { g with regs := g.regs.mapIdx fun n r =>
      if ws.any (fun w => w.n == n && !fullWidth w.mask && w.exact.isNone) then { r with shape := .g r.shape.lanes } else r }

/-- What an instruction does beside what every issue does: the state outside its gang, its gang with the lanes moved on, the
flags it raises (R75), the results it leaves outstanding, the cycle before which the gang does not issue again, whether it parks,
and the steps that follow. -/
structure Effect where
  s     : State
  g     : Gang
  flags : Flags
  rs    : List Result
  next  : Nat
  park  : Option Park
  work  : List Instr

/-- Nothing beyond the next instruction. -/
def Effect.step (c : Ictx) : Effect :=
  { s := c.s, g := stepped c, flags := fNone, rs := [], next := 0, park := none, work := [] }

/-- Registers and predicates written a fixed time after sampling. -/
def Effect.fixed (c : Ictx) (lat : Nat) (regs : List RegWrite) (preds : List PredWrite) (flags : Flags) : Effect :=
  { Effect.step c with rs := outstanding (fixedResult c lat regs preds), flags := flags }

/-- Registers, predicates and modulo registers that are pending until the result returns. -/
def Effect.pending (c : Ictx) (lat : Nat) (regs : List RegWrite) (preds : List PredWrite) (mods : List (Nat × ModReg)) : Effect :=
  let rs := outstanding (pendingResult c lat regs preds mods)
  { Effect.step c with
    g := unfolded (stepped c) regs
    rs := rs
    work := rs.map fun r => .variableResultReturn c.g.gid r.seq none }

/-- Registers that are pending, and written a fixed time after sampling (R143, R426). -/
def Effect.exact (c : Ictx) (lat : Nat) (regs : List RegWrite) : Effect :=
  { Effect.step c with
    g := unfolded (stepped c) regs
    rs := outstanding { pendingResult c lat regs [] [] with exactDue := true } }

/-- A gang whose instruction has issued: its flags, its results, its place in issue order, the cycle of its next issue (R36, R75, R141
to R143). -/
def after (p : Port) (e : Effect) (latch : List (Option Latch)) : Gang :=
  { e.g with latch := latch, status := e.g.status ||| e.flags, results := e.g.results ++ e.rs, issued := e.g.issued + 1,
             withdrawn := none, formed := none, nextIssue := max (max e.g.nextIssue p.sample) e.next, lastIssue := p.order }

/-- Where the gang parks: as its instruction says, or at a switch marker with results outstanding (R144). -/
def parkOf (sw : Bool) (park : Option Park) (g : Gang) : Option Park :=
  match park with
  | some k => some k
  | none => if sw && g.life == .ready && g.outstanding then some .marker else none

/-- The gang at the end of its instruction: a park at a marker leaves no valid latch entry (R144, R145). -/
def ending (sw : Bool) (park : Option Park) (g : Gang) : Gang :=
  let k := parkOf sw park g
  { g with
    latch := if k = some .marker ∨ g.life = .parked .marker then [none, none, none] else g.latch
    marker := sw && k != some .marker
    life := match g.life, k with | .ready, some k => .parked k | l, _ => l }

/-- An instruction ends with a switch marker, its own or that of the primary port's (R144). -/
def switches (i : Instr) (p : Port) (g : Gang) : Bool := (instrHead i).sched.sw || (p.secondary && g.marker)

/-- The state after an instruction with its effect. -/
def finish (i : Instr) (imm : Word) (s : State) (p : Port) (g : Gang) (e : Effect) : State :=
  let latch := latchAfter (instrHead i) ((ctx i s p g).src imm) (usesOf i) e.g
  (e.s.putGang (ending (switches i p e.g) e.park (after p e latch))).later e.work

/-- Wherever a port performs the instruction and `pre` holds, `exec` answers the state that its effect `e` leaves. -/
def Does (i : Instr) (imm : Word) (pre : Ictx → Prop) (e : Ictx → Effect) : Prop :=
  ∀ s p g, Performs i s p g → pre (ctx i s p g) → exec i s = .next (finish i imm s p g (e (ctx i s p g)))

/-- The budget of G-lines takes a list of writes (R137, R138). -/
def fits (c : Ictx) (ws : List RegWrite) (late : Bool) : Prop := shapeOvf c.g ws late = none

/-- Every source of the instruction reads as U (R136). -/
def allUniform (i : Instr) (imm : Word) (c : Ictx) : Bool :=
  (usesOf i).fields.all fun u => !u.reads || (c.src imm).isU u.op u.count

/-- A time after sampling of an instruction of a class (R136, R142): 2 on the scalar path, which a full-width instruction with
uniform sources takes and a partial one never does. -/
def pathTime (i : Instr) (imm : Word) (cls : Nat) (c : Ictx) (lat : Nat) : Prop :=
  (lat = 2 ∨ lat = cls) ∧ (fullWidth c.mask = false → lat = cls) ∧ (fullWidth c.mask = true → allUniform i imm c = true → lat = 2)

/-- The writes of a lane function to D, in halves when it is wide. -/
def laneWrites (c : Ictx) (d : Operand) (wide : Bool) (f : Ictx → Nat → Res) : List RegWrite :=
  destWrites c d (if wide then 2 else 1) c.mask fun l => (f c l).val

/-- The instruction writes `f` into the lanes of its write mask of D, by Op on its sources in each lane (R171), at its class's
time after sampling or 2 cycles after it (R136), sets the flags of those lanes, and does nothing else. -/
def WritesLanes (i : Instr) (imm : Word) (d : Operand) (wide : Bool) (cls : Nat) (f : Ictx → Nat → Res) : Prop :=
  ∃ lat : Ictx → Nat, (∀ c, pathTime i imm cls c (lat c)) ∧
    Does i imm (fun c => fits c (laneWrites c d wide f) false) fun c =>
      .fixed c (lat c) (laneWrites c d wide f) [] (laneFlags c.mask fun l => (f c l).flags)

/-- The instruction writes `f` into the lanes of its write mask of the predicate D, 2 cycles after sampling (R142), sets the
flags of those lanes, and does nothing else. -/
def WritesPred (i : Instr) (imm : Word) (d : Operand) (f : Ictx → Nat → Bool × Flags) : Prop :=
  Does i imm (fun _ => True) fun c =>
    .fixed c 2 [] (predWrites d c.mask fun l => (f c l).1) (laneFlags c.mask fun l => (f c l).2)

end Sys2Proof.Safety
end

