-- ==== Sys2Proof/WellFormed.lean ====
section
/-!
DEFINITION. Which values of `Instr` stand for an encoding of the spec: the checks of R156 and R159 to R164 hold of the
fields, and an operand marked unlisted really has a code that R151 does not list.
-/
namespace Sys2Proof

/-- An operand is written the one way R151 gives it. -/
def Operand.wellFormed (o : Operand) : Bool := Operand.ofCode o.code == o

/-- The operands of a three-field instruction are well formed. -/
def Args.wellFormed (x : Args) : Bool := x.d.wellFormed && x.a.wellFormed && x.b.wellFormed
/-- The operands of a four-source instruction are well formed. -/
def Args4.wellFormed (x : Args4) : Bool := x.d.wellFormed && x.a.wellFormed && x.b.wellFormed && x.c.wellFormed
/-- The operands of a load or store are well formed. -/
def MemArgs.wellFormed (x : MemArgs) : Bool := x.d.wellFormed && x.a.wellFormed && x.b.wellFormed
/-- The operands of an atomic are well formed. -/
def AtomArgs.wellFormed (x : AtomArgs) : Bool :=
  x.d.wellFormed && x.a.wellFormed && x.b.wellFormed && x.c.wellFormed
/-- The operands of a handle form are well formed. -/
def HandleArgs.wellFormed (x : HandleArgs) : Bool := x.d.wellFormed && x.a.wellFormed && x.b.wellFormed

/-- The operands of an instruction are well formed; a step of the device has none. -/
def Instr.operandsWellFormed : Instr → Bool
  | .iadd x | .isub x | .imul x | .imulh x | .idiv x | .irem x | .imin x | .imax x | .iabs x | .ineg x
  | .iadds x | .isubs x | .icmp x | .shl x | .shr x | .sra x | .shrr x | .rotl x | .and x | .or x | .xor x
  | .andn x | .not x | .clz x | .popc x | .brev x | .mov x | .padd x | .psub x | .pmul x | .pmin x | .pmax x
  | .pshr x | .fadd x | .fsub x | .fmul x | .fmin x | .fmax x | .fcmp x | .frcp x | .frsq x | .fsqrt x
  | .fexp2 x | .flog2 x | .fsinp x | .fcosp x | .fclass x | .frnd x | .pfadd x | .pfmul x | .cvt x | .cvtn x
  | .cvtq x | .radd x | .rsub x | .rmul x | .rcvt x | .pand x | .por x | .pxor x | .pnot x | .pget x
  | .pset x | .slide x | .shfl x | .bcast x | .vote x | .redux x | .scan x | .matchLanes x | .pf x | .fence x
  | .fencex x | .seal x | .unseal x | .minit x | .lea x | .bra x | .brx x | .call x | .callx x | .ret x
  | .yield x | .exit x | .defer x | .nop x | .sleep x | .trap x | .tret x | .brk x | .rdsr x | .wrsr x
  | .setrate x | .clrrate x | .cksum x | .stsh x | .ldsh x | .getsh x | .launch x | .lstat x => x.wellFormed
  | .imad x | .imadw x | .isad x | .isel x | .lop3 x | .bfx x | .bfi x | .prmt x | .dot2 x | .dot4 x
  | .ffma x | .pffma x => x.wellFormed
  | .ld x | .st x | .lds x | .sts x | .ldp x | .stp x => x.wellFormed
  | .atom x | .atoms x => x.wellFormed
  | .jinit x | .jarrive x | .jwait x | .jtest x | .regx x | .acopy x | .afill x | .bcopy x | .hset x
  | .hget x | .nest x | .nestr x | .nestq x | .bankop x | .bankred x | .coll x | .cres x | .tclaim x
  | .trel x | .tzero x | .tmma x | .tmmas x | .tdrain x | .tsave x | .trest x | .tburst x | .tstat x => x.wellFormed
  | .fixedResultWrite _ | .variableResultReturn _ _ _ | .storePerformed _ | .pageWalkComplete _
  | .sleepExpiry _ | .gangFree _ | .admissionStep | .schedulerIssue _ | .engineCommandStart _
  | .commandChunk _ _ | .commandComplete _ | .bankOperation _ | .collInstanceComplete _ _ _
  | .matrixCommandStart _ _ | .matrixSequencerStep _ | .matrixCommandComplete _ _ | .tstatResult _
  | .burstHoldExpiry _ | .adjusterStep _ | .unitEvaluation _ | .pointChangeApply _ | .clockChangeComplete _
  | .pwrcapWrite _ | .ratefloorWrite _ | .vdshareWrite _ _ | .cspartWrite _ | .registerWrite _ _
  | .quantumWrite _ _ | .queueNotify _ _ | .guestNotify _ _ _ | .launchPacket _ | .poolPacket _
  | .copyPacket _ | .signalPacket _ | .waitPacket _ | .waitPoll _ | .ratePacket _ | .markPacket _
  | .basketFlushTimeout _ _ | .quantumExpiry _ | .preemptEntry _ | .engineStop _ | .gangStowed _
  | .rinseStart _ | .rinseComplete _ | .teamRestore _ | .memoryRequest _ _ | .rowRefresh _ _ | .mendGo _
  | .granuleMoving | .granuleCommit | .coreSpare _ | .rowRepair _ _ | .bankSpare _ _ | .channelRetire _
  | .hostMemAccess _ | .farTimeout | .linkDown | .linkUp | .resume | .fabricRequest _ _ | .fabricLaneFail _
  | .portDegradeComplete _ | .portModeRequest _ _ | .ptpMessage _ | .frameArrival _ _ _ _ | .framePublish _
  | .lossSlotWrite _ | .icbPoll _ | .ingressEnable _ _ | .ingressStop _ | .powerUp _ | .deviceReset
  | .patchGo _ | .patchCommit | .patchAbandon | .wext _ _ | .getMeasurements | .samplingArm _ _ _ _
  | .sampleRecord _ | .debugArm _ | .teamStop | .teamResume | .mappingRequest _ _ _ | .contextCreate _ _
  | .copyPacketComplete _ _ | .hostPreemptRequest _ _ _ | .contextTeardown _ | .repairComplete _
  | .preemptRequestWithdrawn _ => true

/-- A well-formed instruction: no reason of R169 applies to it, and its operands are those of R151. -/
def Instr.wellFormed (i : Instr) : Bool := (legality i).isNone && i.operandsWellFormed

end Sys2Proof
end

