-- ==== Sys2Proof/Certificates/Slice0/Obligations.lean ====
section
/-!
DEFINITION. The statements for the provers: what each instruction and each step of the device does, what every step keeps, and what
the encodings say.
-/

open Sys2Proof Machine Safety

/-! ### The lanes of an operand -/

namespace Sys2Proof.Claims

/-- The value of an operand in a lane, of 64 bits when `wide`. -/
def val (imm : Word) (wide : Bool) (o : Operand) (c : Ictx) (l : Nat) : Nat := (c.src imm).val o wide l
/-- The integer that an operand holds in a lane under a type (R64, R172). -/
def int (imm : Word) (t : Ty) (o : Operand) (c : Ictx) (l : Nat) : Int := readInt (tyWidth t) (tySigned t) (val imm (tyWide t) o c l)
/-- The integer that a 32-bit operand holds in a lane under the signedness of a type. -/
def int32 (imm : Word) (t : Ty) (o : Operand) (c : Ictx) (l : Nat) : Int := readInt 32 (tySigned t) (val imm false o c l)

/-- A two-source integer instruction of TY on exact integers, written by Sat or Wrap at the width of TY (R173, R175). -/
def Int2 (k : Args → Instr) (cls : Nat) (sat : Args → Bool) (f : Args → Int → Int → Int) : Prop :=
  ∀ x : Args, WritesLanes (k x) x.imm x.d (tyWide x.ty) cls fun c l =>
    narrow (tyWidth x.ty) (tySigned x.ty) (sat x) (f x (int x.imm x.ty x.a c l) (int x.imm x.ty x.b c l))

/-- A lane instruction on the values of its two sources, none of its results flagged. -/
def Val2 (k : Args → Instr) (cls : Nat) (wa wb wd : Args → Bool) (f : Args → Nat → Nat → Nat) : Prop :=
  ∀ x : Args, (k x).wellFormed = true → WritesLanes (k x) x.imm x.d (wd x) cls fun c l =>
    Res.pure (f x (val x.imm (wa x) x.a c l) (val x.imm (wb x) x.b c l))

/-- A lane instruction on two 32-bit sources. -/
def Word2 (k : Args → Instr) (cls : Nat) (f : Args → Nat → Nat → Res) : Prop :=
  ∀ x : Args, WritesLanes (k x) x.imm x.d false cls fun c l => f x (val x.imm false x.a c l) (val x.imm false x.b c l)

/-- A lane instruction on one 32-bit source. -/
def Word1 (k : Args → Instr) (cls : Nat) (f : Args → Nat → Res) : Prop :=
  ∀ x : Args, WritesLanes (k x) x.imm x.d false cls fun c l => f x (val x.imm false x.a c l)

/-- A lane instruction on three 32-bit sources; the immediate has 22 bits (R161). -/
def Word3 (k : Args4 → Instr) (cls : Nat) (f : Args4 → Nat → Nat → Nat → Res) : Prop :=
  ∀ x : Args4, let imm := x.imm.signExtend 32
    WritesLanes (k x) imm x.d false cls fun c l => f x (val imm false x.a c l) (val imm false x.b c l) (val imm false x.c c l)

/-- The operands are pairs under a 64-bit TY (R172). -/
def pairs (x : Args) : Bool := tyWide x.ty
/-- The operand is one register. -/
def single (_ : Args) : Bool := false

/-- Bit i of a number. -/
def bit (x i : Nat) : Nat := x / 2 ^ i % 2

/-- The exact sum of the element products of two packed words (R180). -/
def dot (t : Ty) (a b : Nat) : Int :=
  let e := if t = .i8x4 ∨ t = .u8x4 then 8 else 16
  ((List.range (32 / e)).map fun i =>
    readInt e (tySigned t) (a / 2 ^ (e * i)) * readInt e (tySigned t) (b / 2 ^ (e * i))).foldl (· + ·) 0

end Sys2Proof.Claims

open Sys2Proof Machine Safety Claims

/-- R173, R175, R176: IADD, ISUB, IMUL, IMULH, IMAD, IMADW, IABS, INEG, ISAD, IADDS, ISUBS, IMIN and IMAX complete for every operand,
and write the exact integer the table of R175 gives, by Sat or Wrap. -/
def Obligations.IntegerArithmeticResults : Prop :=
  Int2 .iadd 4 (·.sat) (fun _ a b => a + b) ∧
  Int2 .isub 4 (·.sat) (fun _ a b => a - b) ∧
  Int2 .imul 6 (·.sat) (fun _ a b => a * b) ∧
  Int2 .imin 4 (fun _ => false) (fun _ a b => if a ≤ b then a else b) ∧
  Int2 .imax 4 (fun _ => false) (fun _ a b => if a ≤ b then b else a) ∧
  Int2 .iadds 4 (·.sat) (fun x a b => a + b * 2 ^ x.sel.toNat) ∧
  Int2 .isubs 4 (·.sat) (fun x a b => a - b * 2 ^ x.sel.toNat) ∧
  (∀ x : Args, WritesLanes (.imulh x) x.imm x.d false 6 fun c l =>
    Res.pure (wrapNat 32 (Int.fdiv (int32 x.imm x.ty x.a c l * int32 x.imm x.ty x.b c l) (2 ^ 32)))) ∧
  (∀ x : Args, WritesLanes (.iabs x) x.imm x.d (tyWide x.ty) 4 fun c l =>
    narrow (tyWidth x.ty) (tySigned x.ty) x.sat
      (if int x.imm x.ty x.a c l < 0 then -int x.imm x.ty x.a c l else int x.imm x.ty x.a c l)) ∧
  (∀ x : Args, WritesLanes (.ineg x) x.imm x.d (tyWide x.ty) 4 fun c l =>
    narrow (tyWidth x.ty) (tySigned x.ty) x.sat (-int x.imm x.ty x.a c l)) ∧
  (∀ x : Args4, let imm := x.imm.signExtend 32
    WritesLanes (.imad x) imm x.d false 6 fun c l =>
      narrow 32 (tySigned x.ty) x.sat (int32 imm x.ty x.a c l * int32 imm x.ty x.b c l + int32 imm x.ty x.c c l)) ∧
  (∀ x : Args4, let imm := x.imm.signExtend 32
    WritesLanes (.imadw x) imm x.d true 6 fun c l =>
      narrow 64 (tySigned x.ty) x.sat
        (int32 imm x.ty x.a c l * int32 imm x.ty x.b c l + readInt 64 (tySigned x.ty) (val imm true x.c c l))) ∧
  (∀ x : Args4, let imm := x.imm.signExtend 32
    WritesLanes (.isad x) imm x.d false 6 fun c l =>
      narrow 32 (tySigned x.ty) x.sat
        ((int32 imm x.ty x.a c l - int32 imm x.ty x.b c l).natAbs + int32 imm x.ty x.c c l))

/-- R176: IDIV and IREM complete for every operand, division by zero among them. -/
def Obligations.IntegerDivisionResults : Prop :=
  (∀ x : Args, WritesLanes (.idiv x) x.imm x.d false 36 fun c l =>
    let a := int32 x.imm x.ty x.a c l
    let b := int32 x.imm x.ty x.b c l
    if b = 0 then ⟨2 ^ 32 - 1, fNvl⟩
    else if tySigned x.ty = true ∧ a = -2 ^ 31 ∧ b = -1 then (if x.sat then ⟨2 ^ 31 - 1, fSat⟩ else ⟨2 ^ 31, fNone⟩)
    else Res.pure (wrapNat 32 (Int.tdiv a b))) ∧
  (∀ x : Args, WritesLanes (.irem x) x.imm x.d false 36 fun c l =>
    let a := int32 x.imm x.ty x.a c l
    let b := int32 x.imm x.ty x.b c l
    if b = 0 then ⟨wrapNat 32 a, fNvl⟩ else Res.pure (wrapNat 32 (Int.tmod a b)))

/-- R173: what an exact integer becomes at n bits: modulo 2^n under Wrap; under Sat the limit it passes, with the flag SAT. -/
def Sys2Proof.Claims.SatAndWrap : Prop :=
  ∀ (n : Nat) (signed : Bool) (v : Int), 0 < n →
    let lo : Int := if signed then -2 ^ (n - 1) else 0
    let hi : Int := if signed then 2 ^ (n - 1) - 1 else 2 ^ n - 1
    (readInt n signed (narrow n signed false v).val - v) % 2 ^ n = 0 ∧ (narrow n signed false v).val < 2 ^ n ∧
    (narrow n signed false v).flags = fNone ∧
    readInt n signed (narrow n signed true v).val = (if v < lo then lo else if hi < v then hi else v) ∧
    (narrow n signed true v).val < 2 ^ n ∧
    (narrow n signed true v).flags = (if v < lo ∨ hi < v then fSat else fNone)

/-- R175, R178: AND, OR, XOR, ANDN, NOT and LOP3 complete, and work on every bit alike: D's bit is the table's entry that the
sources' bits select. -/
def Sys2Proof.Claims.BitwiseResults : Prop :=
  ∃ f : (Nat → Nat → Nat → Nat) → Nat → Nat → Nat → Nat → Nat,
    (∀ t n a b c i, i < n → bit (f t n a b c) i = t (bit a i) (bit b i) (bit c i) % 2) ∧ (∀ t n a b c, f t n a b c < 2 ^ n) ∧
    Val2 .and 4 pairs pairs pairs (fun x a b => f (fun a b _ => a * b) (tyWidth x.ty) a b 0) ∧
    Val2 .or 4 pairs pairs pairs (fun x a b => f (fun a b _ => a + b + a * b) (tyWidth x.ty) a b 0) ∧
    Val2 .xor 4 pairs pairs pairs (fun x a b => f (fun a b _ => a + b) (tyWidth x.ty) a b 0) ∧
    Val2 .andn 4 pairs pairs pairs (fun x a b => f (fun a b _ => a * (1 - b)) (tyWidth x.ty) a b 0) ∧
    Val2 .not 4 pairs pairs pairs (fun x a _ => f (fun a _ _ => 1 - a) (tyWidth x.ty) a 0 0) ∧
    Word3 .lop3 4 (fun x a b c => Res.pure (f (fun a b c => bit ((if x.sat then 128 else 0) + x.sel.toNat * 8 + x.rnd.toNat)
      (4 * a + 2 * b + c)) 32 a b c))

/-- R177: SHL, SHR, SRA, ROTL and SHRR complete for every shift amount. -/
def Sys2Proof.Claims.ShiftResults : Prop :=
  Val2 .shl 4 pairs single pairs (fun x a c => a * 2 ^ c % 2 ^ tyWidth x.ty) ∧
  Val2 .shr 4 pairs single pairs (fun _ a c => a / 2 ^ c) ∧
  Val2 .sra 4 pairs single pairs (fun x a c => wrapNat (tyWidth x.ty) (Int.fdiv (signedOf (tyWidth x.ty) a) (2 ^ c))) ∧
  (∃ rot : Nat → Nat → Nat → Nat,
    (∀ n a c i, 0 < n → a < 2 ^ n → i < n → bit (rot n a c) ((i + c) % n) = bit a i) ∧ (∀ n a c, 0 < n → a < 2 ^ n → rot n a c < 2 ^ n) ∧
    Val2 .rotl 4 pairs single pairs (fun x a c => rot (tyWidth x.ty) a c)) ∧
  Word2 .shrr 4 (fun x a c =>
    let w := if x.sel = 0#4 then 32 else if x.sel = 1#4 then 16 else 8
    let y := (roundInt x.rnd.toNat (readInt 32 (tySigned x.ty) a) (2 ^ min c 40)).1
    ⟨wrapNat 32 (readInt w (tySigned x.ty) (narrow w (tySigned x.ty) x.sat y).val), (narrow w (tySigned x.ty) x.sat y).flags⟩)

/-- R175, R178: CLZ, POPC, BREV, BFX, BFI and PRMT complete: the count of leading zeros and of ones, the bits in reverse order, a
field taken out or put in, bytes selected. -/
def Sys2Proof.Claims.BitFieldResults : Prop :=
  (∃ clz : Nat → Nat → Nat,
    (∀ n a, a < 2 ^ n → clz n a ≤ n ∧ a < 2 ^ (n - clz n a) ∧ (clz n a < n → 2 ^ (n - clz n a - 1) ≤ a)) ∧
    Val2 .clz 4 pairs pairs single (fun x a _ => clz (tyWidth x.ty) a)) ∧
  Val2 .popc 4 pairs pairs single (fun x a _ => ((List.range (tyWidth x.ty)).map (bit a)).foldl (· + ·) 0) ∧
  (∃ rev : Nat → Nat → Nat, (∀ n a i, i < n → bit (rev n a) i = bit a (n - 1 - i)) ∧ (∀ n a, rev n a < 2 ^ n) ∧
    Val2 .brev 4 pairs pairs pairs (fun x a _ => rev (tyWidth x.ty) a)) ∧
  Word3 .bfx 4 (fun x a b c =>
    let p := b % 256
    let w := min (c % 256) (32 - p)
    Res.pure (if w = 0 then 0 else wrapNat 32 (readInt w (tySigned x.ty) (a / 2 ^ p)))) ∧
  (∃ put : Nat → Nat → Nat → Nat → Nat,
    (∀ a b p w i, i < 32 → bit (put a b p w) i = if p ≤ i ∧ i < p + w then bit a (i - p) else bit b i) ∧ (∀ a b p w, put a b p w < 2 ^ 32) ∧
    Word3 .bfi 4 (fun _ a b c => Res.pure (put a b (c % 256) (c / 256 % 256)))) ∧
  (∃ perm : Nat → Nat → Nat → Nat,
    (∀ a b c i, i < 4 → perm a b c / 2 ^ (8 * i) % 256 =
      let sel := c / 2 ^ (4 * i) % 16
      let y := (a % 2 ^ 32 + b % 2 ^ 32 * 2 ^ 32) / 2 ^ (8 * (sel % 8)) % 256
      if sel < 8 then y else if y < 128 then 0 else 255) ∧ (∀ a b c, perm a b c < 2 ^ 32) ∧
    Word3 .prmt 4 (fun _ a b c => Res.pure (perm a b c)))

namespace Sys2Proof.Claims

/-- A float format as R66 gives it: exponent bits, fraction bits, bias, the code of the largest finite value, the code of +∞ where there is
one, and the canonical NaN. -/
structure Fmt where
  eb : Nat
  fb : Nat
  bias : Nat
  max : Nat
  inf : Option Nat
  nan : Nat
/-- The formats of R66. -/
def fmtOf : Ty → Fmt
  | .f16 => ⟨5, 10, 15, 0x7BFF, some 0x7C00, 0x7E00⟩
  | .bf16 => ⟨8, 7, 127, 0x7F7F, some 0x7F80, 0x7FC0⟩
  | .e4m3 => ⟨4, 3, 7, 0x7E, none, 0x7F⟩
  | .e5m2 => ⟨5, 2, 15, 0x7B, some 0x7C, 0x7E⟩
  | .f8z => ⟨4, 3, 8, 0x7F, none, 0x80⟩
  | _ => ⟨8, 23, 127, 0x7F7FFFFF, some 0x7F800000, 0x7FC00000⟩
/-- The sign bit of a code, and the code without it. -/
def Fmt.sign (f : Fmt) (w : Nat) : Nat := w / 2 ^ (f.eb + f.fb) % 2
def Fmt.mag (f : Fmt) (w : Nat) : Nat := w % 2 ^ (f.eb + f.fb)
/-- The code has the width of the format. -/
def Fmt.has (f : Fmt) (w : Nat) : Prop := w < 2 ^ (1 + f.eb + f.fb)
/-- The code is a finite number. -/
def Fmt.finite (f : Fmt) (w : Nat) : Prop := f.has w ∧ f.mag w ≤ f.max ∧ w ≠ f.nan
/-- The code is an infinity. -/
def Fmt.infinite (f : Fmt) (w : Nat) : Prop := f.has w ∧ f.inf = some (f.mag w)
/-- The code is a NaN, and a signalling one (R67). -/
def Fmt.isNan (f : Fmt) (w : Nat) : Prop := f.has w ∧ ¬ f.finite w ∧ ¬ f.infinite w
def Fmt.signalling (f : Fmt) (w : Nat) : Prop := f.isNan w ∧ 7 ≤ f.fb ∧ w / 2 ^ (f.fb - 1) % 2 = 0
/-- The exponent of the least number: a finite code is worth `num` over 2 to this power. -/
def Fmt.one (f : Fmt) : Nat := f.bias - 1 + f.fb
def Fmt.num (f : Fmt) (w : Nat) : Int :=
  let e := f.mag w / 2 ^ f.fb
  let m : Nat := if e = 0 then w % 2 ^ f.fb else (2 ^ f.fb + w % 2 ^ f.fb) * 2 ^ (e - 1)
  if f.sign w = 1 then -m else m
/-- NVL where some operand is a signalling NaN (R67). -/
def Quiet (f : Fmt) (ws : List Nat) (fl : Flags) : Prop :=
  ((∃ w ∈ ws, f.signalling w) → fl = fNvl) ∧ ((∀ w ∈ ws, ¬ f.signalling w) → fl = fNone)

/-- The exact value x over 2^(one + k), no zero, passes the largest finite number when it is rounded with an unbounded exponent (R69, R70). -/
def Fmt.over (f : Fmt) (rnd k : Nat) (x : Int) : Prop :=
  let c : Nat := 2 ^ f.fb + f.max % 2 ^ f.fb
  let top : Nat := 2 ^ (f.max / 2 ^ f.fb - 1 + k)
  match rnd with
  | 1 => (c + 1) * top ≤ x.natAbs
  | 2 => (((c + 1) * top : Nat) : Int) ≤ x ∨ x < -((c * top : Nat) : Int)
  | 3 => ((c * top : Nat) : Int) < x ∨ x ≤ -(((c + 1) * top : Nat) : Int)
  | 0 => if c % 2 = 0 then (2 * c + 1) * top < 2 * x.natAbs else (2 * c + 1) * top ≤ 2 * x.natAbs
  | _ => (2 * c + 1) * top ≤ 2 * x.natAbs
/-- What an overflow gives (R70). -/
def Fmt.atOver (f : Fmt) (rnd : Nat) (sat : Bool) (x : Int) : Nat :=
  let s := if x < 0 then 2 ^ (f.eb + f.fb) else 0
  if sat = true ∨ rnd = 1 ∨ (rnd = 2 ∧ 0 < x) ∨ (rnd = 3 ∧ x < 0) then f.max + s
  else match f.inf with | some i => i + s | none => f.nan
/-- The finite code w is x over 2^(one + k) rounded by the mode (R69). -/
def Fmt.rounded (f : Fmt) (rnd k : Nat) (x : Int) (w : Nat) : Prop :=
  let v := f.num w * 2 ^ k
  let others := fun (p : Int → Prop) => ∀ u, f.finite u → p (f.num u * 2 ^ k)
  match rnd with
  | 1 => 0 ≤ v * x ∧ v.natAbs ≤ x.natAbs ∧ others fun z => z.natAbs ≤ x.natAbs → z.natAbs ≤ v.natAbs
  | 2 => v ≤ x ∧ others fun z => z ≤ x → z ≤ v
  | 3 => x ≤ v ∧ others fun z => x ≤ z → v ≤ z
  | 0 => others fun z => (v - x).natAbs < (z - x).natAbs ∨ z = v ∨ ((v - x).natAbs = (z - x).natAbs ∧ w % 2 = 0)
  | _ => others fun z => (v - x).natAbs < (z - x).natAbs ∨ z = v ∨ ((v - x).natAbs = (z - x).natAbs ∧ z.natAbs < v.natAbs)
/-- The exact value is tiny (R71). -/
def Fmt.tiny (f : Fmt) (rnd k : Nat) (x : Int) : Prop :=
  let away := 2 * x.natAbs ≤ (2 ^ (f.fb + 1) - 1) * 2 ^ k
  let toward := x.natAbs < 2 ^ (f.fb + k)
  match rnd with
  | 1 => toward
  | 2 => if 0 < x then toward else away
  | 3 => if x < 0 then toward else away
  | _ => 4 * x.natAbs + 2 ^ k < 2 ^ (f.fb + 2 + k)
/-- The result r is the exact value x over 2^(one + k), no zero, rounded once, with its flags (R69 to R72). -/
def Fmt.rounds (f : Fmt) (rnd : Nat) (sat : Bool) (k : Nat) (x : Int) (r : Res) : Prop :=
  (f.over rnd k x → r = ⟨f.atOver rnd sat x, fOfl ||| fInx ||| (if sat then fSat else fNone)⟩) ∧
  (¬ f.over rnd k x → f.finite r.val ∧ f.rounded rnd k x r.val ∧
    (f.sign r.val = if x < 0 ∧ ¬ (f.nan = 0x80 ∧ f.num r.val = 0) then 1 else 0) ∧
    (f.num r.val * 2 ^ k = x → r.flags = fNone) ∧
    (f.num r.val * 2 ^ k ≠ x → (f.tiny rnd k x → r.flags = fInx ||| fUfl) ∧ (¬ f.tiny rnd k x → r.flags = fInx)))
/-- What an infinite result of a sign is (R70). -/
def Fmt.atInf (f : Fmt) (sat : Bool) (s : Nat) : Res :=
  if sat then ⟨f.max + s * 2 ^ (f.eb + f.fb), fSat⟩
  else match f.inf with | some i => ⟨i + s * 2 ^ (f.eb + f.fb), fNone⟩ | none => ⟨f.nan, fNvl⟩
/-- A zero of a sign. -/
def Fmt.zero (f : Fmt) (s : Nat) : Res := ⟨if f.nan = 0x80 then 0 else s * 2 ^ (f.eb + f.fb), fNone⟩
/-- The sign of a zero sum of values of two signs (R68). -/
def zeroSign (rnd s t : Nat) : Nat := if s = t then s else if rnd = 2 then 1 else 0

/-- R68, R70, R182: a sum: exact and rounded once; of infinities, NaNs, zeros. -/
def Sums (f : Fmt) (g : Nat → Bool → Nat → Nat → Res) : Prop :=
  ∀ rnd sat a b, rnd < 5 → f.has a → f.has b → let r := g rnd sat a b
    (f.isNan a ∨ f.isNan b → r.val = f.nan ∧ Quiet f [a, b] r.flags) ∧
    (f.infinite a → f.infinite b → f.sign a ≠ f.sign b → r = ⟨f.nan, fNvl⟩) ∧
    (f.infinite a → f.finite b ∨ (f.infinite b ∧ f.sign a = f.sign b) → r = f.atInf sat (f.sign a)) ∧
    (f.finite a → f.infinite b → r = f.atInf sat (f.sign b)) ∧
    (f.finite a → f.finite b → f.num a + f.num b = 0 → r = f.zero (zeroSign rnd (f.sign a) (f.sign b))) ∧
    (f.finite a → f.finite b → f.num a + f.num b ≠ 0 → f.rounds rnd sat 0 (f.num a + f.num b) r)
/-- R68, R70, R182: a product. -/
def Products (f : Fmt) (g : Nat → Bool → Nat → Nat → Res) : Prop :=
  ∀ rnd sat a b, rnd < 5 → f.has a → f.has b → let r := g rnd sat a b
    let s := (f.sign a + f.sign b) % 2
    (f.isNan a ∨ f.isNan b → r.val = f.nan ∧ Quiet f [a, b] r.flags) ∧
    ((f.infinite a ∧ f.mag b = 0) ∨ (f.mag a = 0 ∧ f.infinite b) → r = ⟨f.nan, fNvl⟩) ∧
    ((f.infinite a ∧ ¬ f.isNan b ∧ f.mag b ≠ 0) ∨ (¬ f.isNan a ∧ f.mag a ≠ 0 ∧ f.infinite b) → r = f.atInf sat s) ∧
    (f.finite a → f.finite b → f.num a * f.num b = 0 → r = f.zero s) ∧
    (f.finite a → f.finite b → f.num a * f.num b ≠ 0 → f.rounds rnd sat f.one (f.num a * f.num b) r)
/-- R68, R70, R182: a product and a sum with one rounding; ∞ × 0 is invalid whatever the third is. -/
def Fused (f : Fmt) (g : Nat → Bool → Nat → Nat → Nat → Res) : Prop :=
  ∀ rnd sat a b c, rnd < 5 → f.has a → f.has b → f.has c → let r := g rnd sat a b c
    let s := (f.sign a + f.sign b) % 2
    let invalid := (f.infinite a ∧ f.mag b = 0) ∨ (f.mag a = 0 ∧ f.infinite b)
    let infinite := (f.infinite a ∧ ¬ f.isNan b ∧ f.mag b ≠ 0) ∨ (¬ f.isNan a ∧ f.mag a ≠ 0 ∧ f.infinite b)
    let x := f.num a * f.num b + f.num c * 2 ^ f.one
    (invalid → r = ⟨f.nan, fNvl⟩) ∧
    (¬ invalid → f.isNan a ∨ f.isNan b ∨ f.isNan c → r.val = f.nan ∧ Quiet f [a, b, c] r.flags) ∧
    (infinite → f.infinite c → f.sign c ≠ s → r = ⟨f.nan, fNvl⟩) ∧
    (infinite → f.finite c ∨ (f.infinite c ∧ f.sign c = s) → r = f.atInf sat s) ∧
    (f.finite a → f.finite b → f.infinite c → r = f.atInf sat (f.sign c)) ∧
    (f.finite a → f.finite b → f.finite c → x = 0 → r = f.zero (zeroSign rnd s (f.sign c))) ∧
    (f.finite a → f.finite b → f.finite c → x ≠ 0 → f.rounds rnd sat f.one x r)
/-- R182: the smaller or the larger operand, −0 below +0; one NaN gives the other operand. -/
def Selects (f : Fmt) (least : Bool) (g : Nat → Nat → Res) : Prop :=
  ∀ a b, f.has a → f.has b → let r := g a b
    let place := fun (w : Nat) => (if f.sign w = 1 then -(f.mag w : Int) else f.mag w + 1 : Int)
    Quiet f [a, b] r.flags ∧ (f.isNan a → f.isNan b → r.val = f.nan) ∧ (f.isNan a → ¬ f.isNan b → r.val = b) ∧
    (¬ f.isNan a → f.isNan b → r.val = a) ∧
    (¬ f.isNan a → ¬ f.isNan b → r.val = if least = true ↔ place b < place a then b else a)
/-- The integer n is x over 2^k rounded by the mode (R69, R73). -/
def IntegerOf (rnd k : Nat) (x n : Int) : Prop :=
  let one : Int := 2 ^ k
  match rnd with
  | 1 => 0 ≤ n * x ∧ n.natAbs * 2 ^ k ≤ x.natAbs ∧ x.natAbs < (n.natAbs + 1) * 2 ^ k
  | 2 => n * one ≤ x ∧ x < (n + 1) * one
  | 3 => (n - 1) * one < x ∧ x ≤ n * one
  | 0 => 2 * (n * one - x).natAbs < 2 ^ k ∨ (2 * (n * one - x).natAbs = 2 ^ k ∧ n % 2 = 0)
  | _ => 2 * (n * one - x).natAbs < 2 ^ k ∨ (2 * (n * one - x).natAbs = 2 ^ k ∧ x.natAbs < n.natAbs * 2 ^ k)
/-- R73: a float becomes an integer of a type: rounded, at the limit of the range with NVL beyond it; a NaN gives 0. -/
def BecomesInteger (f : Fmt) (t : Ty) (rnd a : Nat) (r : Res) : Prop :=
  let w := tyWidth t
  let lo : Int := if tySigned t then -2 ^ (w - 1) else 0
  let hi : Int := if tySigned t then 2 ^ (w - 1) - 1 else 2 ^ w - 1
  (f.isNan a → r = ⟨0, fNvl⟩) ∧
  (f.infinite a → r = ⟨wrapNat w (if f.sign a = 1 then lo else hi), fNvl⟩) ∧
  (f.finite a → ∃ n, IntegerOf rnd f.one (f.num a) n ∧
    r = if n < lo then ⟨wrapNat w lo, fNvl⟩ else if hi < n then ⟨wrapNat w hi, fNvl⟩
      else ⟨wrapNat w n, if n * 2 ^ f.one = f.num a then fNone else fInx⟩)

end Sys2Proof.Claims

/-- R66 to R73, R181, R182, R188, R189: what the float instructions compute. A sum, a product and a fused product and sum is the exact value rounded once
by RND, with INX, UFL and OFL as the rounding gives them; NaNs, infinities and zeros follow their own rules; a minimum and a maximum select; a
conversion rounds the exact value to the format, or to the integer type, it goes to. -/
def Obligations.FloatValues : Prop :=
  (∀ t : Ty, t = .f32 ∨ t = .f16 ∨ t = .bf16 →
    Sums (fmtOf t) (fAdd (tyFloat t)) ∧ Products (fmtOf t) (fMul (tyFloat t)) ∧ Fused (fmtOf t) (fFma (tyFloat t)) ∧
    Selects (fmtOf t) true (fMinMax (tyFloat t) true) ∧ Selects (fmtOf t) false (fMinMax (tyFloat t) false)) ∧
  Sums (fmtOf .f32) (fun rnd sat a b => fSub fmtF32 rnd sat a
    (if 2 ^ 31 ≤ b then b - 2 ^ 31 else b + 2 ^ 31)) ∧
  (∀ st dt : Ty, tyIsFloat st = true → tyIsFloat dt = true → ∀ rnd sat a, rnd < 5 → (fmtOf st).has a →
    let f := fmtOf st
    let g := fmtOf dt
    let r := convert st dt rnd sat a
    (f.isNan a → r.val = g.nan ∧ Quiet f [a] r.flags) ∧ (f.infinite a → r = if st = dt then ⟨a, fNone⟩ else g.atInf sat (f.sign a)) ∧
    (f.finite a → f.num a = 0 → r = g.zero (f.sign a)) ∧
    (f.finite a → f.num a ≠ 0 → g.rounds rnd sat (f.one - g.one) (f.num a * 2 ^ (g.one - f.one)) r)) ∧
  (∀ st dt : Ty, tyIsFloat st = false → tyIsFloat dt = true → ∀ rnd sat a, rnd < 5 →
    let n := readInt (tyWidth st) (tySigned st) a
    (n = 0 → convert st dt rnd sat a = ⟨0, fNone⟩) ∧
    (n ≠ 0 → (fmtOf dt).rounds rnd sat 0 (n * 2 ^ (fmtOf dt).one) (convert st dt rnd sat a))) ∧
  (∀ st dt : Ty, tyIsFloat st = true → dt ∈ [Ty.i8, .u8, .i16, .u16, .i32, .u32, .i64, .u64] → ∀ rnd sat a, rnd < 5 → (fmtOf st).has a →
    BecomesInteger (fmtOf st) dt rnd a (convert st dt rnd sat a))

/-- R158, R175, R179, R183, R194: MOV, ISEL, and the instructions that write a predicate complete: ICMP, FCMP, PAND, POR, PXOR, PNOT
and PSET; PGET writes all 32 bits of a predicate into each lane. -/
def Obligations.SelectAndPredicateResults : Prop :=
  Val2 .mov 4 pairs pairs pairs (fun _ a _ => a) ∧
  (∀ x : Args4, let imm := x.imm.signExtend 32
    WritesLanes (.isel x) imm x.d (tyWide x.ty) 4 fun c l =>
      Res.pure (if val imm false x.c c l ≠ 0 then val imm (tyWide x.ty) x.a c l else val imm (tyWide x.ty) x.b c l)) ∧
  (∀ x : Args, WritesPred (.icmp x) x.imm x.d fun c l =>
    let a := int x.imm x.ty x.a c l
    let b := int x.imm x.ty x.b c l
    (match x.sel.toNat with
      | 0 => decide (a = b) | 1 => decide (a ≠ b) | 2 => decide (a < b) | 3 => decide (a ≤ b) | 4 => decide (a > b)
      | 5 => decide (a ≥ b) | _ => false, fNone)) ∧
  (∀ x : Args, WritesPred (.fcmp x) x.imm x.d fun c l => fCmp fmtF32 x.sel.toNat (val x.imm false x.a c l) (val x.imm false x.b c l)) ∧
  (∀ x : Args, WritesPred (.pand x) x.imm x.d fun c l =>
    (decide (val x.imm false x.a c l ≠ 0 ∧ val x.imm false x.b c l ≠ 0), fNone)) ∧
  (∀ x : Args, WritesPred (.por x) x.imm x.d fun c l =>
    (decide (val x.imm false x.a c l ≠ 0 ∨ val x.imm false x.b c l ≠ 0), fNone)) ∧
  (∀ x : Args, WritesPred (.pxor x) x.imm x.d fun c l =>
    (decide ((val x.imm false x.a c l ≠ 0) ≠ (val x.imm false x.b c l ≠ 0)), fNone)) ∧
  (∀ x : Args, WritesPred (.pnot x) x.imm x.d fun c l => (decide (val x.imm false x.a c l = 0), fNone)) ∧
  (∀ x : Args, WritesPred (.pset x) x.imm x.d fun c l => (decide (bit (val x.imm false x.a c l) l = 1), fNone)) ∧
  (∀ (x : Args) (n : BitVec 3), x.a = .p n → WritesLanes (.pget x) x.imm x.d false 2 fun c _ => Res.pure (c.v.pred n.toNat).toNat)

/-- R65, R180: the packed integer instructions complete: DOT2, DOT4, PADD, PSUB, PMUL, PMIN, PMAX and PSHR, element by element. -/
def Obligations.PackedIntegerResults : Prop :=
  Word3 .dot2 6 (fun x a b c => narrow 32 (tySigned x.ty) x.sat (readInt 32 (tySigned x.ty) c + dot x.ty a b)) ∧
  Word3 .dot4 6 (fun x a b c => narrow 32 (tySigned x.ty) x.sat (readInt 32 (tySigned x.ty) c + dot x.ty a b)) ∧
  ∃ each : Nat → (Nat → Nat → Res) → Nat → Nat → Res,
    (∀ e f a b i, (e = 8 ∨ e = 16) → (∀ a b, (f a b).val < 2 ^ e) → i < 32 / e →
      (each e f a b).val / 2 ^ (e * i) % 2 ^ e = (f (a / 2 ^ (e * i) % 2 ^ e) (b / 2 ^ (e * i) % 2 ^ e)).val) ∧
    (∀ e f a b k, (e = 8 ∨ e = 16) → ((each e f a b).flags.getLsbD k = true ↔
      ∃ i < 32 / e, (f (a / 2 ^ (e * i) % 2 ^ e) (b / 2 ^ (e * i) % 2 ^ e)).flags.getLsbD k = true)) ∧
    let ints : Args → Bool → (Int → Int → Int) → Nat → Nat → Res := fun x sat op a b =>
      let e := elemWidth x.ty
      narrow e (tySigned x.ty) sat (op (readInt e (tySigned x.ty) a) (readInt e (tySigned x.ty) b))
    Word2 .padd 4 (fun x => each (elemWidth x.ty) (ints x x.sat fun a b => a + b)) ∧
    Word2 .psub 4 (fun x => each (elemWidth x.ty) (ints x x.sat fun a b => a - b)) ∧
    Word2 .pmul 6 (fun x => each (elemWidth x.ty) (ints x x.sat fun a b => a * b)) ∧
    Word2 .pmin 4 (fun x => each (elemWidth x.ty) (ints x false fun a b => if a ≤ b then a else b)) ∧
    Word2 .pmax 4 (fun x => each (elemWidth x.ty) (ints x false fun a b => if a ≤ b then b else a)) ∧
    Word2 .pshr 4 (fun x => each (elemWidth x.ty) fun a b =>
      let e := elemWidth x.ty
      Res.pure (wrapNat e (roundInt x.rnd.toNat (readInt e (tySigned x.ty) a) (2 ^ (b % e))).1))

/-- R68, R181, R182, R188: the float instructions complete for every bit pattern: FADD, FSUB, FMUL, FFMA, FMIN, FMAX and the packed
PFADD, PFMUL, PFFMA. -/
def Obligations.FloatArithmeticResults : Prop :=
  Word2 .fadd 6 (fun x a b => fAdd fmtF32 x.rnd.toNat x.sat a b) ∧
  Word2 .fsub 6 (fun x a b => fSub fmtF32 x.rnd.toNat x.sat a b) ∧
  Word2 .fmul 6 (fun x a b => fMul fmtF32 x.rnd.toNat x.sat a b) ∧
  Word2 .fmin 6 (fun _ a b => fMinMax fmtF32 true a b) ∧
  Word2 .fmax 6 (fun _ a b => fMinMax fmtF32 false a b) ∧
  Word3 .ffma 6 (fun x a b c => fFma fmtF32 x.rnd.toNat x.sat a b c) ∧
  Word2 .pfadd 6 (fun x a b => packed 16 (fun a b _ => fAdd (tyFloat x.ty) x.rnd.toNat x.sat a b) a b 0) ∧
  Word2 .pfmul 6 (fun x a b => packed 16 (fun a b _ => fMul (tyFloat x.ty) x.rnd.toNat x.sat a b) a b 0) ∧
  Word3 .pffma 6 (fun x a b c => packed 16 (fun a b c => fFma (tyFloat x.ty) x.rnd.toNat x.sat a b c) a b c)

/-- R175, R177, R178: AND, OR, XOR, ANDN, NOT, LOP3, SHL, SHR, SRA, ROTL, SHRR, CLZ, POPC, BREV, BFX, BFI and PRMT complete for every
operand. -/
def Obligations.BitwiseAndShiftResults : Prop := Claims.BitwiseResults ∧ Claims.ShiftResults ∧ Claims.BitFieldResults

namespace Sys2Proof.Claims

/-- The special inputs of a function of R184 (R185): what +0, −0, +∞, −∞ and the finite numbers below 0 give without saturation,
as bits and flags; `none` where the function is computed. Every NaN gives the canonical NaN, with NVL when it is signalling. -/
def Special (f : Nat → Res) (zp zn ip ineg : Res) (neg : Option Res) : Prop :=
  f 0 = zp ∧ f 0x80000000 = zn ∧ f 0x7F800000 = ip ∧ f 0xFF800000 = ineg ∧
  (∀ r, neg = some r → ∀ a, 0x80000000 < a → a < 0xFF800000 → f a = r) ∧
  (∀ a, a < 2 ^ 32 → 0x7F800000 < a % 2 ^ 31 → f a = ⟨0x7FC00000, if a % 2 ^ 23 < 2 ^ 22 then fNvl else fNone⟩)

/-- The canonical NaN with NVL. -/
def invalid : Res := ⟨0x7FC00000, fNvl⟩

/-- The value of an SC16 word over 2^134 (R81): (1 + F/256)·2^(E − 127), and 0 where E is 0. -/
def scaleNum (w : Nat) : Nat := if w / 256 % 256 = 0 then 0 else (256 + w % 256) * 2 ^ (w / 256 % 256 - 1)

/-- Channel 1, 2 or 3 of a RES28 word, reduced (R76, R77). -/
def chan (w : Nat) : Nat → Nat
  | 1 => w % 512 % 511
  | 2 => w / 512 % 512
  | _ => w / 2 ^ 18 % 1024 % 513

/-- A RES28 word of three channels (R76). -/
def chans (c1 c2 c3 : Int) : Nat := (c3 % 513).toNat * 2 ^ 18 + (c2 % 512).toNat * 2 ^ 9 + (c1 % 511).toNat

/-- A RES28 word is malformed (R77). -/
def malformed (w : Nat) : Prop := w % 512 = 511 ∨ 512 < w / 2 ^ 18 % 1024 ∨ w / 2 ^ 28 % 16 ≠ 0

/-- A residue instruction: each channel by `op` modulo its modulus; RNG when an operand is malformed (R77, R192). -/
def Residue2 (k : Args → Instr) (op : Int → Int → Int) : Prop :=
  ∃ f : Nat → Nat → Res, Word2 k 6 (fun _ => f) ∧ ∀ a b,
    (f a b).val = chans (op (chan a 1) (chan b 1)) (op (chan a 2) (chan b 2)) (op (chan a 3) (chan b 3)) ∧
    (malformed a ∨ malformed b → (f a b).flags = fRng) ∧ (¬ (malformed a ∨ malformed b) → (f a b).flags = fNone)

end Sys2Proof.Claims

/-- R184 to R187: FRCP, FRSQ, FSQRT, FEXP2, FLOG2, FSINP, FCOSP, FCLASS and FRND complete for every bit pattern; the special inputs
give what the table of R185 says; FCLASS names the one class of an F32 number.
Where the enclosure of an exact value decides no rounding the result is free (log 7). -/
def Obligations.FloatFunctionResults : Prop :=
  Word1 .frcp 16 (fun x a => fRcp fmtF32 x.rnd.toNat x.sat a) ∧ Word1 .frsq 16 (fun x a => fRsq fmtF32 x.sat a) ∧
  Word1 .fsqrt 16 (fun x a => fSqrt fmtF32 x.rnd.toNat x.sat a) ∧ Word1 .fexp2 16 (fun x a => fExp2 fmtF32 x.sat a) ∧
  Word1 .flog2 16 (fun x a => fLog2 fmtF32 x.sat a) ∧ Word1 .fsinp 16 (fun x a => fSinp fmtF32 x.sat a) ∧
  Word1 .fcosp 16 (fun x a => fCosp fmtF32 x.sat a) ∧ Word1 .fclass 6 (fun x a => Res.pure (fClass (tyFloat x.ty) a)) ∧
  Word1 .frnd 6 (fun x a => fRnd fmtF32 x.rnd.toNat a) ∧
  (∀ rnd, Special (fRcp fmtF32 rnd false) (.pure 0x7F800000) (.pure 0xFF800000) (.pure 0) (.pure 0x80000000) none) ∧
  Special (fRsq fmtF32 false) (.pure 0x7F800000) (.pure 0xFF800000) (.pure 0) invalid (some invalid) ∧
  (∀ rnd, Special (fSqrt fmtF32 rnd false) (.pure 0) (.pure 0x80000000) (.pure 0x7F800000) invalid (some invalid)) ∧
  Special (fExp2 fmtF32 false) (.pure 0x3F800000) (.pure 0x3F800000) (.pure 0x7F800000) (.pure 0) none ∧
  Special (fLog2 fmtF32 false) (.pure 0xFF800000) (.pure 0xFF800000) (.pure 0x7F800000) invalid (some invalid) ∧
  Special (fSinp fmtF32 false) (.pure 0) (.pure 0x80000000) invalid invalid none ∧
  Special (fCosp fmtF32 false) (.pure 0x3F800000) (.pure 0x3F800000) invalid invalid none ∧
  (∀ rnd, Special (fRnd fmtF32 rnd) (.pure 0) (.pure 0x80000000) (.pure 0x7F800000) (.pure 0xFF800000) none) ∧
  (∀ a, a < 2 ^ 32 → fClass fmtF32 a =
    let neg := 2 ^ 31 ≤ a
    let e := a / 2 ^ 23 % 256
    let m := a % 2 ^ 23
    if e = 255 then (if m = 0 then (if neg then 2 ^ 0 else 2 ^ 7) else if m < 2 ^ 22 then 2 ^ 8 else 2 ^ 9)
    else if e = 0 then (if m = 0 then (if neg then 2 ^ 3 else 2 ^ 4) else if neg then 2 ^ 2 else 2 ^ 5)
    else if neg then 2 ^ 1 else 2 ^ 6)

/-- R73, R173, R189 to R191: CVT, CVTN and CVTQ complete for every value. CVT between integers is Sat or Wrap; CVTN packs two
conversions and keeps the other half of D for 8-bit results; CVTQ writes four quantised elements a lane and the scale, the least
SC16 value with which the largest finite magnitude of the group fits. -/
def Obligations.ConversionResults : Prop :=
  (∀ x : Args, WritesLanes (.cvt x) x.imm x.d (tyWide x.ty) 6 fun c l =>
    convertLane (srcTy x.imm) x.ty x.rnd.toNat x.sat (val x.imm (tyWide (srcTy x.imm)) x.a c l)) ∧
  (∀ st dt rnd sat a, tyIsFloat st = false → tyIsFloat dt = false →
    convert st dt rnd sat a = narrow (tyWidth dt) (tySigned dt) sat (readInt (tyWidth st) (tySigned st) a)) ∧
  (∀ x : Args, (Instr.cvtn x).wellFormed = true → WritesLanes (.cvtn x) x.imm x.d false 6 fun c l =>
    let p := convert (srcTy x.imm) (cvtnElem x.ty) x.rnd.toNat x.sat (val x.imm false x.a c l)
    let q := convert (srcTy x.imm) (cvtnElem x.ty) x.rnd.toNat x.sat (val x.imm false x.b c l)
    let old := val x.imm false x.d c l
    ⟨if tyWidth (cvtnElem x.ty) = 16 then p.val + 65536 * q.val
      else if x.sel = 0#4 then p.val + 256 * q.val + old / 65536 * 65536 else old % 65536 + 65536 * (p.val + 256 * q.val),
     p.flags ||| q.flags⟩) ∧
  (∃ scale : Nat → List Nat → Nat,
    (∀ (x : Args) (d a : BitVec 8), x.d = .v d → x.a = .v a → ∃ lat : Ictx → Nat, (∀ c, pathTime (.cvtq x) x.imm 10 c (lat c)) ∧
      let bits := if x.ty = .d8 then 8 else 4
      let top := if x.ty = .d8 then 127 else 7
      let el := fun (c : Ictx) (l j : Nat) => ((c.v.reg (a.toNat + j)).shape.lane l).toNat
      let sc := fun (c : Ictx) => scale top ((Lanes.toList c.mask).flatMap fun l => [el c l 0, el c l 1, el c l 2, el c l 3])
      let q := fun c l j => quantise top (sc c) x.rnd.toNat (el c l j)
      let regs := fun c => [
        (⟨d.toNat, 0, c.mask, LaneVec.of fun l => BitVec.ofNat 32 (wrapNat bits (q c l 0).1 + wrapNat bits (q c l 1).1 * 2 ^ bits
          + wrapNat bits (q c l 2).1 * 2 ^ (2 * bits) + wrapNat bits (q c l 3).1 * 2 ^ (3 * bits)), none⟩ : RegWrite),
        ⟨d.toNat + 1, 0, c.mask, LaneVec.of fun _ => BitVec.ofNat 32 (sc c), none⟩]
      Does (.cvtq x) x.imm (fun c => fits c (regs c) false) fun c => .fixed c (lat c) (regs c) []
        (laneFlags c.mask fun l => (q c l 0).2 ||| (q c l 1).2 ||| (q c l 2).2 ||| (q c l 3).2)) ∧
    (∀ top xs, (∀ x ∈ xs, ∀ n m e, fmtF32.value x = .fin n m e → m = 0) → scale top xs = 0) ∧
    (∀ top xs, top = 127 ∨ top = 7 → (∃ x ∈ xs, ∃ n m e, fmtF32.value x = .fin n m e ∧ m ≠ 0) →
      let fit := fun w => ∀ x ∈ xs, ∀ n m e, fmtF32.value x = .fin n m e → m * 2 ^ (e + 149).toNat * 2 ^ 134 ≤ scaleNum w * top * 2 ^ 149
      256 ≤ scale top xs ∧ scale top xs < 65536 ∧ fit (scale top xs) ∧ ∀ w, 256 ≤ w → w < scale top xs → ¬ fit w))

/-- R76, R77, R192, R193: RADD, RSUB, RMUL and RCVT complete for every word, malformed ones among them; RCVT writes the residues of
an integer, and the integer or the float of residues. -/
def Obligations.ResidueResults : Prop :=
  Residue2 .radd (fun a b => a + b) ∧ Residue2 .rsub (fun a b => a - b) ∧ Residue2 .rmul (fun a b => a * b) ∧
  (∃ crt : Nat → Int,
    (∀ w, let u := (chan w 1 * 67239936 + chan w 2 * 133955073 + chan w 3 * 67239424) % 134217216
      crt w = if u ≥ 67108608 then (u : Int) - 134217216 else u) ∧
    Word1 .rcvt 6 (fun x a => match x.ty with
      | .res28 =>
        let n := readInt 32 (tySigned (srcTy x.imm)) a
        ⟨chans n n n, if n < -67108608 ∨ 67108607 < n then fRng else fNone⟩
      | .f32 => (fmtF32.roundIntVal x.rnd.toNat false (crt a)).also (resFlags [a])
      | _ => ⟨wrapNat 32 (crt a), resFlags [a]⟩))

/-- R76, R78: the residues of every integer of the signed range give that integer back. -/
def Sys2Proof.Claims.ResiduesHoldTheSignedRange : Prop :=
  ∀ n : Int, -67108608 ≤ n → n ≤ 67108607 → resCrt (resRead (resWord (resOf n))) = n ∧ resMalformed (resWord (resOf n)) = false

/-- R76, R78, R173: what an exact integer becomes at a width, under Wrap and under Sat; an integer of the signed range comes back
from its residues. -/
def Obligations.NumbersKeepTheirValue : Prop := Claims.SatAndWrap ∧ Claims.ResiduesHoldTheSignedRange

namespace Sys2Proof.Claims

/-- The member mask agrees with the issued lanes (R195): every issued lane is in M, and M names no other live lane. -/
def Agrees (imm : Word) (c : Ictx) : Prop :=
  let m := if imm = 0#32 then c.iset else imm
  c.iset &&& ~~~m = 0#32 ∧ m &&& c.live &&& ~~~c.iset = 0#32

/-- The lanes of M that have exited (R196). -/
def exited (imm : Word) (c : Ictx) : Lanes := (if imm = 0#32 then c.iset else imm) &&& ~~~c.live

/-- What lane k supplies to SLIDE, SHFL and BCAST (R196): its A where it is issued, else 0. -/
def given (x : Args) (c : Ictx) (k : Int) : Nat :=
  if 0 ≤ k ∧ k < 32 ∧ c.iset.getLsbD k.toNat = true then val 0#32 (tyWide x.ty) x.a c k.toNat else 0

/-- EXR where lane k is an exited lane of M (R196). -/
def exitRead (x : Args) (c : Ictx) (k : Int) : Flags :=
  if 0 ≤ k ∧ k < 32 ∧ c.iset.getLsbD k.toNat = false ∧ (exited x.imm c).getLsbD k.toNat = true then fExr else fNone

/-- A cross-lane instruction whose member mask agrees writes registers or predicates and flags 8 cycles after sampling (R142), and
does nothing else. -/
def Crosses (i : Instr) (imm : Word) (lat : Nat) (regs : Ictx → List RegWrite) (preds : Ictx → List PredWrite)
    (flags : Ictx → Flags) : Prop :=
  Does i imm (fun c => Agrees imm c ∧ fits c (regs c) false) fun c => .fixed c lat (regs c) (preds c) (flags c)

/-- SLIDE, SHFL and BCAST: lane l of the write mask takes what lane `from l` supplies (R198). -/
def Moves (k : Args → Instr) (source : Args → Ictx → Nat → Int) : Prop :=
  ∀ x, Crosses (k x) x.imm 8
    (fun c => destWrites c x.d (if tyWide x.ty then 2 else 1) c.mask fun l => given x c (source x c l)) (fun _ => [])
    (fun c => laneFlags c.mask fun l => exitRead x c (source x c l))

/-- EXR where M names an exited lane (R196). -/
def exrFlag (imm : Word) (c : Ictx) : Flags := if exited imm c = 0#32 then fNone else fExr

/-- The value of REDUX in lane l after n levels of the tree of R200. -/
def redVal (op : Nat → Nat → Res) (x : Nat → Nat) : Nat → Nat → Nat
  | 0, l => x l
  | n + 1, l => (op (redVal op x n l) (redVal op x n (l + 2 ^ n))).val
/-- The flags of every Op of the tree of R200. -/
def redFlags (op : Nat → Nat → Res) (x : Nat → Nat) : Flags :=
  ((List.range 5).flatMap fun n => ((List.range 32).filter fun l => l % 2 ^ (n + 1) = 0).map fun l =>
    (op (redVal op x n l) (redVal op x n (l + 2 ^ n))).flags).foldl (· ||| ·) fNone

/-- The value of SCAN in lane l after n passes of the tree of R201. -/
def scanVal (op : Nat → Nat → Res) (x : Nat → Nat) : Nat → Nat → Nat
  | 0, l => x l
  | n + 1, l => if 2 ^ n ≤ l then (op (scanVal op x n (l - 2 ^ n)) (scanVal op x n l)).val else scanVal op x n l
/-- The flags of every Op of the tree of R201. -/
def scanFlags (op : Nat → Nat → Res) (x : Nat → Nat) : Flags :=
  ((List.range 5).flatMap fun n => ((List.range 32).filter fun l => 2 ^ n ≤ l).map fun l =>
    (op (scanVal op x n (l - 2 ^ n)) (scanVal op x n l)).flags).foldl (· ||| ·) fNone

/-- What lane l contributes to REDUX and SCAN under operation `op`: A where it contributes, else the identity (R196). -/
def contribution (x : Args) (op : Nat) (c : Ictx) (l : Nat) : Nat :=
  if c.mask.getLsbD l then val 0#32 false x.a c l else reduxIdentity x.ty op

/-- A word taken as a result: a NaN is the canonical one, with NVL where it is signalling (R67); a RES28 word is reduced, with RNG
where it is malformed (R77). -/
def sole (t : Ty) (w : Nat) : Res :=
  match t with
  | .f32 => if 0x7F800000 < w % 2 ^ 31 then ⟨0x7FC00000, if w % 2 ^ 23 < 2 ^ 22 then fNvl else fNone⟩ else Res.pure w
  | .res28 => ⟨chans (chan w 1) (chan w 2) (chan w 3), if resMalformed w then fRng else fNone⟩
  | _ => Res.pure w

/-- The flags of the inputs of a reduction: NVL of a signalling NaN, RNG of a malformed word (R67, R77). -/
def inputFlag (t : Ty) (x : Nat → Nat) : Flags := ((List.range 32).map fun l => (sole t (x l)).flags).foldl (· ||| ·) fNone

/-- The exact sum of the contributions of lanes 0 to n − 1. -/
def exactSum (t : Ty) (x : Nat → Nat) (n : Nat) : Int := ((List.range n).map fun l => readInt 32 (tySigned t) (x l)).foldl (· + ·) 0

end Sys2Proof.Claims

/-- R195, R196, R198, R199: SLIDE, SHFL, BCAST, VOTE and MATCH complete where the member mask agrees, and write what the lanes of the
issuing set supply. -/
def Sys2Proof.Claims.CrossLaneResults : Prop :=
  Moves .slide (fun x c l =>
    let b := (val 0#32 false x.b c l : Nat)
    if x.sel = 0#4 then (l + b : Int) else if x.sel = 1#4 then (l : Int) - b else ((l + b : Nat) % 32 : Nat)) ∧
  Moves .shfl (fun x c l =>
    let b := val 0#32 false x.b c l % 32
    if x.sel = 0#4 then (b : Int) else (l ^^^ b : Nat)) ∧
  Moves .bcast (fun x c _ => ((val 0#32 false x.b c c.lead % 32 : Nat) : Int)) ∧
  (let truths := fun (x : Args) (c : Ictx) => (Lanes.toList c.mask).filter fun m => decide (val 0#32 false x.a c m ≠ 0)
    ∀ x : Args,
      (x.sel = 0#4 → Crosses (.vote x) x.imm 8 (fun _ => []) (fun c => predWrites x.d c.mask fun _ => !(truths x c).isEmpty)
        (fun c => exrFlag x.imm c)) ∧
      (x.sel = 1#4 → Crosses (.vote x) x.imm 8 (fun _ => [])
        (fun c => predWrites x.d c.mask fun _ => decide (∀ m ∈ Lanes.toList c.mask, val 0#32 false x.a c m ≠ 0))
        (fun c => exrFlag x.imm c)) ∧
      (x.sel = 2#4 → Crosses (.vote x) x.imm 8 (fun c => destWrites c x.d 1 c.mask fun _ => ((truths x c).map (2 ^ ·)).foldl (· + ·) 0)
        (fun _ => []) (fun c => exrFlag x.imm c)) ∧
      (x.sel = 3#4 → Crosses (.vote x) x.imm 8 (fun c => destWrites c x.d 1 c.mask fun _ => (truths x c).length)
        (fun _ => []) (fun c => exrFlag x.imm c))) ∧
  (∀ x : Args,
    (x.sel = 0#4 → Crosses (.matchLanes x) x.imm 8
      (fun c => destWrites c x.d 1 c.mask fun l => (((Lanes.toList c.mask).filter fun m =>
        decide (val 0#32 (tyWide x.ty) x.a c m = val 0#32 (tyWide x.ty) x.a c l)).map (2 ^ ·)).foldl (· + ·) 0)
      (fun _ => []) (fun c => exrFlag x.imm c)) ∧
    (x.sel = 1#4 → Crosses (.matchLanes x) x.imm 8 (fun _ => [])
      (fun c => predWrites x.d c.mask fun _ => decide (∀ m ∈ Lanes.toList c.mask,
        val 0#32 (tyWide x.ty) x.a c m = val 0#32 (tyWide x.ty) x.a c c.lead))
      (fun c => exrFlag x.imm c)))

/-- R196, R200, R201: REDUX and SCAN complete where the member mask agrees; every value is combined in the fixed tree of its rule,
and a saturating sum is the exact sum clamped once. -/
def Sys2Proof.Claims.ReductionResults : Prop :=
  (∀ x : Args,
    let op := x.sel.toNat
    let f := reduxOp x.ty op x.rnd.toNat
    let r := fun (c : Ictx) =>
      if x.sat then narrow 32 (tySigned x.ty) true (exactSum x.ty (contribution x op c) 32)
      else ⟨redVal f (contribution x op c) 5 0, redFlags f (contribution x op c)⟩
    (Instr.redux x).wellFormed = true → Crosses (.redux x) x.imm 14 (fun c => destWrites c x.d 1 c.mask fun _ => (r c).val) (fun _ => [])
      (fun c => (r c).flags ||| inputFlag x.ty (contribution x op c) ||| exrFlag x.imm c)) ∧
  (∀ x : Args,
    let op := x.sel.toNat % 8
    let f := reduxOp x.ty op x.rnd.toNat
    let start := fun (c : Ictx) (l : Nat) =>
      if x.sel.toNat < 8 then contribution x op c l else if l = 0 then reduxIdentity x.ty op else contribution x op c (l - 1)
    let r := fun (c : Ictx) (l : Nat) => narrow 32 (tySigned x.ty) true (exactSum x.ty (start c) (l + 1))
    (Instr.scan x).wellFormed = true → Crosses (.scan x) x.imm 14
      (fun c => destWrites c x.d 1 c.mask fun l => if x.sat then (r c l).val else (sole x.ty (scanVal f (start c) 5 l)).val) (fun _ => [])
      (fun c => (if x.sat then laneFlags c.mask fun l => (r c l).flags else scanFlags f (start c))
        ||| inputFlag x.ty (contribution x op c) ||| exrFlag x.imm c))

/-- R195, R196, R198 to R201: the cross-lane instructions complete where their member mask agrees: SLIDE, SHFL, BCAST, VOTE, MATCH,
REDUX and SCAN. -/
def Obligations.LaneExchangeResults : Prop := Claims.CrossLaneResults ∧ Claims.ReductionResults

namespace Sys2Proof.Claims

/-- The data of a memory operand in a lane: one register, a pair, or four registers of a 128-bit type (R210). -/
def data (t : Ty) (o : Operand) (c : Ictx) (l : Nat) : Nat := (c.src 0#32).wideVal o (memCount t) l

/-- The address of a lane where its instruction forms `a`: where it replays after a replayable fault, the one it first formed
(R203). -/
def kept (c : Ictx) (l a : Nat) : Nat :=
  match c.g.formed with
  | some (pc, lanes, fs) => if pc = c.pc ∧ lanes = c.iset then ((fs.find? fun z => z.1 == l).map (·.2)).getD a else a
  | none => a

/-- What an access of the memory group is: its instruction, what it does to memory, its address operand and offset, its type and
order, its destination where it returns values, its data and its comparison value. -/
structure Access where
  i    : Instr
  kind : ReqKind
  team : Bool
  a    : Operand
  off  : Int
  ty   : Ty
  ord  : BitVec 2
  dest : Option Operand
  b    : Operand
  cmp  : Operand

/-- The bytes of one lane's access (R204). -/
def Access.w (m : Access) : Nat := tyWidth m.ty / 8
/-- The address of element j with the base of lane l, modulo 2^64, or 2^32 for a team address (R202, R214). -/
def Access.addr (m : Access) (c : Ictx) (l j : Nat) (packed : Bool) : Nat :=
  let bits := if m.team then 32 else 64
  match m.a with
  | .m n =>
    let r := c.v.modreg n.toNat
    (r.base.toNat + (r.off.toNat + j * m.w) % r.len.toNat) % 2 ^ bits
  | a => wrapNat bits ((val 0#32 (!m.team) a c l : Int) + m.off + if packed then ((j * m.w : Nat) : Int) else 0)
/-- The lanes of the write mask with their addresses; the packed forms count from the base of the lowest lane (R202, R214). -/
def Access.lanes (m : Access) (c : Ictx) (packed : Bool) : List LaneAddr :=
  if packed then (Lanes.toList c.mask).mapIdx fun j l => ⟨l, m.addr c c.lead j true⟩
  else (Lanes.toList c.mask).map fun l => ⟨l, m.addr c l l false⟩
/-- OFF of a modulo register moves on by n elements (R203). -/
def Access.moved (m : Access) (c : Ictx) (n : Nat) : Gang :=
  match m.a with
  | .m k =>
    let r := c.v.modreg k.toNat
    c.g.writeMod (k.toNat, { r with off := BitVec.ofNat 32 ((r.off.toNat + n * m.w) % r.len.toNat) })
  | _ => c.g
/-- A modulo register that the access names is initialised (R202). -/
def Access.ready (m : Access) (c : Ictx) : Prop := ∀ k, m.a = .m k → (c.v.modreg k.toNat).len ≠ 0#32
/-- The registers the access writes when its values return. -/
def Access.regs (m : Access) (c : Ictx) : List RegWrite :=
  match m.dest with | some d => destWrites c d (memCount m.ty) c.mask (fun _ => 0) | none => []
/-- What an access leaves: its requests in flight, OFF moved on, and where it returns values a result that waits for them. -/
def Access.effect (m : Access) (c : Ictx) (s : State) (n : Nat) (r : Result) (work : List Instr) : Effect :=
  let g := { m.moved c n with lanes := advance (m.moved c n) c.iset c.pc }
  { s := s, g := if m.dest.isSome then unfolded g (m.regs c) else g, flags := fNone, rs := if m.dest.isSome then [r] else [],
    next := 0, park := none, work := if m.dest.isSome then work else [] }

/-- A lane of a virtual access reaches memory at a place (R204, R215): it is aligned, its address translates, the pages permit the
access, the far link is up where it is needed and the device offers it (R417), device memory reaches so far, and what is written is
not sealed (R111) or moving (R399); a float or residue atomic does not go to the far tier (R219). -/
structure Reaches (m : Access) (c : Ictx) (d : ContextDesc) (addr : Nat) (p : Place) : Prop where
  aligned : addr % m.w = 0
  mapped : c.s.translate d addr = .ok p
  read : m.kind ≠ .store → p.r = true
  write : m.kind ≠ .load → p.w = true ∧ c.s.isSealed p.space p.addr = false
  link : p.space = .far → c.s.link.farDown = false ∧ c.s.worrid.bootStat ≠ 3#2
  cap : p.space = .device → p.addr < c.s.memcap
  still : c.s.isMoving p.space p.addr = true → m.kind.posted = false
  far : p.space = .far → (∃ k r, m.kind = .atomic k r) → m.ty ≠ .f32 ∧ m.ty ≠ .res28

/-- The requests of an access: together they hold each lane of the write mask with its place, data and comparison value, and
each is one of this instruction. -/
def Requests (m : Access) (c : Ictx) (key : Nat → Nat) (rs : List Req) : Prop :=
  (∀ a, (∃ r ∈ rs, a ∈ r.accs) ↔ ∃ l ∈ Lanes.toList c.mask, a = ⟨l, key l, data m.ty m.b c l, data m.ty m.cmp c l⟩) ∧
  ∀ r ∈ rs, r.gid = c.g.gid ∧ r.seq = c.g.issued ∧ r.kind = m.kind ∧ r.ty = m.ty ∧ r.acq = m.ord.getLsbD 0 ∧
    r.rel = m.ord.getLsbD 1 ∧ r.served = false

/-- A virtual access completes where every lane of its write mask reaches memory (R203, R212, R213, R215, R216, R218): its requests
are in flight, and what it returns is pending, not before the load time of the slowest place it reads. -/
def VirtualAccess (m : Access) : Prop :=
  ∀ (k : Context) (pl : Nat → Place), ∃ rs : Ictx → List Req,
    let pre := fun c => (c.s.gridOf c.g).isSome = true ∧ c.s.contextOf c.g = some k ∧ m.ready c ∧
      ∀ l ∈ Lanes.toList c.mask, Reaches m c k.desc (kept c l (m.addr c l l false)) (pl l)
    (∀ c, pre c → Requests m c (fun l => keyOf (pl l).space (pl l).addr) (rs c)) ∧
    Does m.i 0#32 (fun c => pre c ∧ fits c (m.regs c) m.dest.isSome) fun c =>
      m.effect c ((c.s.addReqs (rs c)).later (reqWork c.s (rs c))) 32
        { pendingResult c (c.s.leastLoadTime c.g.quad ((Lanes.toList c.mask).map pl)) (m.regs c) [] [] with waitsReqs := true }
        [.variableResultReturn c.g.gid c.g.issued none]

/-- A scratchpad access completes where every lane of its write mask has an aligned team address within the team's scratchpad that
is not in conflict under the race check (R113, R207, R209, R212 to R215, R218): its passes start in the cycle after sampling or as
soon as the port is free, and what it returns is written `wait` cycles after the last pass, 12 more across cores. -/
def ScratchAccess (m : Access) (packed : Bool) (wait : Nat) : Prop :=
  ∀ (x : Grid) (t : Team), ∃ req : Ictx → Req,
    let each := decide (wait = 20)
    let plain := decide (m.ord = 0#2) && !each
    let pre := fun c => c.s.gridOf c.g = some x ∧ c.s.team? c.g.team = some t ∧ m.ready c ∧ ∀ y ∈ m.lanes c packed,
      y.addr % m.w = 0 ∧ y.addr < (x.kernel.scratch + 4095) / 4096 * 4096 ∧
      (x.kernel.rcen = true → plain = true → raceConflict (t.raceOf (y.addr / 16)) c.g.gidx (m.kind != .load) = false)
    let start := fun (c : Ictx) => max (c.port.sample + 1) ((c.s.quads.map (·.portFree)).getD c.g.quad 0)
    let count := fun (c : Ictx) => passes x.span m.w each (m.lanes c packed)
    let last := fun (c : Ictx) => start c + count c - 1
    (∀ c, pre c → (req c).due = some (last c) ∧ (req c).gid = c.g.gid ∧ (req c).seq = c.g.issued ∧ (req c).kind = m.kind ∧
      (req c).ty = m.ty ∧ (req c).acq = m.ord.getLsbD 0 ∧ (req c).rel = m.ord.getLsbD 1 ∧
      (req c).accs = (m.lanes c packed).map fun y => ⟨y.lane, t.scratchKey y.addr, data m.ty m.b c y.lane, data m.ty m.cmp c y.lane⟩) ∧
    Does m.i 0#32 (fun c => pre c ∧ fits c (m.regs c) m.dest.isSome) fun c =>
      let s := (c.s.onQuad c.g.quad fun q => { q with portFree := start c + count c }).addReqs [req c]
      let s := if x.kernel.rcen && plain then
          s.onTeam t.id fun t => { t with race := t.raceAfter c.g.gidx (m.kind != .load) ((m.lanes c packed).map (·.addr / 16)).eraseDups }
        else s
      m.effect c s (if packed then c.mask.count else 32)
        { pendingResult c (last c + (wait + if crossesCore t c.g (m.lanes c packed) then 12 else 0) - c.port.sample) (m.regs c) [] []
          with exactDue := true, waitsReqs := true } []

/-- A load, a store or an atomic as an access; an atomic with D `zero` returns nothing (R217). -/
def loadOf (i : Instr) (team : Bool) (x : MemArgs) : Access := ⟨i, .load, team, x.a, x.off.toInt, x.ty, x.ord, some x.d, .zero, .zero⟩
def storeOf (i : Instr) (team : Bool) (x : MemArgs) : Access := ⟨i, .store, team, x.a, x.off.toInt, x.ty, x.ord, none, x.b, .zero⟩
def atomOf (i : Instr) (team : Bool) (x : AtomArgs) : Access :=
  ⟨i, .atomic x.aop.toNat (x.d != .zero), team, x.a, x.off.toInt, x.ty, x.ord, if x.d = .zero then none else some x.d, x.b, x.c⟩

end Sys2Proof.Claims

/-- R202, R203, R212, R213, R215 to R218: LD, ST and ATOM complete where every lane of the write mask reaches memory.
The keys of places are the model's (log 4); its load times are lower bounds (log 19). -/
def Obligations.VirtualAccessesComplete : Prop :=
  (∀ x, VirtualAccess (loadOf (.ld x) false x)) ∧ (∀ x, VirtualAccess (storeOf (.st x) false x)) ∧
  (∀ x, VirtualAccess (atomOf (.atom x) false x))

/-- R202, R203, R207, R209, R212 to R215, R217, R218: LDS, STS, LDP, STP and ATOMS complete where every lane of the write mask has a
valid team address.
The keys of places are the model's (log 4). -/
def Obligations.ScratchAccessesComplete : Prop :=
  (∀ x, ScratchAccess (loadOf (.lds x) true x) false 16) ∧ (∀ x, ScratchAccess (storeOf (.sts x) true x) false 16) ∧
  (∀ x, ScratchAccess (loadOf (.ldp x) true x) true 16) ∧ (∀ x, ScratchAccess (storeOf (.stp x) true x) true 16) ∧
  (∀ x, ScratchAccess (atomOf (.atoms x) true x) false 20)

/-- R212, R213, R218, R208: performing a request lane by lane in ascending order. A load returns the bytes of its address, extended
as its type says, and changes no memory; a store writes the low bytes of each lane's data, one lane after the other, so that the last
lane to cover a byte gives its value; an atomic writes what its operation gives and returns the old value; and no byte outside the
bytes of its lanes changes. -/
def Obligations.PerformedRequests : Prop :=
  (∀ m r, r.kind = .load → (performReq m r).mem = m ∧ (performReq m r).vals =
    r.accs.map fun a => (a.lane, if r.ty = .i8 ∨ r.ty = .i16 then wrapNat 32 (signedOf (8 * r.width) (memLoad m a.key r.width))
      else memLoad m a.key r.width)) ∧
  (∀ m (r : Req) k, Memory.wf m = true → (∀ a ∈ r.accs, k < a.key ∨ a.key + r.width ≤ k) →
    memRead (performReq m r).mem k = memRead m k) ∧
  (∀ m (r : Req), r.accs = [] → performReq m r = ⟨m, [], fNone⟩) ∧
  (∀ m (r : Req) a rest, r.kind = .store → r.accs = a :: rest →
    performReq m r = performReq (memStore m a.key r.width a.data) { r with accs := rest }) ∧
  (∀ m key n x k, Memory.wf m = true → memRead (memStore m key n x) k =
    if key ≤ k ∧ k < key + n then BitVec.ofNat 8 (x / 256 ^ (k - key)) else memRead m k) ∧
  (∀ m (r : Req) a rest aop ret, r.kind = .atomic aop ret → r.accs = a :: rest →
    let old := memLoad m a.key r.width
    performReq m r =
      let p := performReq (memStore m a.key r.width (atomicOp r.ty aop old a.data a.cmp).val) { r with accs := rest }
      ⟨p.mem, (a.lane, old) :: p.vals, (atomicOp r.ty aop old a.data a.cmp).flags ||| p.flags⟩) ∧
  (∀ m r, Memory.wf m = true → Memory.wf (performReq m r).mem = true)

namespace Sys2Proof.Claims

/-- Nothing but the next instruction, and a hold on later accesses of the gang (R224). -/
def holding (c : Ictx) (h : Hold) : Effect := { Effect.step c with g := { stepped c with holds := c.g.holds ++ [h] } }

/-- The address that SEAL and UNSEAL name in a lane (R202, R203, R228). -/
def sealAddr (x : Args) (c : Ictx) (l : Nat) : Nat := kept c l (wrapNat 64 ((val 0#32 true x.a c l : Int) + x.imm.toInt))
/-- The granules that SEAL and UNSEAL name in a lane: its virtual address and those at multiples of 64 KiB above it (R228). -/
def sealParts (x : Args) (c : Ictx) (l : Nat) : List Nat :=
  (List.range (val 0#32 false x.b c l)).map fun i => (sealAddr x c l + 65536 * i) % 2 ^ 64

/-- SEAL and UNSEAL: every lane names 64 KiB granules that translate to places it may write in device memory or the second tier,
and no more than 16,384 of them. -/
def SealReady (x : Args) (c : Ictx) (d : ContextDesc) (pl : Nat → Place) : Prop :=
  ∀ l ∈ Lanes.toList c.mask, val 0#32 false x.b c l ≠ 0 → sealAddr x c l % 65536 = 0 ∧ val 0#32 false x.b c l ≤ 16384 ∧
    ∀ a ∈ sealParts x c l, c.s.translate d a = .ok (pl a) ∧ (pl a).w = true ∧ ((pl a).space = .device ∨ (pl a).space = .tier2)

/-- A seal or an unseal waits: a write to a granule that it closes is still in flight, or an earlier one of its granules waits. -/
def SealWaits (s : State) (x : Sealing) : Prop :=
  (x.close = true ∧ ∃ r ∈ s.reqs, r.served = false ∧ (r.kind = .store ∨ ∃ aop ret, r.kind = .atomic aop ret) ∧
    ∃ a ∈ r.accs, granuleOf r.space (a.key % 2 ^ 64) ∈ x.granules) ∨
  ∃ y ∈ s.sealing, y.id < x.id ∧ ∃ n ∈ y.granules, n ∈ x.granules

/-- The seals of a list take effect in order (R112, R229): one that waits changes nothing; another changes the state of exactly
the granules it names. -/
def SealsInOrder : Prop :=
  (∀ s : State, s.takeSeals [] = s) ∧
  ∀ (s : State) x rest, (SealWaits s x → s.takeSeals (x :: rest) = s.takeSeals rest) ∧
    (¬ SealWaits s x → ∃ l,
      (∀ n, n ∈ l ↔ (n ∈ s.sealed ∧ n ∉ x.granules) ∨ (x.close = true ∧ n ∈ x.granules)) ∧
      s.takeSeals (x :: rest) =
        State.takeSeals { s with sealed := l, sealing := s.sealing.filter fun y => decide (y.id ≠ x.id) } rest)

/-- SEAL (`close`) and UNSEAL complete: the accesses in flight are performed, all that can be, and the seal of exactly the granules
they name is taken in its turn, by STORE_PERFORMED where it still waits; the gang holds its later accesses until the earlier
stores and the seal are complete (R229). -/
def SealResult (k : Args → Instr) (close : Bool) : Prop :=
  ∀ (x : Args) (cx : Context) (pl : Nat → Place), ∃ ids : Ictx → List Nat,
    let pre := fun c => c.s.contextOf c.g = some cx ∧ SealReady x c cx.desc pl
    (∀ c, pre c → ∀ n, (n ∈ ids c ↔
      ∃ l ∈ Lanes.toList c.mask, ∃ a ∈ sealParts x c l, n = granuleOf (pl a).space (pl a).addr)) ∧
    Does (k x) 0#32 pre fun c =>
      let own : Sealing := ⟨c.s.performAll.nextId, c.g.gid, ids c, close⟩
      let s := { c.s.performAll with sealing := c.s.performAll.sealing ++ [own], nextId := c.s.performAll.nextId + 1 }
      let s := s.takeSeals s.sealing
      let g := (s.gang? c.g.gid).getD c.g
      { Effect.step c with
        s := s
        g := { g with lanes := advance g c.iset c.pc, holds := c.g.holds ++ [⟨c.g.issued, false, true, 0#8, true, true, false, true⟩] }
        work := if own ∈ s.sealing then [.storePerformed own.id] else [] }

end Sys2Proof.Claims

/-- R105, R106, R223 to R225: PF does nothing. FENCE and FENCEX do nothing at gang scope; at a wider scope a FENCE holds later
accesses (under `.st` only stores) until the earlier ones it orders are complete, and a FENCEX holds later accesses and commands
until the earlier acquires, the earlier accesses (with C in the from-mask) and the commands on the other paths of the from-mask are
complete. -/
def Sys2Proof.Claims.FenceResults : Prop :=
  (∀ x : Args, Does (.pf x) 0#32 (fun _ => True) Effect.step) ∧
  (∀ x : Args, Does (.fence x) x.imm (fun _ => True) fun c =>
    if x.rnd = 0#3 then Effect.step c
    else holding c { before := c.g.issued, loads := x.sel ≠ 2#4, stores := x.sel ≠ 1#4, paths := 0#8, holdLoads := x.sel ≠ 2#4,
                     holdStores := true, holdEngine := false, acqs := false }) ∧
  (∀ x : Args, Does (.fencex x) x.imm (fun _ => True) fun c =>
    if x.rnd = 0#3 then Effect.step c
    else holding c { before := c.g.issued, loads := x.imm.getLsbD 0, stores := x.imm.getLsbD 0,
                     paths := x.imm.setWidth 8 &&& 0xFE#8, holdLoads := true, holdStores := true, holdEngine := true, acqs := true })

/-- R111, R112, R228, R229: SEAL and UNSEAL complete where every lane may name its granules, and a seal takes effect when no write
to its granules is in flight.
That the accesses in flight are performed first is the model's choice (log 18). -/
def Obligations.SealResults : Prop := SealResult .seal true ∧ SealResult .unseal false ∧ SealsInOrder

/-- R202, R203, R226, R227: LEA writes the address of each lane, whatever it is, and moves a modulo source on by 32 elements. MINIT
sets a modulo register from the lowest lane of the write mask, and clears it where LEN is 0. -/
def Sys2Proof.Claims.AddressResults : Prop :=
  (∀ x : Args,
    let m : Access := ⟨.lea x, .load, decide (x.sel ≠ 0#4), x.a, x.imm.toInt, x.ty, 0#2, none, .zero, .zero⟩
    let regs := fun c => destWrites c x.d (if x.sel = 0#4 then 2 else 1) c.mask fun l => m.addr c l l false
    Does (.lea x) 0#32 (fun c => m.ready c ∧ fits c (regs c) false) fun c =>
      { Effect.step c with
        g := { m.moved c 32 with lanes := advance (m.moved c 32) c.iset c.pc }
        rs := outstanding (fixedResult c 4 (regs c) []) }) ∧
  (∀ (x : Args) (n : BitVec 3), x.d = .m n →
    let base := fun (c : Ictx) => val 0#32 (decide (x.sel = 0#4)) x.a c c.lead
    let len := fun (c : Ictx) => val 0#32 false x.b c c.lead
    Does (.minit x) 0#32 (fun c => len c = 0 ∨ (base c % 16 = 0 ∧ len c % 16 = 0 ∧ x.imm.toNat < len c ∧ x.imm.toNat % 4 = 0))
      fun c => .pending c 4 [] [] [(n.toNat, if len c = 0 then ⟨0#64, 0#32, 0#32⟩ else ⟨.ofNat 64 (base c), .ofNat 32 (len c), x.imm⟩)])

/-- R105, R106, R202, R203, R223 to R227: PF, FENCE, FENCEX, LEA and MINIT complete. -/
def Obligations.FencesAndAddresses : Prop := Claims.FenceResults ∧ Claims.AddressResults

namespace Sys2Proof.Claims

/-- The yield threshold of a gang's context (R235). -/
def threshold (c : Ictx) : Nat := match c.s.contextOf c.g with | some k => if k.desc.ythr = 0 then 4096 else k.desc.ythr | none => 4096
/-- A lane takes a branch: backward it counts, and at the threshold it yields (R235). -/
def jump (c : Ictx) (t : DWord) (l : LaneState) : LaneState :=
  if c.pc.toNat < t.toNat then { l with pc := t }
  else if l.spin + 1 < threshold c then { l with pc := t, spin := l.spin + 1 } else { l with pc := t, spin := 0, y := true }
/-- The target of BRA and CALL: the instruction's own address plus four times its displacement (R241). -/
def target (x : Args) (c : Ictx) : DWord := c.pc + 4#64 * x.imm.signExtend 64
/-- The gang moves its lanes, and issues next no earlier than a cycle (R251). -/
def moving (c : Ictx) (next : Nat) (f : Nat → LaneState → LaneState) : Effect := { Effect.step c with g := moved c f, next := next }
/-- A target of BRX and CALLX that a lane may take (R242): aligned, bits 63:56 zero, executable, its word marked as a landing point. -/
def Lands (c : Ictx) (d : ContextDesc) (t : Nat) : Prop :=
  t % 4 = 0 ∧ t < 2 ^ 56 ∧ ∃ bs, c.s.fetchBytes d t = .bytes bs ∧ (bs.getD 11 0#8).getLsbD 6 = true
/-- The link pair v0:v1 that a call writes in its lanes (R243). -/
def links (c : Ictx) : List RegWrite :=
  [⟨0, 0, c.mask, LaneVec.of fun _ => (c.pc + 12#64).setWidth 32, none⟩, ⟨1, 1, c.mask, LaneVec.of fun _ => (c.pc + 12#64).extractLsb' 32 32, none⟩]
/-- A call (R237, R243): the link pair, one level deeper, serial mode once a depth reaches 256. -/
def calling (c : Ictx) (next : Nat) (t : Nat → DWord) : Effect :=
  { Effect.step c with
    g := { moved c (fun l s => { s with pc := t l, depth := s.depth + 1 }) with
           serial := c.g.serial || (Lanes.toList c.mask).any fun l => decide (256 ≤ (c.g.lane l).depth + 1) }
    rs := [fixedResult c 4 (links c) []]
    next := next }
/-- A call may go one level deeper (R237, R243). -/
def callable (c : Ictx) : Prop := 2 ≤ c.g.r ∧ (∀ l ∈ Lanes.toList c.mask, (c.g.lane l).depth + 1 ≤ 65535) ∧ fits c (links c) false
/-- The return address in a lane: its link pair (R244). -/
def link (c : Ictx) (l : Nat) : Nat := ((c.v.reg 0).shape.lane l).toNat + ((c.v.reg 1).shape.lane l).toNat * 2 ^ 32

end Sys2Proof.Claims

/-- R235, R241, R243, R245 to R247, R250, R251: BRA, CALL, NOP, YIELD, EXIT and SLEEP complete, and move the lanes as their rules say.
EXIT ends the lanes of the write mask, and a gang without a live lane drains (R28); in a PREEMPT handler it stows the gang (R379).
SLEEP parks the gang for IMM cycles; a pre-emption that is pending ends it at once, but in a handler, which holds it (R270). -/
def Sys2Proof.Claims.ControlResults : Prop :=
  (∀ x : Args, Does (.bra x) 0#32 (fun _ => True) fun c => moving c (c.cyc + 2) fun _ => jump c (target x c)) ∧
  (∀ x : Args, Does (.call x) 0#32 callable fun c => calling c (c.cyc + 2) fun _ => target x c) ∧
  (∀ x : Args, Does (.nop x) 0#32 (fun _ => True) fun c => { Effect.step c with next := c.cyc + 2 }) ∧
  (∀ x : Args, Does (.yield x) 0#32 (fun _ => True) fun c =>
    moving c (c.cyc + 2) fun _ l => { l with pc := c.pc + 12#64, y := true, spin := 0 }) ∧
  (∀ x : Args, Does (.exit x) 0#32 (fun c => c.g.inStow = false) fun c =>
    let e := moving c (c.cyc + 2) fun _ l => { l with live := false }
    if e.g.lanes.any (·.live) then e
    else { e with g := { e.g with life := .draining, stopped := false, lastRate := c.s.gangRate c.g }, s := c.s.later [.gangFree c.g.gid] }) ∧
  (∀ x : Args, Does (.exit x) 0#32 (fun c => c.g.inStow = true) fun c =>
    { Effect.step c with g := { c.g with life := .stowing }, s := c.s.later [.gangStowed c.g.gid] }) ∧
  (∀ x : Args, Does (.sleep x) 0#32 (fun c => c.port.secondary = false) fun c =>
    { Effect.step c with park := if c.g.preempt = true ∧ c.g.hnd = false then none else some (.sleep (c.cyc + x.imm.toNat)) })

/-- R237, R242 to R244, R251: BRX and CALLX complete where every lane of the write mask has a target it may take, and RET where every
lane is inside a call and has an address to return to. -/
def Sys2Proof.Claims.ComputedTargetResults : Prop :=
  (∀ (x : Args) (k : Context), Does (.brx x) x.imm
    (fun c => c.s.contextOf c.g = some k ∧ ∀ l ∈ Lanes.toList c.mask, Lands c k.desc (val 0#32 true x.a c l))
    fun c => moving c (c.port.sample + 8) fun l => jump c (.ofNat 64 (val 0#32 true x.a c l))) ∧
  (∀ (x : Args) (k : Context), Does (.callx x) x.imm
    (fun c => c.s.contextOf c.g = some k ∧ callable c ∧ ∀ l ∈ Lanes.toList c.mask, Lands c k.desc (val 0#32 true x.a c l))
    fun c => calling c (c.port.sample + 8) fun l => .ofNat 64 (val 0#32 true x.a c l)) ∧
  (∀ x : Args, Does (.ret x) 0#32
    (fun c => 2 ≤ c.g.r ∧ ∀ l ∈ Lanes.toList c.mask, 0 < (c.g.lane l).depth ∧ link c l % 4 = 0 ∧ link c l < 2 ^ 56)
    fun c => moving c (c.port.sample + 3) fun l s => { s with pc := .ofNat 64 (link c l), depth := s.depth - 1 })

namespace Sys2Proof.Claims

/-- The joint that an instruction names, in its gang's team (R252). -/
def At (x : HandleArgs) (c : Ictx) (t : Team) (q : Joint) : Prop := c.s.team? c.g.team = some t ∧ t.joints[x.jnt.toNat]? = some q
/-- An operand in the lowest lane of the write mask (R254). -/
def led (c : Ictx) (o : Operand) : Nat := val 0#32 false o c c.lead
/-- Phase p of a joint is complete (R253): the current phase is 1 to 2^31 past it, modulo 2^32. -/
def Passed (q : Joint) (p : Nat) : Prop := ∃ d, 1 ≤ d ∧ d ≤ 2 ^ 31 ∧ (p + d) % 2 ^ 32 = q.phase % 2 ^ 32
/-- The barrier checksum of a JWAIT on phase p: the joint, the phase, the live lanes and every register in them (R262, R264). -/
def foldedBy (x : HandleArgs) (c : Ictx) : DWord :=
  let live := Lanes.toList c.g.live
  (c.v.regs.flatMap fun r => live.map r.shape.lane).foldl fold64
    (fold64 (fold64 (fold64 c.g.ck (.ofNat 32 x.jnt.toNat)) (.ofNat 32 (led c x.a))) c.g.live)
/-- The cycles that takes (R265). -/
def foldTime (c : Ictx) : Nat := c.v.gCount + (c.v.r - c.v.gCount + 7) / 8
/-- The budget of G-lines takes the registers of D, written later than a fixed time (R137). -/
def fitsLate (c : Ictx) (d : Operand) : Prop := fits c (destWrites c d 1 c.mask fun _ => 0) true
/-- A joint has phases complete or arrivals to come as R253 counts them. -/
def busy (q : Joint) : Prop := 0 < q.arr ∨ 0 < q.out
/-- The delay of a result to a gang of the team's first core, and of another (R260). -/
def awayTime (t : Team) (c : Ictx) : Nat := if c.g.quad / 4 = t.cores.getD 0 0 then 10 else 22

end Sys2Proof.Claims

/-- R253, R254, R256, R260, R264, R265: JINIT, JARRIVE, JWAIT and JTEST complete where their joint allows it. JINIT sets the expected
weight and clears ARR; JARRIVE adds its weight after the gang's earlier accesses are performed (a release, R95) and gives the phase;
JWAIT goes on where its phase is complete, with the registers folded into the barrier checksum, and parks with what it has sampled
where it is not; JTEST reads.
The layout of the check record and the time of a release are the model's choices (log 9, log 18). -/
def Obligations.JointResults : Prop :=
  (∀ x t q, Does (.jinit x) 0#32 (fun c => At x c t q ∧ ¬ (q.st = .broken ∧ 0 < q.out) ∧ ¬ (q.st ≠ .broken ∧ busy q)) fun c =>
    { Effect.step c with
      s := c.s.onTeam t.id fun u => u.setJoint x.jnt.toNat
        (if led c x.a = 0 then { q with st := .idle, n := 0, arr := 0 } else { q with st := .open_, n := led c x.a, arr := 0 }) }) ∧
  (∀ x t q, Does (.jarrive x) 0#32
    (fun c => At x c t q ∧ q.st = .open_ ∧ 0 < led c x.a ∧ q.arr + led c x.a ≤ q.n ∧
      fits c (destWrites c x.d 1 c.mask fun _ => q.phase) true) fun c =>
    let s := gangArrive (c.s.release c.g.gid) c.g x.jnt.toNat (led c x.a) q
    let g := (s.gang? c.g.gid).getD c.g
    let regs := destWrites c x.d 1 c.mask fun _ => q.phase
    { Effect.pending c (awayTime t c) regs [] [] with
      s := s
      g := unfolded { g with lanes := advance g c.iset c.pc } regs
      work := (outstanding (pendingResult c (awayTime t c) regs [] [])).map fun r => .variableResultReturn g.gid r.seq none }) ∧
  (∀ x t q k, Does (.jwait x) 0#32
    (fun c => At x c t q ∧ c.s.contextOf c.g = some k ∧ q.st = .open_ ∧ Passed q (led c x.a) ∧ ∀ n ∈ c.g.pendingCodes, 0x200 ≤ n) fun c =>
    { Effect.step c with
      s := logCheck c.s k.id (checkRecord c.g (foldedBy x c) x.jnt.toNat (led c x.a))
      g := { stepped c with ck := foldedBy x c }
      next := c.port.sample + foldTime c }) ∧
  (∀ x t q, Does (.jwait x) 0#32
    (fun c => At x c t q ∧ q.st = .open_ ∧ ¬ Passed q (led c x.a) ∧ (∀ n ∈ c.g.pendingCodes, 0x200 ≤ n) ∧ c.port.secondary = false ∧
      c.parkErr = none) fun c =>
    { Effect.step c with
      g := c.g, park := some (.joint x.jnt.toNat (led c x.a) (foldedBy x c) (foldTime c) c.iset c.pc) }) ∧
  (∀ x t q, x.sel = 0#4 → Does (.jtest x) 0#32 (fun c => At x c t q ∧ q.st ≠ .broken) fun c =>
    .pending c (awayTime t c) [] (predWrites x.d c.mask fun _ => decide (q.st ≠ .idle) && q.complete (led c x.a)) []) ∧
  (∀ x t q, x.sel ≠ 0#4 → Does (.jtest x) 0#32
    (fun c => At x c t q ∧ q.st ≠ .broken ∧ fits c (destWrites c x.d 1 c.mask fun _ => q.phase) true) fun c =>
    .pending c (awayTime t c) (destWrites c x.d 1 c.mask fun _ => q.phase) [] []) ∧
  (∀ q p, Joint.complete q p = true ↔ Passed q p)

/-- R253, R256 and the park of R261: what an arrival of weight w does to its joint. Below N only ARR grows; at N the phase is
complete: ARR is 0, PHASE is one more modulo 2^32, no transfer waits, and no gang of the team is parked on that phase any more; a
JWAIT goes on with the checksum it sampled, at the next instruction, 4 or 16 cycles and the time of its checksum after the coming cycle,
in which the events that reach a joint take effect (R259, R260, R264, R265). -/
def Sys2Proof.Claims.ArrivalsCompletePhases : Prop :=
  ∀ (s : State) (t : Team) (q : Joint) (j w : Nat), s.team? t.id = some t → t.joints[j]? = some q →
    (q.arr + w ≠ q.n → arrive s t.id j w = s.onTeam t.id fun u => u.setJoint j { q with arr := q.arr + w }) ∧
    (q.arr + w = q.n → ∃ u, (arrive s t.id j w).team? t.id = some u ∧
      u.joints[j]? = some { q with arr := 0, phase := (q.phase + 1) % 2 ^ 32, regx := [] } ∧
      (∀ i, i ≠ j → u.joints[i]? = t.joints[i]?) ∧
      (∀ g ∈ (arrive s t.id j w).gangs, g.team = t.id → g.waitsAt j q.phase = false) ∧
      (s.gangs.Pairwise (fun g h => g.gid ≠ h.gid) → ∀ g ∈ s.gangs, ∀ ck time lanes pc, g.team = t.id →
        g.life = .parked (.joint j q.phase ck time lanes pc) → ∃ h, (arrive s t.id j w).gang? g.gid = some h ∧ h.ck = ck ∧
          h.lanes = advance g lanes pc ∧ (h.life = .ready ∨ h.life = .parked .marker) ∧
          h.nextIssue = max g.nextIssue (s.cycleOf g.quad + 1 + (if g.quad / 4 = t.cores.getD 0 0 then 4 else 16) + time)))

namespace Sys2Proof.Claims

/-- REGX as a transfer that waits with its joint: the gang and its partner, the lines, the direction (R261). -/
def transfer (x : HandleArgs) (c : Ictx) : Regx := ⟨c.g.gidx, led c x.b, led c x.a, decide (x.sel = 0#4), c.g.gid, c.g.issued⟩
/-- The result of REGX that the phase's completion gives its status. -/
def regxPending (x : HandleArgs) (c : Ictx) : Result :=
  { pendingResult c 0 (destWrites c x.d 1 c.mask fun _ => 0) [] [] with due := 0, reserve := [] }
/-- The state after the arrival of REGX, its result the one that the gang holds. -/
def regxState (x : HandleArgs) (c : Ictx) (q : Joint) : State :=
  gangArrive ((c.s.release c.g.gid).onGang c.g.gid fun g => { g with results := [regxPending x c] }) c.g x.jnt.toNat 1
    { q with regx := q.regx ++ [transfer x c] }
/-- The registers of that result, with the status where the phase is complete. -/
def regxRegs (x : HandleArgs) (c : Ictx) (q : Joint) : List RegWrite :=
  (((regxState x c q).gang? c.g.gid).getD c.g).results.flatMap (·.regs)

end Sys2Proof.Claims

/-- R261: the status of a transfer, of giver and taker alike: NOMATCH without a request of the other direction that names the issuer
and as many lines; else the first condition that applies. -/
def Sys2Proof.Claims.TransferStatuses : Prop :=
  ∀ (t : Team) (gangs : List Gang) (all : List Regx) (r : Regx),
    let matches_ := fun (q : Regx) => q.give ≠ r.give ∧ q.gidx = r.partner ∧ q.partner = r.gidx ∧ q.lines = r.lines
    ((∀ q ∈ all, ¬ matches_ q) → (regxStatus t gangs all r).1 = 1) ∧
    ((∃ q ∈ all, matches_ q) → ∀ g h,
      gangs.find? (fun g => g.team == t.id && g.gidx == (if r.give then r.gidx else r.partner)) = some g →
      gangs.find? (fun g => g.team == t.id && g.gidx == (if r.give then r.partner else r.gidx)) = some h →
      (regxStatus t gangs all r).1 =
        if r.partner = r.gidx then 1 else if (g.gmax : Int) - r.lines < g.gCount then 2
        else if r.lines = 0 ∨ r.lines % 8 ≠ 0 ∨ h.r < h.gmax + r.lines then 3 else if g.quad ≠ h.quad then 4 else 0)

/-- R261: what the request of a giver comes to: with status DONE its Gmax is n less and its partner's n more, with any other
nothing moves; no register changes; and D of the giver, and of the taker that matches it where there is one, holds the status. -/
def Sys2Proof.Claims.TransfersAreMade : Prop :=
  ∀ (t : Team) (all : List Regx) (s : State) (r : Regx), s.gangs.Pairwise (fun g h => g.gid ≠ h.gid) → r.give = true →
    let st := (regxStatus t s.gangs all r).1
    ∀ g ∈ s.gangs, ∃ h, (applyGive t all s r).gang? g.gid = some h ∧ h.regs = g.regs ∧
      (st ≠ 0 → h.gmax = g.gmax) ∧
      (st = 0 → ∀ a b, s.gangs.find? (fun g => g.team == t.id && g.gidx == r.gidx) = some a →
        s.gangs.find? (fun g => g.team == t.id && g.gidx == r.partner) = some b →
        h.gmax = if g.gid = a.gid then g.gmax - r.lines else if g.gid = b.gid then g.gmax + r.lines else g.gmax) ∧
      ∀ q, (q = r ∨ all.find? (fun q => !q.give && q.gidx == r.partner && q.partner == r.gidx && q.lines == r.lines) = some q) →
        g.gid = q.gid → ∀ (i : Nat) (y : Result), g.results[i]? = some y → y.seq = q.seq → ∃ z : Result, h.results[i]? = some z ∧
          z.regs = y.regs.map fun w => { w with vals := LaneVec.of fun _ => BitVec.ofNat 32 st }

/-- R261: REGX arrives with weight 1. Where that does not complete the phase the gang parks until it does, its transfer waiting with
the joint; where it does, the transfers are made at once. D is pending until the status is known. -/
def Sys2Proof.Claims.RegxResults : Prop :=
  ∀ x t q, Does (.regx x) 0#32
    (fun c => At x c t q ∧ q.st = .open_ ∧ q.arr + 1 ≤ q.n ∧ (c.port.secondary = true → q.arr + 1 = q.n) ∧
      fitsLate c x.d) fun c =>
    let kept := (((c.s.release c.g.gid).gang? c.g.gid).getD c.g).results
    let g := { ((regxState x c q).gang? c.g.gid).getD c.g with results := kept }
    { Effect.step c with
      s := regxState x c q
      g := unfolded { g with lanes := advance g c.iset c.pc } (regxRegs x c q)
      rs := outstanding (pendingResult c (awayTime t c) (regxRegs x c q) [] [])
      park := if q.arr + 1 = q.n then none else some (.regx x.jnt.toNat q.phase c.g.issued c.iset c.pc) }

/-- R28, R235, R237, R241 to R247, R250, R251, R379: BRA, CALL, BRX, CALLX, RET, NOP, YIELD, EXIT and SLEEP complete. -/
def Obligations.TransfersOfControl : Prop := Claims.ControlResults ∧ Claims.ComputedTargetResults

/-- R253, R256, R260, R261, R264, R265: what an arrival does to its joint and to the gangs that wait; REGX, which arrives with
weight 1 and asks for a transfer of G budget, the status of a transfer and what it moves.
The time of a release is the model's choice (log 18). -/
def Obligations.ArrivalsAndTransfers : Prop :=
  Claims.ArrivalsCompletePhases ∧ Claims.RegxResults ∧ Claims.TransferStatuses ∧ Claims.TransfersAreMade

namespace Sys2Proof.Claims

/-- The vector of a trap other than PREEMPT (R266). -/
def vectorIn (x : Grid) (k : Context) : DWord := if x.kernel.trapv = 0#64 then k.desc.tvec else x.kernel.trapv

/-- The gang that takes a trap (R267): the shadow, the trap registers, its live lanes at the vector, no valid latch entry, HND 1. -/
def trapped (g : Gang) (vector : DWord) (iset : Lanes) (secondary : Bool) (pc : DWord) (t : Trap) (sample : Nat) : Gang :=
  { g with
    shadow := ⟨g.lanes, g.serial⟩
    cause := iset ++ (if secondary then BitVec.ofNat 32 (256 + t.cause.code) else BitVec.ofNat 32 t.cause.code)
    epc := 0#8 ++ pc.extractLsb' 2 54 ++ 0#2
    tval := t.tval
    tmask := t.tmask
    lanes := g.lanes.map fun l => if l.live then { pc := vector, depth := 0, y := false, spin := 0, live := true } else l
    serial := false, latch := [none, none, none], hnd := true, withdrawn := none, formed := none
    nextIssue := max g.nextIssue (sample + 12) }

/-- A trap leaves the other port's instruction of its gang not issued (R170). -/
def alone (s : State) (p : Port) : State :=
  { s with ports := s.ports.take 1, joining := s.joining.filter fun u => !u.any (·.gid == p.gid) }

/-- The instruction takes its trap: from the primary port, or from the secondary port once it was withdrawn there (R170); outside a
handler, with a vector (R266, R270). `t` is the trap of its own step 6 (R168). -/
def Enters (i : Instr) (pre : Ictx → Prop) (t : Ictx → Trap) : Prop :=
  ∀ s p g x k, Performs i s p g → (p.secondary = true → g.withdrawn = some (ctx i s p g).pc ∧ g.life = .ready) → s.gridOf g = some x →
    s.contextOf g = some k → g.hnd = false → vectorIn x k ≠ 0#64 → (t (ctx i s p g)).cause ≠ .preempt → pre (ctx i s p g) →
    exec i s = .next ((alone s p).putGang
      (trapped g (vectorIn x k) p.lanes p.secondary (ctx i s p g).pc (t (ctx i s p g)) p.sample))

/-- The debug stop of the gang's context is armed (R424). -/
def debugArmed (c : Ictx) : Bool := c.s.dbg.arm && (c.s.contextOf c.g).any fun k => k.id == c.s.dbg.ctx.toNat

/-- The gang after TRET (R271): its live lanes as the shadow has them, those of `$cause`.ISET at `$epc`. -/
def returned (c : Ictx) (iset : Lanes) : Gang :=
  { c.g with
    lanes := c.g.lanes.mapIdx fun l x => if x.live then
        let b := c.g.shadow.lanes.getD l x
        if iset.getLsbD l then { b with pc := c.g.epc, live := true } else { b with live := true }
      else x
    serial := c.g.shadow.serial, hnd := false, latch := [none, none, none]
    nextIssue := max c.g.nextIssue (c.port.sample + 8) }

end Sys2Proof.Claims

/-- R257: JOINT writes the joint and the reason into `$tval`, 1 OVER, 2 REINIT, 3 BROKEN, 4 UNINIT, 5 ZERO, 6 RANGE, and the issuing
set into `$tmask`; every joint instruction raises RANGE for a joint at or above JOINTS. -/
def Obligations.JointTrapValues : Prop :=
  ∀ (j : BitVec 5) (iset : Lanes),
    let t := fun r => jointTrap j.toNat r iset
    (∀ r, (t r).cause = .joint ∧ (t r).tmask = iset ∧ (t r).tval.extractLsb' 13 51 = 0#51 ∧ (t r).tval.extractLsb' 8 5 = j) ∧
    (t .overrun).tval.extractLsb' 0 8 = 1#8 ∧ (t .reinit).tval.extractLsb' 0 8 = 2#8 ∧ (t .broken).tval.extractLsb' 0 8 = 3#8 ∧
    (t .uninit).tval.extractLsb' 0 8 = 4#8 ∧ (t .zero).tval.extractLsb' 0 8 = 5#8 ∧ (t .range).tval.extractLsb' 0 8 = 6#8 ∧
    ∀ (x : HandleArgs) (t : Team) (k : HandleArgs → Instr), k = .jinit ∨ k = .jarrive ∨ k = .jwait ∨ k = .jtest ∨ k = .regx →
      Enters (k x) (fun c => c.s.team? c.g.team = some t ∧ t.joints.length ≤ x.jnt.toNat) fun c => jointTrap x.jnt.toNat .range c.iset

/-- R266, R267, R272: TRAP raises SWTRAP and BRK raises BRK, with IMM in `$tval` and the lanes whose guard is true in `$tmask`. With
the debug stop armed, BRK stops every gang of its team behind the BRK in place of the trap, and the store of the team's dump leaves,
with release (R425; log 9 for its layout). -/
def Sys2Proof.Claims.TrapInstructionResults : Prop :=
  (∀ x : Args, Enters (.trap x) (fun _ => True) fun c => ⟨.swtrap, x.imm.setWidth 64, c.mask⟩) ∧
  (∀ x : Args, Enters (.brk x) (fun c => debugArmed c = false) fun c => ⟨.brk, x.imm.setWidth 64, c.mask⟩) ∧
  (∀ x : Args, Does (.brk x) 0#32 (fun c => debugArmed c = true) fun c =>
    let g := ((stopTeam c.s c.g.team).gang? c.g.gid).getD c.g
    { Effect.step c with s := stopTeam c.s c.g.team, g := { g with lanes := advance g c.iset c.pc } }) ∧
  (∀ s tm, (stopTeam s tm).gangs = s.gangs.map (fun g => if g.team = tm then { g with stopped := true } else g) ∧
    (stopTeam s tm).dbg = { s.dbg with stopped := true, held := tm } ∧ (stopTeam s tm).teams = s.teams ∧
    (stopTeam s tm).mem = s.mem ∧ ∃ rs, (stopTeam s tm).reqs = s.reqs ++ rs ∧ (∀ r ∈ rs, r.rel = true ∧ r.kind = .store) ∧
      (stopTeam s tm).agenda = s.agenda ++ rs.map fun r => .storePerformed r.id) ∧
  (∀ s tm t x, s.team? tm = some t → s.grid? t.grid = some x →
    stopTeam s tm = ({ s with gangs := s.gangs.map (fun g => if g.team = tm then { g with stopped := true } else g)
                              dbg := { s.dbg with stopped := true, held := tm } } : State).postRel
      (dispatcherFor noCtx) s.dbg.dump.toNat (128 + 24 * 272) (dumpBytes x t))

/-- R271, R382: TRET in a handler returns the live lanes to their shadow, those of `$cause`.ISET to `$epc`, and ends the handler;
outside one it raises PROT with `$tval` 0. The first TRET of a restore takes v0 to v3 and the trap registers from the frame; what the
handler has outstanding writes v0 to v3 no more, and the commands kept over the pre-emption go on (R350; log 10). It reads the frame
behind the earlier accesses of its gang, and the requests of that read are charged and accounted (logs 13, 18). -/
def Sys2Proof.Claims.TrapReturnResults : Prop :=
  (∀ x : Args, Enters (.tret x) (fun _ => True) fun c => ⟨.prot, 0#64, c.iset⟩) ∧
  (∀ x : Args, Does (.tret x) 0#32 (fun c => c.g.hnd = true ∧ c.g.fromRestore = false) fun c =>
    { Effect.step c with g := returned c (c.g.cause.extractLsb' 32 32) }) ∧
  (∀ (x : Args) (k : Context) (bits : Nat) (f : FrameTail), Does (.tret x) 0#32
    (fun c => c.g.hnd = true ∧ c.g.fromRestore = true ∧ c.s.contextOf c.g = some k ∧
      c.settle.s.vload k.desc 0 c.settle.g.frame.toNat 2048 = .ok bits ∧ frameTail bits = some f) fun c =>
    let d := c.settle
    let reads := d.s.vreadReqs { dispatcherFor k.id with team := d.g.team } k.desc 0 d.g.frame.toNat 2048
    { Effect.step d with
      s := ((d.s.send reads).requeue d.g).later ((d.g.results.filter (·.held)).map fun r => .variableResultReturn d.g.gid r.seq none)
      g := { returned d 0#32 with
        regs := f.regs.take d.g.r ++ d.g.regs.drop 4
        cause := f.cause, epc := f.epc, tval := f.tval, tmask := f.tmask, fromRestore := false
        results := d.g.results.map fun r =>
          if r.held then { r with held := false } else { r with regs := r.regs.filter fun w => decide (4 ≤ w.n) } } }) ∧
  (∀ bits f, frameTail bits = some f → f.cause.extractLsb' 9 23 = 0#23 ∧ f.epc.extractLsb' 56 8 = 0#8 ∧ f.epc.extractLsb' 0 2 = 0#2) ∧
  (∀ (s : State) (g : Gang) k, k ∈ (s.requeue g).cmds ↔ (k ∈ s.cmds ∧ ¬ (k.gid = g.gid ∧ k.kept = true)) ∨
    ∃ o ∈ s.cmds, o.gid = g.gid ∧ o.kept = true ∧ k = { o with kept := false, started := false, walking := false, booked := false, place := o.place.moved g })

/-- R131, R163, R273: RDSR completes for every special register, 2 cycles after sampling, `$depth` with shape G; `$clock`, `$time` and
`$status` are pending until then. -/
def Sys2Proof.Claims.SpecialRegisterReads : Prop :=
  ∀ x : Args,
    let n := x.imm.toNat % 256
    let late := decide (n = 0x06 ∨ n = 0x07 ∨ n = 0x0B)
    let regs := fun c =>
      let ws := destWrites c x.d (sprCount n) c.mask (sprValue c n)
      if n = 0x0A ∧ fullWidth c.mask = true then ws.map fun w => if fullWidth w.mask then { w with exact := some ⟨.g w.vals, none⟩ } else w else ws
    Does (.rdsr x) 0#32 (fun c => fits c (regs c) late) fun c =>
      if late then
        { Effect.exact c 2 (regs c) with
          rs := outstanding { pendingResult c 2 (regs c) [] [] with exactDue := true, statusRead := decide (n = 0x0B) } }
      else .fixed c 2 (regs c) [] fNone

/-- R17 to R21, R40, R131, R163, R231, R268, R269: what each special register reads as. -/
def Sys2Proof.Claims.SpecialRegisterValues : Prop :=
  ∀ (c : Ictx) (t : Team) (x : Grid) (l : Nat), c.s.team? c.g.team = some t → c.s.gridOf c.g = some x →
    sprValue c 0x00 l = l ∧
    sprValue c 0x01 l = (t.size - 1) * 2 ^ 23 + c.g.quad / 4 * 2 ^ 15 + c.g.quad % 4 * 2 ^ 13 + c.g.gidx ∧
    sprValue c 0x02 l = x.x * 2 ^ 16 + t.index % x.x ∧ sprValue c 0x03 l = x.y * 2 ^ 16 + t.index / x.x % x.y ∧
    sprValue c 0x04 l = x.z * 2 ^ 16 + t.index / x.x / x.y ∧
    sprValue c 0x05 l = (x.vd * 2 ^ 26 + x.seq % 2 ^ 26) % 2 ^ 32 ∧
    (sprValue c 0x06 l + c.g.admitted) % 2 ^ 64 = c.port.sample % 2 ^ 64 ∧ sprValue c 0x06 l < 2 ^ 64 ∧
    sprValue c 0x07 l = c.s.ns.toNat + c.s.sec.toNat * 2 ^ 32 ∧
    sprValue c 0x08 l = (c.s.vdRate x.vd).toNat ∧ sprValue c 0x09 l = (c.s.gangRate c.g).toNat ∧
    ((c.g.lane l).depth < 2 ^ 16 → sprValue c 0x0A l / 2 ^ 31 = (c.g.lane l).y.toNat ∧
      sprValue c 0x0A l / 2 ^ 30 % 2 = c.g.serial.toNat ∧ sprValue c 0x0A l / 2 ^ 24 % 64 = 0 ∧
      sprValue c 0x0A l / 2 ^ 8 % 2 ^ 16 = (c.g.lane l).depth ∧ sprValue c 0x0A l % 256 = min (c.g.lane l).depth 255) ∧
    sprValue c 0x0B l = c.g.status.toNat ∧ sprValue c 0x0C l = c.s.variant.feat.toNat ∧ sprValue c 0x0D l = c.g.cause.toNat ∧
    sprValue c 0x0E l = c.g.epc.toNat ∧ sprValue c 0x0F l = c.g.tval.toNat ∧ sprValue c 0x10 l = c.g.tmask.toNat ∧
    sprValue c 0x11 l = c.s.mend.act.toNat * 2 ^ 31 + c.s.mend.phase.toNat ∧ sprValue c 0x12 l = c.s.memcap

/-- R131, R274, R275: WRSR clears the flags of `$status` that its 1 bits name; in a handler it writes `$epc` (its reserved bits 0),
`$tval`, `$tmask` and `$cause`.ISET; every other write raises PROT with the register's number and changes nothing. SETRATE sets the
gang's override from the lowest lane of the write mask, and CLRRATE removes it. That `$tmask` of this PROT is the issuing set is the
model's choice (log 29). -/
def Obligations.SpecialRegisterWrites : Prop :=
  (∀ x : Args,
    let n := x.imm.toNat % 256
    let v := fun (c : Ictx) => BitVec.ofNat 64 (val 0#32 (decide (sprCount n = 2)) x.a c c.lead)
    let alone := fun (c : Ictx) (g : Gang) => { Effect.step c with g := { g with lanes := advance c.g c.iset c.pc } }
    (n = 0x0B → Does (.wrsr x) 0#32 (fun _ => True) fun c => alone c
      { c.g with status := c.g.status &&& ~~~((v c).setWidth 7), clears := c.g.clears ++ [(c.g.issued, (v c).setWidth 7)] }) ∧
    (n = 0x0D → Does (.wrsr x) 0#32 (fun c => c.g.hnd = true) fun c => alone c
      { c.g with cause := (v c).extractLsb' 32 32 ++ c.g.cause.extractLsb' 0 32 }) ∧
    (n = 0x0E → Does (.wrsr x) 0#32 (fun c => c.g.hnd = true) fun c => alone c
      { c.g with epc := 0#8 ++ (v c).extractLsb' 2 54 ++ 0#2 }) ∧
    (n = 0x0F → Does (.wrsr x) 0#32 (fun c => c.g.hnd = true) fun c => alone c { c.g with tval := v c }) ∧
    (n = 0x10 → Does (.wrsr x) 0#32 (fun c => c.g.hnd = true) fun c => alone c { c.g with tmask := (v c).setWidth 32 }) ∧
    (n ≠ 0x0B → Enters (.wrsr x) (fun _ => True) fun c => ⟨.prot, BitVec.ofNat 64 n, c.iset⟩)) ∧
  (∀ x : Args, Does (.setrate x) x.imm (fun _ => True) fun c =>
    { Effect.step c with g := { stepped c with override := some (BitVec.ofNat 32 (val x.imm false x.a c c.lead)) } }) ∧
  (∀ x : Args, Does (.clrrate x) 0#32 (fun _ => True) fun c => { Effect.step c with g := { stepped c with override := none } })

/-- R262: the fold of a checksum. -/
def Sys2Proof.Claims.ChecksumFold : Prop :=
  ∀ (c : DWord) (x : Word), (fold64 c x).toNat = (c.toNat ^^^ x.toNat) * 0x100000001B3 % 2 ^ 64

/-- R263: CKSUM folds the write mask and A's lanes in ascending order into its seed, D's pair in the lowest lane or C0, and writes
the result into every lane of the pair D, whose halves a full-width write makes U. -/
def Sys2Proof.Claims.ChecksumResults : Prop :=
  ∀ x : Args,
    let seed := fun (c : Ictx) => if x.sel = 0#4 then BitVec.ofNat 64 (val 0#32 true x.d c c.lead) else 0x9E3779B97F4A7C15#64
    let sum := fun (c : Ictx) => (c.mask :: (Lanes.toList c.mask).map fun l => BitVec.ofNat 32 (val 0#32 false x.a c l)).foldl fold64 (seed c)
    let regs := fun c => destWrites c x.d 2 c.mask fun _ => (sum c).toNat
    Does (.cksum x) 0#32 (fun c => fits c (regs c) false) (fun c => .fixed c 6 (regs c) [] fNone) ∧
    ∀ c, ∀ w ∈ regs c, ∃ v, press w.vals = .u v

/-- R263: CKSUM is OPC 0x217, of TY 0x00, with SEL 0 or 1. D must be an even direct pair and A a direct register, else OPERAND; with SEL 0
it reads D, and names its two registers. -/
def Sys2Proof.Claims.ChecksumOperands : Prop :=
  (∀ x : Args, ∃ w, encode (.cksum x) = some w ∧ w.extractLsb' 0 10 = 0x217#10) ∧
  (∀ x : Args, (Instr.cksum x).wellFormed = true → x.ty = .untyped ∧ (x.sel = 0#4 ∨ x.sel = 1#4)) ∧
  (∀ (x : Args) g lanes feat, (∀ n, x.d = .v n → n.toNat % 2 ≠ 0) →
    decodeTrap (.cksum x) g lanes feat = some ⟨.operand, BitVec.ofNat 64 x.d.code.toNat, lanes⟩) ∧
  (∀ (x : Args) n g lanes feat, x.d = .v n → n.toNat % 2 = 0 → (∀ m, x.a ≠ .v m) →
    decodeTrap (.cksum x) g lanes feat = some ⟨.operand, BitVec.ofNat 64 (2 ^ 16 + x.a.code.toNat), lanes⟩) ∧
  (∀ x : Args, x.sel = 0#4 → ∃ f ∈ (usesOf (.cksum x)).fields, f.op = x.d ∧ f.count = 2 ∧ f.reads = true)

/-- R277 to R279: STSH puts the whole image of B in flight and writes its size into D; LDSH takes the register that the image holds,
with its shape and mark, in all lanes, behind the earlier accesses of its gang (R99), which it performs at once, a choice of the model
(log 18); GETSH reads the tag, the mark, the G count and Gmax. The time LDSH takes outside the scratchpad is a lower bound (log 19). -/
def Obligations.ShapedImageResults : Prop :=
  (∀ (x : Args) (n : BitVec 8), x.b = .v n →
    let size := fun (c : Ictx) => imageSize (c.v.reg n.toNat)
    let count := fun (c : Ictx) => imagePasses c (shapedAddr x c) (size c)
    let start := fun (c : Ictx) => if x.sel = 0#4 then 0 else max (c.port.sample + 1) ((c.s.quads.map (·.portFree)).getD c.g.quad 0)
    let img := fun (c : Ictx) =>
      imageStores x c (shapedAddr x c) (size c) (imageBits n.toNat (c.v.reg n.toNat)) (start c + count c - 1)
    let regs := fun (c : Ictx) => destWrites c x.d 1 c.mask fun _ =>
      let r := c.v.reg n.toNat
      16 + 16 * r.mark.isSome.toNat + 128 * r.shape.isG.toNat
    Does (.stsh x) 0#32
      (fun c => imageTrap x c (shapedAddr x c) (size c) true = (none, []) ∧ fits c (regs c) false ∧
        ∀ r ∈ img c, ∀ a ∈ r.accs, c.s.isMoving r.space (a.key % 2 ^ 64) = false) fun c =>
      let s := if x.sel = 0#4 then c.s else c.s.onQuad c.g.quad fun q => { q with portFree := start c + count c }
      { Effect.fixed c 2 (regs c) [] fNone with
        s := (s.addReqs (img c)).later (reqWork c.s ((img c).filter (·.space != .scratch))) }) ∧
  (∀ (x : Args) (n : BitVec 8) (r : Reg), x.d = .v n →
    let image := fun (c : Ictx) (n : Nat) =>
      (imageKeys x c.settle (shapedAddr x c) n).foldr (fun k acc => memLoad c.settle.s.mem k 16 + 2 ^ 128 * acc) 0
    let size := fun (c : Ictx) => imageLength (image c 16)
    let regs : List RegWrite := [⟨n.toNat, 0, 0xFFFFFFFF#32, r.shape.lanes, some r⟩]
    Does (.ldsh x) 0#32
      (fun c => imageTrap x c (shapedAddr x c) 16 false = (none, []) ∧
        imageTrap x c.settle (shapedAddr x c) (size c) false = (none, []) ∧
        imageReg (image c (size c)) c.g.issued = some r ∧ fits c regs true) fun c =>
      let t := imageTime x c.settle (shapedAddr x c) (size c)
      let r := fun lat => { pendingResult c lat regs [] [] with waitsReqs := true }
      { Effect.step c with
        s := t.2
        g := { c.settle.g with lanes := advance c.settle.g c.iset c.pc }
        rs := [match t.1 with | .exact n => { r n with exactDue := true } | .fixed n | .variable n => r n]
        work := match t.1 with | .variable _ => [.variableResultReturn c.g.gid c.g.issued none] | _ => [] }) ∧
  (∀ (x : Args) (n : BitVec 8), x.a = .v n →
    let regs := fun (c : Ictx) => destWrites c x.d 1 c.mask fun _ =>
      (c.v.reg n.toNat).shape.tag + 4 * (c.v.reg n.toNat).mark.isSome.toNat + 2 ^ 8 * c.v.gCount + 2 ^ 17 * c.g.gmax
    Does (.getsh x) 0#32 (fun c => fits c (regs c) false) fun c => .fixed c 2 (regs c) [] fNone)

/-- R132, R277, R278: an image holds its register: reading back the image of any register of a legal shape gives its shape, its lanes
and its mark. -/
def Obligations.ImagesHoldTheirRegister : Prop :=
  ∀ (n : BitVec 8) (r : Reg) (order : Nat), (∀ b st, r.shape = .a b st → st ≠ 0#32) → (∀ v, r.shape = .g v → v.length = 32) →
    (∀ m, r.mark = some m → m.pc.toNat < 2 ^ 56) →
    imageReg (imageBits n.toNat r) order = some { r with mark := r.mark.map fun m => { m with order := order } } ∧
    imageLength (imageBits n.toNat r % 2 ^ 128) = imageSize r

/-- R266, R267, R271, R272, R382, R424, R425: TRAP and BRK raise their traps, BRK stops a team where the debug stop is armed, and TRET
returns from a handler. -/
def Obligations.TrapsAreTakenAndLeft : Prop := Claims.TrapInstructionResults ∧ Claims.TrapReturnResults

/-- R17 to R21, R40, R131, R163, R231, R268, R269, R273: RDSR completes for every special register, and what each of them reads as. -/
def Obligations.SpecialRegistersAreRead : Prop := Claims.SpecialRegisterReads ∧ Claims.SpecialRegisterValues

/-- R262, R263: the fold of a checksum, and CKSUM, which folds the lanes of its source. -/
def Obligations.ChecksumInstruction : Prop := Claims.ChecksumFold ∧ Claims.ChecksumResults ∧ Claims.ChecksumOperands

namespace Sys2Proof.Claims

/-- The joint that a command names, if it names one, is open (R258). -/
def JointOpen (x : HandleArgs) (c : Ictx) : Prop := x.jnt = 0x1F#5 ∨ ∃ t q, At x c t q ∧ q.st = .open_

/-- A command that names handles samples them behind the earlier accesses of its gang (R99, R289), which are performed at once, a choice
of the model (log 18). -/
def sampling (c : Ictx) (nos : List Nat) : Ictx := if nos = [] then c else c.settle
/-- The place of a handle of a context's table (R287, R373). -/
def tablePlace (k : Context) (n : Nat) : Nat := keyOf .device (k.desc.htab.toNat + 64 * n)
/-- The handles of a command as it samples them, 64 bytes each from the context's handle table (R287, R291). -/
def handles (c : Ictx) (k : Context) (nos : List Nat) : List Handle :=
  nos.map fun n => ⟨n, BitVec.ofNat 512 ((sampling c nos).s.load (tablePlace k n) 64)⟩

/-- The handles pass their checks (R285, R286): no HDESC, no footprint beyond the address space or the scratchpad. -/
def Pass (c : Ictx) (gr : Grid) (names : List Named) : Prop := namedTrap names (scratchSize gr.kernel) c.iset = none

/-- A command that has passed its checks (R258, R290, R291): it waits at its place with everything it has sampled, its joint counts one
more command outstanding, and the completion word in D is pending until it ends. -/
def commanding (x : HandleArgs) (c : Ictx) (gr : Grid) (kx : Context) (op : CmdOp) (place : CmdPlace) (nos : List Nat) (b : Word)
    (d : Operand) (start : List Instr) : Effect :=
  let c' := sampling c nos
  let s := c'.s.bookReads c'.g gr (nos.map fun n => (tablePlace kx n, 1))
  let k : Cmd := { id := s.nextId, gid := c.g.gid, gidx := c.g.gidx, team := c.g.team, ctx := gr.ctx, vd := gr.vd,
                   seq := c.g.issued, pc := c.pc, place := place, op := op, x := x, a := (c.src 0#32).word x.a c.lead, b := b, fill := 0,
                   handles := handles c kx nos, started := false, step := 0, ended := false, count := 0, flags := fNone, status := 0,
                   errAddr := 0, errNo := 0, walking := false, kept := false, coll := none, booked := false }
  let s : State := { s with cmds := s.cmds ++ [k], nextId := s.nextId + 1 }
  let s := if x.jnt = 0x1F#5 then s else s.onTeam c.g.team fun t =>
    t.setJoint x.jnt.toNat { t.joint x.jnt.toNat with out := (t.joint x.jnt.toNat).out + 1 }
  let regs := destWrites c d 1 c.mask fun _ => 0
  { Effect.pending c 0 regs [] [] with
    s := s.later start, g := unfolded { c'.g with lanes := advance c'.g c.iset c.pc } regs, work := [] }

/-- A change of the command that an instruction has issued. -/
def onOwn (c : Ictx) (s : State) (f : Cmd → Cmd) : State :=
  { s with cmds := s.cmds.map fun k => if k.gid = c.g.gid ∧ k.seq = c.g.issued then f k else k }

/-- A command of an engine goes to its engine's queue, where the engine takes it up. -/
def Commands (k : HandleArgs → Instr) (op : CmdOp) (engine : Nat → EngineId) (nos : HandleArgs → List Nat)
    (names : HandleArgs → List Desc → Word → Word → List Named) : Prop :=
  ∀ x gr kx,
    let b := fun (c : Ictx) => (c.src 0#32).word x.b c.lead
    Does (k x) 0#32 (fun c => c.s.gridOf c.g = some gr ∧ c.s.contextOf c.g = some kx ∧ JointOpen x c ∧
      Pass c gr (names x ((handles c kx (nos x)).map Handle.desc) ((c.src 0#32).word x.a c.lead) (b c)) ∧
      fitsLate c x.d)
      fun c => commanding x c gr kx op (.engine (engine c.g.quad)) (nos x) (b c) x.d [.engineCommandStart (engine c.g.quad)]

/-- The stager, the block engine, the nest sequencer and the bank sequencer of a quadrant's gangs (R290, R312). -/
def stager (q : Nat) : EngineId := .stager (2 * (q / 4) + q % 4 / 2)
def block (q : Nat) : EngineId := .block (q / 4 % 16)
def nest (q : Nat) : EngineId := .nest (q / 4)
def bank (q : Nat) : EngineId := .bank (q / 16)

/-- A matrix command goes to the queue of its quadrant (R330), where the step `start` takes it up. -/
def MatrixCommands (k : HandleArgs → Instr) (op : CmdOp) (nos : HandleArgs → List Nat)
    (names : HandleArgs → Ictx → List Desc → Word → List Named) (d : HandleArgs → Operand) (start : Nat → Instr) : Prop :=
  ∀ x gr kx, Does (k x) 0#32 (fun c => c.s.gridOf c.g = some gr ∧ c.s.contextOf c.g = some kx ∧ JointOpen x c ∧
      tslotCheck op x c = none ∧
      Pass c gr (names x (sampling c (nos x)) ((handles c kx (nos x)).map Handle.desc) ((c.src 0#32).word x.a c.lead)) ∧
      fitsLate c (d x))
    fun c => commanding x c gr kx op (.matrix c.g.quad) (nos x) 0#32 (d x) [start c.g.quad]

/-- The units that the masks of TCLAIM and TREL name: slots by A's bits 15:0, accumulators by B's bits 7:0 (R329). -/
def claimed (x : HandleArgs) (c : Ictx) : List MUnit :=
  ((List.range 16).filter fun t => bit (led c x.a) t = 1).map .slot ++ ((List.range 8).filter fun n => bit (led c x.b) n = 1).map .acc
/-- The holder of a unit of the gang's quadrant. -/
def heldBy (c : Ictx) (u : MUnit) : Option Nat := holderOf (c.s.quad c.g.quad) u
/-- The units of a list that another gang holds. -/
def taken (c : Ictx) (us : List MUnit) : List MUnit := us.filter fun u => (heldBy c u).any fun h => h != c.g.slot

end Sys2Proof.Claims

/-- R287, R289: HSET puts a store of one 8-byte word of a handle of the context's table in flight, from the lowest lane of the write
mask; HGET puts a load of one in flight, and what it returns is pending, not before the load time of device memory (R216). Behind a
fence that is not complete the earlier accesses of the gang are performed first (R224), at once, a choice of the model (log 18). -/
def Sys2Proof.Claims.HandleTableResults : Prop :=
  let at_ := fun (x : HandleArgs) (k : Context) => tablePlace k x.x1.toNat + 8 * (x.sel.toNat % 8)
  let one := fun (c : Ictx) (r : Req) (kind : ReqKind) (accs : List LaneAcc) =>
    r.gid = c.g.gid ∧ r.seq = c.g.issued ∧ r.kind = kind ∧ r.ty = .u64 ∧ r.space = .device ∧ r.accs = accs ∧ r.acq = false ∧
      r.rel = false ∧ r.served = false ∧ r.id = c.fenced.s.nextId
  let puts := fun (c : Ictx) (r : Req) => { Effect.step c with
    s := (c.fenced.s.addReqs [r]).later (reqWork c.fenced.s [r]), g := { c.fenced.g with lanes := advance c.fenced.g c.iset c.pc } }
  (∀ (x : HandleArgs) (gr : Grid) (k : Context), ∃ req : Ictx → Req,
    (∀ c, one c (req c) .store [⟨c.lead, at_ x k, val 0#32 true x.a c c.lead, 0⟩]) ∧
    Does (.hset x) 0#32 (fun c => c.s.gridOf c.g = some gr ∧ c.s.contextOf c.g = some k ∧ c.s.isSealed .device (at_ x k) = false ∧
      c.s.isMoving .device (at_ x k) = false) fun c => puts c (req c)) ∧
  (∀ (x : HandleArgs) (gr : Grid) (k : Context), ∃ req : Ictx → Req,
    (∀ c, one c (req c) .load ((Lanes.toList c.mask).map fun l => ⟨l, at_ x k, 0, 0⟩)) ∧
    let regs := fun (c : Ictx) => destWrites c x.d 2 c.mask fun _ => 0
    Does (.hget x) 0#32 (fun c => c.s.gridOf c.g = some gr ∧ c.s.contextOf c.g = some k ∧ fits c (regs c) true) fun c =>
      { puts c (req c) with
        g := unfolded (puts c (req c)).g (regs c)
        rs := [{ pendingResult c 480 (regs c) [] [] with waitsReqs := true }]
        work := [.variableResultReturn c.g.gid c.g.issued none] })

/-- R258, R290, R291, R297 to R303, R311 to R315, R318: ACOPY, AFILL, BCOPY, NEST, NESTR, NESTQ, BANKOP, BANKRED, CRES and COLL issue
where their joint is open and their handles pass; COLL joins the instance of its scope and tag, and a team that may not take part, or
whose instance has aborted, ends at once with NOTMEMBER or ABORT. -/
def Sys2Proof.Claims.EngineCommandsIssue : Prop :=
  Commands .acopy .acopy stager (fun x => [x.x1.toNat, x.x2.toNat]) (fun x => acopyNames (decide (x.sel ≠ 0#4))) ∧
  (∀ x gr kx,
    let hs := fun (c : Ictx) => (handles c kx [x.x1.toNat]).map Handle.desc
    Does (.afill x) 0#32 (fun c => c.s.gridOf c.g = some gr ∧ c.s.contextOf c.g = some kx ∧ JointOpen x c ∧
      Pass c gr (afillNames (hs c) ((c.src 0#32).word x.a c.lead) ((c.src 0#32).word x.b c.lead)) ∧ fitsLate c x.d) fun c =>
      let e := commanding x c gr kx .afill (.engine (stager c.g.quad)) [x.x1.toNat] ((c.src 0#32).word x.b c.lead) x.d
        [.engineCommandStart (stager c.g.quad)]
      { e with s := onOwn c e.s fun k => { k with fill := .ofNat 32 (val 0#32 true x.b c c.lead / 2 ^ 32) } }) ∧
  Commands .bcopy .bcopy block (fun x => [x.x1.toNat, x.x2.toNat]) (fun _ => bcopyNames) ∧
  Commands .nest .nest nest (fun x => if 5 ≤ x.sel.toNat ∧ x.sel.toNat ≤ 7 then [x.x1.toNat, x.x2.toNat]
    else [x.x1.toNat, x.x2.toNat, x.x3.toNat]) (fun x => nestNames x.sel.toNat) ∧
  Commands .nestr .nestr nest (fun x => [x.x1.toNat, x.x2.toNat]) (fun x => reduceNames x.sel.toNat false x.sat) ∧
  Commands .nestq .nestq nest (fun x => [x.x1.toNat, x.x2.toNat]) (fun _ => nestqNames) ∧
  Commands .bankop .bankop bank (fun x => if x.sel.toNat < 8 then [x.x1.toNat, x.x2.toNat] else [x.x1.toNat])
    (fun x => bankopNames x.sel.toNat x.sat) ∧
  Commands .bankred .bankred bank (fun x => [x.x1.toNat, x.x2.toNat]) (fun x => reduceNames x.sel.toNat true x.sat) ∧
  Commands .cres .cres bank (fun x => [x.x1.toNat, x.x2.toNat]) (fun x => cresNames x.sel.toNat x.sat) ∧
  (∀ x gr kx t,
    let names := fun (c : Ictx) => collNames x.sel.toNat x.sat ((handles c kx [x.x1.toNat, x.x2.toNat]).map Handle.desc)
      ((c.src 0#32).word x.a c.lead) ((c.src 0#32).word x.b c.lead)
    Does (.coll x) 0#32 (fun c => c.s.gridOf c.g = some gr ∧ c.s.contextOf c.g = some kx ∧ c.s.team? c.g.team = some t ∧ JointOpen x c ∧
      Pass c gr (names c) ∧ fitsLate c x.d) fun c =>
      let e := commanding x c gr kx .coll (.engine (bank c.g.quad)) [x.x1.toNat, x.x2.toNat]
        ((c.src 0#32).word x.b c.lead) x.d [.engineCommandStart (bank c.g.quad)]
      let mine := fun (k : Nat × Nat × Nat) => k.1 == x.rnd.toNat && k.2.1 == x.x3.toNat
      let n := ((t.colls.find? mine).map (·.2.2)).getD 0
      let s := e.s.onTeam t.id fun t => { t with colls := (x.rnd.toNat, x.x3.toNat, n + 1) :: t.colls.filter fun k => !mine k }
      let r := collInstance s gr t x.rnd.toNat x.x3.toNat n
      let status := if x.rnd = 2#3 ∧ t.id ∉ r.1.crew then 9 else if r.1.abort then 10 else 0
      { e with
        s := if status = 0 then (onOwn c r.2 fun k => { k with coll := some r.1.no }).later [.collInstanceComplete r.1.no [] .none]
          else (onOwn c r.2 fun k => { k with started := true, ended := true, status := status }).later
            [.commandComplete (bank c.g.quad)] })

/-- R329: TCLAIM takes every unit its masks name where no other gang holds one of them, and D is 0; else it takes none, and D names
the units that others hold; D is pending for 4 cycles (R143, R348). TREL frees the units of its masks where the gang holds them all, and else raises TSLOT (R333). -/
def Sys2Proof.Claims.ClaimResults : Prop :=
  (∀ x : HandleArgs,
    let busy := fun (c : Ictx) => ((taken c (claimed x c)).map fun u => match u with | .slot t => 2 ^ t | .acc a => 2 ^ (16 + a)).foldl (· + ·) 0
    let regs := fun (c : Ictx) => destWrites c x.d 1 c.mask fun _ => busy c
    Does (.tclaim x) 0#32 (fun c => fitsLate c x.d) fun c =>
      { Effect.exact c 4 (regs c) with
        s := if taken c (claimed x c) = [] then (claimed x c).foldl (fun s u => s.setHolder c.g.quad (some c.g.slot) u) c.s else c.s }) ∧
  (∀ x : HandleArgs, Does (.trel x) 0#32 (fun c => ∀ u ∈ claimed x c, heldBy c u = some c.g.slot) fun c =>
    { Effect.step c with s := (claimed x c).foldl (fun s u => s.setHolder c.g.quad none u) c.s }) ∧
  (∀ (x : HandleArgs) (u : MUnit), Enters (.trel x)
    (fun c => (claimed x c).find? (fun u => heldBy c u != some c.g.slot) = some u)
    fun c => ⟨.tslot, BitVec.ofNat 64 ((match u with | .slot t => t | .acc a => 0x80 + a) * 256 + 1), c.iset⟩) ∧
  (∀ (s : State) (q : Nat) (h : Option Nat) (u v : MUnit), q < s.quads.length → (∀ t, u = .slot t → t < (s.quad q).slots.length) →
    (∀ a, u = .acc a → a < (s.quad q).accs.length) →
    holderOf ((s.setHolder q h u).quad q) v = if v = u then h else holderOf (s.quad q) v)

/-- R330, R331, R333, R334, R337 to R347: TZERO, TMMA, TMMAS, TDRAIN, TSAVE, TREST, TBURST and TSTAT issue where their joint is open,
the gang holds the units they name in a state they may be used in, and their handles pass. -/
def Sys2Proof.Claims.MatrixCommandsIssue : Prop :=
  MatrixCommands .tzero .tzero (fun _ => []) (fun _ => noNames) (·.d) (.matrixCommandStart · .array) ∧
  MatrixCommands .tmma .tmma (fun _ => []) (fun _ => noNames) (·.d) (.matrixCommandStart · .array) ∧
  MatrixCommands .tmmas .tmmas (fun _ => []) (fun _ => noNames) (·.d) (.matrixCommandStart · .array) ∧
  MatrixCommands .tburst .tburst (fun _ => []) (fun _ => noNames) (fun _ => .zero) (.matrixCommandStart · .array) ∧
  MatrixCommands .tstat .tstat (fun _ => []) (fun _ => noNames) (·.d) .tstatResult ∧
  MatrixCommands .tdrain .tdrain (fun x => [x.x1.toNat]) (fun x => tdrainNames x) (·.d) (.matrixCommandStart · .move) ∧
  MatrixCommands .tsave .tsave (fun x => [x.x1.toNat])
    (fun x _ hs a => [imageNamed (decide (x.sel = 0#4)) (descAt hs 0) a]) (·.d) (.matrixCommandStart · .move) ∧
  MatrixCommands .trest .trest (fun x => [x.x2.toNat]) (fun x => trestNames x) (·.d) (.matrixCommandStart · .move)

/-- R287, R289, R329, R333: HSET, HGET, TCLAIM and TREL complete; TREL raises TSLOT. HTAB as a place in device memory is the model's
choice (log 8), as is that HSET and HGET behind an open fence perform the earlier accesses at once (log 18). -/
def Obligations.HandlesAndClaims : Prop := Claims.HandleTableResults ∧ Claims.ClaimResults

/-- R258, R290, R291, R297 to R303, R311 to R318, R330 to R347: the commands of the engines and of the matrix queues issue.
HTAB as a place in device memory is the model's choice (log 8), as are that a command which samples handles performs the earlier accesses
of its gang at once (log 18) and what its reads of the table are charged (log 31). -/
def Obligations.CommandsIssue : Prop := Claims.EngineCommandsIssue ∧ Claims.MatrixCommandsIssue

namespace Sys2Proof.Claims

/-- A field of a packet: `len` bits from bit `lo` of byte `byte` on (R356, R358). -/
def field (p : BitVec 512) (byte lo len : Nat) : Nat := p.toNat / 2 ^ (8 * byte + lo) % 2 ^ len
/-- The address of the launch packet: A of the lowest lane plus the offset (R203, R254, R367). -/
def packetAddr (x : Args) (c : Ictx) : Nat := kept c c.lead (wrapNat 64 ((val 0#32 true x.a c c.lead : Int) + x.imm.toInt))
/-- The 64 bytes of a packet, read as four parts at their places, behind the gang's own earlier accesses (R99). -/
def packetAt (c : Ictx) (pl : Nat → Place) : BitVec 512 :=
  BitVec.ofNat 512 ((List.range 4).foldr (fun i acc => memLoad c.settle.s.mem (keyOf (pl i).space (pl i).addr) 16 + 2 ^ 128 * acc) 0)

/-- The status of a device launch up to its creation (R21, R358, R365, R367): TYPE, the RSV fields, FLEET, CPOOL and PLEN; the
limits of a grid; SPAN; the quota of the VD. -/
def DeviceChecks : Prop := ∀ (s : State) vd p v, s.vd? vd = some v →
  deviceStatus s vd p =
    if field p 0 0 8 ≠ 1 ∨ field p 0 16 8 ≠ 0 ∨ field p 8 56 8 ≠ 0 ∨ field p 0x14 26 6 ≠ 0 ∨ field p 0x1C 5 11 ≠ 0 ∨ field p 0x20 56 8 ≠ 0 ∨
      field p 0x28 56 8 ≠ 0 ∨ field p 0 32 32 ≠ 0 ∨ field p 0x1C 16 16 ≠ 0 ∨ field p 0x1C 0 5 ≠ 0 then 12
    else if field p 0x10 0 16 = 0 ∨ field p 0x10 16 16 = 0 ∨ field p 0x14 0 16 = 0 ∨ field p 0x14 16 10 = 0 ∨
      2 ^ 24 < field p 0x10 0 16 * field p 0x10 16 16 * field p 0x14 0 16 then 1
    else if 5 < field p 0 11 3 then 5
    else if v.dlq.toNat ≤ v.dlc then 8 else 0

/-- The child of a device launch (R359, R365, R367): a grid of the packet's shape in the parent's context and VD, in the lower of
the two classes, with the next SEQ; DLC is one more, and the child is QUEUED among the last 4,096. -/
def ChildIsCreated : Prop := ∀ (s : State) (gr : Grid) p v, s.vd? gr.vd = some v → ∃ x w,
  (s.createChild gr p).grids = s.grids ++ [x] ∧ x.child = true ∧ x.vd = gr.vd ∧ x.ctx = gr.ctx ∧ x.seq = v.seq.toNat ∧
  x.cls.code = max (field p 0 14 2) gr.cls.code ∧ x.x = field p 0x10 0 16 ∧ x.y = field p 0x10 16 16 ∧ x.z = field p 0x14 0 16 ∧
  x.size = field p 0x14 16 10 ∧ x.span = 16 * 2 ^ field p 0 11 3 ∧ x.deadline = field p 0x18 0 32 ∧ x.carea = field p 0x28 0 56 ∧
  x.packet = some p ∧ (s.createChild gr p).mem = s.mem ∧
  (s.createChild gr p).vd? gr.vd = some w ∧ w.dlc = v.dlc + 1 ∧ w.seq = v.seq + 1 ∧
  (v.children.length < 4096 → w.children = v.children ++ [⟨v.seq.toNat, 0, 0, 0⟩])

/-- The word of LSTAT (R368). -/
def StatusWord : Prop := ∀ (s : State) vd w,
  (2 ^ 28 ≤ w → w < 2 ^ 32 → lstatWord s vd w = 3 * 2 ^ 28 + w / 2 ^ 28 * 2 ^ 24) ∧
  ∀ v, w < 2 ^ 26 → s.vd? vd = some v →
    ((∀ c ∈ v.children, c.seq ≠ w) → lstatWord s vd w = 15 * 2 ^ 28) ∧
    ∀ pre c rest, v.children = pre ++ c :: rest → (∀ b ∈ pre, b.seq ≠ w) → c.seq = w →
      lstatWord s vd w = c.state * 2 ^ 28 + c.status * 2 ^ 24 + min c.retired 0xFFFFFF

end Sys2Proof.Claims

/-- R32, R254, R365 to R368: LAUNCH completes where its packet can be read; it creates a child grid and gives its SEQ, or gives the
status of the first check that fails and creates none. LSTAT gives the state of a child. The release of LAUNCH performs the earlier
accesses of its gang at once, a choice of the model (log 18). -/
def Sys2Proof.Claims.LaunchResults : Prop :=
  (∀ (x : Args) (gr : Grid) (k : Context) (pl : Nat → Place),
    let st := fun (c : Ictx) => deviceStatus c.settle.s gr.vd (packetAt c pl)
    let regs := fun (c : Ictx) => destWrites c x.d 1 c.mask fun _ =>
      st c * 2 ^ 28 + if st c = 0 then (c.settle.s.vd? gr.vd).elim 0 (·.seq.toNat) else 0
    Does (.launch x) 0#32 (fun c => c.s.gridOf c.g = some gr ∧ c.s.contextOf c.g = some k ∧ packetAddr x c % 64 = 0 ∧
      (∀ i < 4, c.s.translate k.desc (packetAddr x c + 16 * i) = .ok (pl i) ∧ (pl i).r = true ∧
        ((pl i).space = .far → c.s.farGone = false) ∧ ((pl i).space = .device → (pl i).addr < c.s.memcap)) ∧ fitsLate c x.d)
      fun c =>
      let s := c.settle.s.bookReads c.settle.g gr ((List.range 4).map fun i => (keyOf (pl i).space (pl i).addr, (pl i).own))
      let g := c.settle.g
      let rs := outstanding (pendingResult c 40 (regs c) [] [])
      { Effect.step c with
        s := if st c = 0 then s.createChild gr (packetAt c pl) else s
        g := unfolded { g with lanes := advance g c.iset c.pc } (regs c)
        rs := rs
        work := rs.map fun r => .variableResultReturn g.gid r.seq none }) ∧
  Claims.DeviceChecks ∧ Claims.ChildIsCreated ∧
  (∀ (x : Args) (gr : Grid),
    let regs := fun (c : Ictx) => destWrites c x.d 1 c.mask fun _ => lstatWord c.s gr.vd (val x.imm false x.a c c.lead)
    Does (.lstat x) x.imm (fun c => c.s.gridOf c.g = some gr ∧ fitsLate c x.d) fun c => .pending c 24 (regs c) [] []) ∧
  Claims.StatusWord

/-- R249, R363, R364: a continuation record comes to its pool: it takes a free place of the buffer, into which its 64 bytes go as a
posted store of its gang where the place has a target, and it joins the records of the pool, which keeps all others. -/
def Sys2Proof.Claims.RecordsArrive : Prop :=
  ∀ (s : State) g x d p bits, s.pool? p.vd p.id = some p → ∃ slot u,
    let t := s.addRecord g x d p bits
    (∀ y ∈ p.records, y.slot ≠ slot) ∧ t.pool? p.vd p.id = some u ∧
    (∀ y, y ∈ u.records ↔ y ∈ p.records ∨ y = ⟨bits, s.uc.toNat, slot⟩) ∧
    ∀ pl, s.target d 5 true (p.rbuf + 64 * slot) = .ok pl → ∃ r, t.reqs = s.reqs ++ [r] ∧ r.gid = g.gid ∧ r.kind = .store ∧
      r.ty = .b128 ∧ r.space = pl.space ∧
      r.accs = (List.range 4).map fun i => ⟨i, keyOf pl.space pl.addr + 16 * i, bits.toNat / 2 ^ (128 * i) % 2 ^ 128, 0⟩

/-- R248, R249: DEFER puts one continuation record for each lane of the write mask into the grid's pool, in ascending lane order, and
ends those lanes as EXIT does; without a pool it raises PROT with the continuation address; that `$tmask` is the issuing set is the
model's choice (log 32). A record holds the address, the word count and the words. -/
def Sys2Proof.Claims.DeferResults : Prop :=
  (∀ (x : Args) (gr : Grid) (k : Context) (p : Pool) (a n : BitVec 8), x.a = .v a → x.b = .const n →
    Does (.defer x) 0#32 (fun c => c.s.gridOf c.g = some gr ∧ c.s.contextOf c.g = some k ∧ c.s.poolOf gr = some p ∧
        ∀ i ∈ p.freePlaces c.mask.count, ∀ e, c.s.translate k.desc (p.rbuf + 64 * i) = .error e → e.replay = false) fun c =>
      let cont := (target x c).toNat
      let s := ((Lanes.toList c.mask).foldl (fun s l => s.addRecord c.g gr k.desc p (contRecord cont n.toNat fun i =>
        (c.v.reg ((a.toNat + i) % 256)).shape.lane l)) c.s).later [.admissionStep]
      let e := moving c (c.cyc + 2) fun _ l => { l with live := false }
      if e.g.lanes.any (·.live) then { e with s := s }
      else { e with
        g := { e.g with life := .draining, stopped := false, lastRate := s.gangRate c.g }
        s := s.later [.gangFree c.g.gid] }) ∧
  (∀ (x : Args) (gr : Grid) (k : Context), Enters (.defer x)
    (fun c => c.s.gridOf c.g = some gr ∧ c.s.contextOf c.g = some k ∧ c.s.poolOf gr = none) fun c => ⟨.prot, target x c, c.iset⟩) ∧
  Claims.RecordsArrive ∧
  (∀ (pc n : Nat) (word : Nat → Word), n ≤ 14 →
    (contRecord pc n word).toNat % 2 ^ 56 = pc % 2 ^ 56 ∧ (contRecord pc n word).toNat / 2 ^ 56 % 256 = n ∧
    ∀ i, i < 14 → (contRecord pc n word).toNat / 2 ^ (64 + 32 * i) % 2 ^ 32 = if i < n then (word i).toNat else 0)

/-- R32, R248, R249, R363 to R368: LAUNCH, LSTAT and DEFER complete, and what they leave; DEFER without a pool raises PROT.
The time of the release is the model's choice (log 18). -/
def Obligations.LaunchAndDeferResults : Prop := Claims.LaunchResults ∧ Claims.DeferResults

namespace Sys2Proof.Claims

/-- No hints, and the guard p7. -/
def plain : Head := ⟨⟨false, 7#3⟩, ⟨false, false, false, false, false⟩⟩

/-- The next instruction of a port takes a trap of steps 2 to 5 (R168): the fields of the trap before its state. -/
def DecodeTrap (s : State) (p : Port) (g : Gang) (i : Instr) (t : Trap) : Prop :=
  AtPort s p g ∧ earlyTrap i (ctx i s p g) = some t

/-- No unit that the instruction needs is missing, and no operand field of it raises OPERAND. -/
def Accepted (i : Instr) (g : Gang) (feat : Word) : Prop :=
  missingFeature i feat = none ∧ ∀ f ∈ (usesOf i).fields, f.bad (usesOf i).ownImm g = false

/-- The lanes of an access with the addresses it uses: a virtual access that replays, those it first formed (R203). -/
def Access.used (m : Access) (c : Ictx) (packed : Bool) : List LaneAddr :=
  if m.team then m.lanes c packed else (m.lanes c packed).map fun y => ⟨y.lane, kept c y.lane y.addr⟩

/-- The instruction traps for the accesses of its write mask that fail a test: `$tval` holds the lowest failing address, `$tmask`
the lanes that fail (R215). -/
def FailsWith (m : Access) (packed : Bool) (cause : Cause) (pre : Ictx → Prop) (bad : Ictx → Nat → Bool) : Prop :=
  ∃ low : Ictx → Nat,
    let hit := fun c => (m.used c packed).filter fun y => bad c y.addr
    (∀ c, hit c ≠ [] → (∃ y ∈ hit c, y.addr = low c) ∧ ∀ y ∈ hit c, low c ≤ y.addr) ∧
    Enters m.i (fun c => pre c ∧ m.ready c ∧ hit c ≠ []) fun c =>
      ⟨cause, BitVec.ofNat 64 (low c), Lanes.of fun l => (hit c).any (·.lane == l)⟩

/-- What a walk ends with at an address. -/
def walk (k : Context) (c : Ictx) (a : Nat) : Except XErr Place := c.s.translate k.desc a
/-- The walk at an address fails, and not replayably. -/
def fatalAt (k : Context) (c : Ictx) (a : Nat) : Bool := match walk k c a with | .error e => !e.replay | .ok _ => false
/-- The walk at an address succeeds. -/
def mapped (k : Context) (c : Ictx) (a : Nat) : Bool := match walk k c a with | .error _ => false | .ok _ => true
/-- The page at an address lacks a permission that the access needs; the far tier lacks that of a float or residue atomic (R219). -/
def lacks (m : Access) (k : Context) (c : Ictx) (a : Nat) : Bool :=
  match walk k c a with
  | .error _ => false
  | .ok p => (m.kind != .store && !p.r) || (m.kind != .load && !p.w) ||
    (m.kind != .load && m.kind != .store && p.space == .far && (m.ty == .f32 || m.ty == .res28))
/-- The address lies in device memory beyond its capacity (R215, R388). -/
def beyondCap (k : Context) (c : Ictx) (a : Nat) : Bool :=
  match walk k c a with | .error _ => false | .ok p => p.space == .device && decide (c.s.memcap ≤ p.addr)
/-- The address lies in a sealed granule (R111). -/
def sealedAt (k : Context) (c : Ictx) (a : Nat) : Bool :=
  match walk k c a with | .error _ => false | .ok p => c.s.isSealed p.space p.addr
/-- The address lies in a far tier that is not to be reached (R222, R417). -/
def farLost (k : Context) (c : Ictx) (a : Nat) : Bool :=
  match walk k c a with | .error _ => false | .ok p => p.space == .far && c.s.farGone

/-- The traps of a virtual access (R204, R215): ALIGN also where a lane's walk fails, if no walk parks the gang. -/
def VirtualTraps (m : Access) : Prop :=
  ∀ k : Context,
    let here := fun (c : Ictx) => (c.s.gridOf c.g).isSome = true ∧ c.s.contextOf c.g = some k
    let aligned := fun (c : Ictx) => ∀ y ∈ m.used c false, y.addr % m.w = 0
    let free := fun (c : Ictx) (bad : Context → Ictx → Nat → Bool) => ∀ y ∈ m.used c false, bad k c y.addr = false
    FailsWith m false .align (fun c => here c ∧ ((∀ y ∈ m.used c false, mapped k c y.addr = true) ∨
      ∃ y ∈ m.used c false, fatalAt k c y.addr = true)) (fun _ a => a % m.w != 0) ∧
    FailsWith m false .page (fun c => here c ∧ aligned c) (fatalAt k) ∧
    FailsWith m false .prot (fun c => here c ∧ aligned c ∧ ∀ y ∈ m.used c false, mapped k c y.addr = true) (lacks m k) ∧
    FailsWith m false .capx (fun c => here c ∧ aligned c ∧ (∀ y ∈ m.used c false, mapped k c y.addr = true) ∧ free c (lacks m) ∧
      free c farLost) (beyondCap k) ∧
    (m.kind ≠ .load → FailsWith m false .sealed (fun c => here c ∧ aligned c ∧ (∀ y ∈ m.used c false, mapped k c y.addr = true) ∧
      free c (lacks m) ∧ free c farLost ∧ free c beyondCap) (sealedAt k))

/-- The traps of a scratchpad access (R90, R204, R215). -/
def ScratchTraps (m : Access) (packed : Bool) : Prop :=
  ∀ x : Grid,
    let here := fun (c : Ictx) => c.s.gridOf c.g = some x ∧ (c.s.team? c.g.team).isSome = true
    FailsWith m packed .align here (fun _ a => a % m.w != 0) ∧
    FailsWith m packed .prot (fun c => here c ∧ ∀ y ∈ m.lanes c packed, y.addr % m.w = 0)
      fun _ a => decide ((x.kernel.scratch + 4095) / 4096 * 4096 ≤ a)

/-- The primary port's instruction would pass the budget and performs nothing (R137). -/
def OverBudget (i : Instr) (regs : Ictx → List RegWrite) (late : Bool) : Prop :=
  ∀ n : Ictx → Nat, Enters i (fun c => c.port.secondary = false ∧ shapeOvf c.g (regs c) late = some (n c))
    fun c => ⟨.shapeOvf, BitVec.ofNat 64 (n c), c.mask⟩

end Sys2Proof.Claims

/-- R165, R147, R151 to R163: every instruction of the 147 of the opcode table has a word, and where its form admits its operands and
fields, the decoder reads the instruction back from that word, with every operand and field. -/
def Obligations.EveryInstructionRoundTrips : Prop :=
  (∀ i : Instr, i.wellFormed = true → ∀ w, encode i = some w → decode w = .ok i) ∧
  ∀ i : Instr, i.ctorIdx < 147 → ∃ w, encode i = some w

/-- What words of the spec's worked encodings decode to, and the `$tval` of two that are no instruction. -/
def Obligations.SpecWordsDecode : Prop :=
  decode 0x0400000_01C050018_05011CC3#96 =
    .ok (.ffma ⟨⟨plain.guard, { plain.sched with sw := true }⟩, .f32, false, 0, 1, .v 4, .v 5, .v 6, .v 7, 0⟩) ∧
  decode 0x00000004_00005870_01009C40#96 = .ok (.iadd ⟨plain, .i32, false, 0, 0, .v 2, .v 1, .imm, 0x100⟩) ∧
  decode 0x00000000_00405C40_00805C4F#96 = .ok (.icmp ⟨plain, .i32, false, 2, 0, .p 1, .v 0, .const 16, 0⟩) ∧
  decode 0x00000080_17EC600C_06011D86#96 = .ok (.atom ⟨plain, .u32, 7, 3, 3, .v 4, .v 6, .v 3, .v 5, 8⟩) ∧
  decode 0x00040008_10200874_06025E40#96 = .ok (.acopy ⟨plain, .untyped, false, 1, 0, .v 9, .v 6, .zero, 0, 1, 0, 2, 4⟩) ∧
  decode 0x03FFFFFF_DC000000_00001DC0#96 = .ok (.bra ⟨plain, .untyped, false, 0, 0, .v 0, .v 0, .v 0, 0xFFFFFFF7⟩) ∧
  decode 0x00000000_A8000000_00000610#96 = .ok (.trap ⟨⟨⟨false, 1⟩, plain.sched⟩, .untyped, false, 0, 0, .v 0, .v 0, .v 0, 0x2A⟩) ∧
  (decode 0#96).mapError (·.tval) = .error 0x10000000#64 ∧
  (decode 0x00000004_00010870_01009C40#96).mapError (·.tval) = .error 0x30000040#64

/-- R146, R148: when the bytes at the first port's address decode to an instruction, the step is that instruction at that state, and
the port has then issued.
That an issue waits in the state for its step is the model's form (log 1), as is that a joint event waits for its sampling cycle. -/
def Obligations.StepRunsTheDecodedInstruction : Prop :=
  (∀ (s : State) (p : Port) (g : Gang) (k : Context) (bs : List Byte) (i : Instr), s.halted = false → AtPort s p g →
    (g.life = .ready ∨ ∃ q, g.life = .parked q) → s.contextOf g = some k →
    s.fetchBytes k.desc (g.setPc p.lanes).toNat = .bytes bs → decode (wordOfBytes bs) = .ok i →
    ∃ t, exec i s = .next t ∧ Machine.step s = .next t.popPort) ∧
  (∀ (s : State) (p : Port) rest, s.ports = p :: rest → (∃ q ∈ rest, q.gid = p.gid) ∨ s.midIssue p.gid = true →
    s.popPort = { s with ports := rest }) ∧
  (∀ (s : State) (p : Port) rest, s.ports = p :: rest → (∀ q ∈ rest, q.gid ≠ p.gid) → s.midIssue p.gid = false →
    (∀ g, s.gang? p.gid = some g → g.life = .parked .marker → g.marked = []) →
    s.popPort = ({ s with ports := rest } : State).onGang p.gid fun g => g.endCycle p.order)

/-- The machine never stops: from every state its step answers a next state; every instruction of a port whose gang is there, and
every step of the device in every state, answers one. -/
def Obligations.EveryStepGoesOn : Prop :=
  (∀ s, GoesOn s) ∧ (∀ i s p g, i.fields.isSome = true → AtPort s p g → ∃ t, exec i s = .next t) ∧
  (∀ i s, i.fields.isNone = true → ∃ t, exec i s = .next t)

/-- Every step keeps memory in its canonical form: keys rising, no byte listed that reads so when unlisted (log 4, log 5). -/
def Obligations.StepKeepsMemoryCanonical : Prop :=
  ∀ s t, Canonical s → Machine.step s = .next t → Canonical t

/-- The machine right after reset: its memory is canonical, and the registers whose reset values the spec gives have them (R41 to
R45, R51, R131, R252, R306, R327, R369, R402, R409, R414, R418). -/
def Obligations.ResetState : Prop :=
  let s := State.reset
  Canonical s ∧ s.rate.capw = 600 ∧ s.rate.floor = 0x100 ∧ s.rate.devRate = 0x100 ∧ s.rate.clamps = 0 ∧ s.rate.overrun = 0 ∧
  s.cstore.abanks = 32 ∧ s.cstore.busy = false ∧ s.link.fto = 15 ∧ s.link.farDown = false ∧
  (∀ v < 64, ∃ d, s.vd? v = some d ∧ d.weight = 1 ∧ d.quantum = 1000 ∧ d.quads = 0 ∧ d.sharew = 0) ∧
  (∀ q < s.variant.quads, (∀ t ∈ (s.quad q).slots, t.valid = false ∧ t.holder = none) ∧
    ∀ a ∈ (s.quad q).accs, a.mode = 0#2 ∧ a.cnt = 0#32 ∧ a.flags = 0#7 ∧ a.holder = none) ∧
  (∀ x ∈ s.ingress, x.en = false ∧ x.log2n = 4 ∧ x.state = 0#2 ∧ x.lc = 0#32 ∧ x.widx = 0#32) ∧
  s.gangs = [] ∧ s.contexts = [] ∧ s.mend.act = false ∧ s.worrid.bootStat = 0#2

/-- R168, R169, R170: whatever its guard and lanes, an instruction with a trap at decode takes it, its handler's first instruction
not before 12 cycles after the cycle that follows its issue; from the secondary port it is withdrawn instead, and marked, the first
time and where its gang has parked. For every instruction: an ILLEGAL that a handle decides comes before UNIMPL, UNIMPL before OPERAND and
OPERAND before REGIDX; OPERAND names the lowest failing field and its code, and a field fails that its class does not accept, whose direct
register is not aligned or whose latch entry is not valid; REGIDX names the lowest register at or above R of those that the direct fields
name, of DEFER the last of its words (R248). -/
def Obligations.DecodeTraps : Prop :=
  (∀ s p g i t x k, i.fields.isSome = true → DecodeTrap s p g i t → s.gridOf g = some x → s.contextOf g = some k → g.hnd = false →
    vectorIn x k ≠ 0#64 → (p.secondary = true → g.withdrawn = some (g.setPc p.lanes) ∧ g.life = .ready) →
    exec i s = .next ((alone s p).putGang
      (trapped g (vectorIn x k) p.lanes p.secondary (g.setPc p.lanes) t (s.cycleOf g.quad + 1)))) ∧
  (∀ s p g i t, i.fields.isSome = true → DecodeTrap s p g i t → p.secondary = true →
    g.withdrawn ≠ some (g.setPc p.lanes) ∨ g.life ≠ .ready →
    exec i s = .next (s.onGang g.gid fun g => { g with withdrawn := some (g.setPc p.lanes) })) ∧
  (∀ i c, (∀ x, i ≠ .cres x) → earlyTrap i c = decodeTrap i c.g c.port.lanes c.s.variant.feat) ∧
  (∀ x c, earlyTrap (.cres x) c = if x.sel = 0#4 ∧ x.rnd ≠ 0#3 ∧ c.handleTy x.x1.toNat ≠ some .f32 then
    some ⟨.illegal, 0x40000283#64, c.port.lanes⟩ else decodeTrap (.cres x) c.g c.port.lanes c.s.variant.feat) ∧
  (∀ i g lanes feat n, missingFeature i feat = some n → decodeTrap i g lanes feat = some ⟨.unimpl, BitVec.ofNat 64 n, lanes⟩) ∧
  (∀ i g lanes feat, ∀ f ∈ (usesOf i).fields, missingFeature i feat = none → f.bad (usesOf i).ownImm g = true →
    (∀ h ∈ (usesOf i).fields, h.bad (usesOf i).ownImm g = true → f.field ≤ h.field) →
    decodeTrap i g lanes feat = some ⟨.operand, BitVec.ofNat 64 (f.field * 2 ^ 16 + f.op.code.toNat), lanes⟩) ∧
  (∀ (f : FieldUse) own g, f.bad own g = true ↔ f.cls.accepts own f.op = false ∨ (∃ n, f.op = .v n ∧ n.toNat % f.align ≠ 0) ∨
    ∃ n, f.op = .latch n ∧ g.latch.getD n.toNat none = none) ∧
  (∀ i g lanes feat n, Accepted i g feat → n ∈ checkedRegs i → g.r ≤ n → (∀ m ∈ checkedRegs i, g.r ≤ m → n ≤ m) →
    decodeTrap i g lanes feat = some ⟨.regidx, BitVec.ofNat 64 n, lanes⟩) ∧
  (∀ i g lanes feat, Accepted i g feat → (∀ m ∈ checkedRegs i, m < g.r) → decodeTrap i g lanes feat = none) ∧
  (∀ i n, (∀ x, i ≠ .defer x) → (n ∈ checkedRegs i ↔
    ∃ f ∈ (usesOf i).fields, ∃ a j, f.op = .v a ∧ j < f.count ∧ n = a.toNat + j)) ∧
  (∀ (x : Args) (a w : BitVec 8), x.a = .v a → x.b = .const w →
    checkedRegs (.defer x) = if w = 0#8 then [] else [a.toNat + w.toNat - 1]) ∧
  (∀ (x : Args) g lanes feat, decodeTrap (.iadd { x with d := .zero, a := .latch 0, ty := .i32 }) g lanes feat =
    if g.latch.getD 0 none = none then some ⟨.operand, BitVec.ofNat 64 (2 ^ 16 + 0x218), lanes⟩
    else decodeTrap (.iadd { x with d := .zero, a := .zero, ty := .i32 }) g lanes feat)

/-- R150, R143, R29: every instruction that no lane performs writes nothing and moves its lanes on; one that names a pending register
parks its gang, and from the secondary port is withdrawn. -/
def Sys2Proof.Claims.InstructionsThatDoNotPerform : Prop :=
  (∀ i s p g r, i.fields = some r → AtPort s p g → earlyTrap i (ctx i s p g) = none → g.marked = [] →
    (∀ n ∈ namedAt i (instrHead i) (ctx i s p g), n ∉ g.pendingCodes) → (ctx i s p g).mask = 0#32 →
    ∃ imm, (imm = r.imm ∨ imm = 0#32) ∧ exec i s = .next (finish i imm s p g
      { Effect.step (ctx i s p g) with next := idleNext i (ctx i s p g) })) ∧
  (∀ i s p g, i.fields.isSome = true → AtPort s p g → earlyTrap i (ctx i s p g) = none → g.marked = [] →
    let waits := (namedAt i (instrHead i) (ctx i s p g)).filter fun n => g.pendingCodes.contains n
    waits ≠ [] →
    exec i s = .next (if p.secondary then s else s.onGang g.gid fun g => { g with life := .parked (.pending waits) }))

/-- R137: MOV and IADD that would pass the budget raise SHAPE_OVF and perform in no lane; `$tval` names the lowest register that
would have taken a line. A full-width write of a U or A value and a write to a register tagged G never raise it; a partial write to
another register raises it where the count and the reservations have reached Gmax. -/
def Sys2Proof.Claims.ShapeBudget : Prop :=
  (∀ x : Args, OverBudget (.mov x) (fun c => destWrites c x.d (if tyWide x.ty then 2 else 1) c.mask fun l => val x.imm (tyWide x.ty) x.a c l) false) ∧
  (∀ x : Args, OverBudget (.iadd x) (fun c => destWrites c x.d (if tyWide x.ty then 2 else 1) c.mask fun l =>
    (narrow (tyWidth x.ty) (tySigned x.ty) x.sat (int x.imm x.ty x.a c l + int x.imm x.ty x.b c l)).val) false) ∧
  (∀ g ws, (∀ w ∈ ws, (g.settled.reg w.n).shape.isG = true ∨
    w.exact = none ∧ w.mask = 0xFFFFFFFF#32 ∧ (press w.vals).isG = false) → shapeOvf g ws false = none) ∧
  (∀ g n mask vals, mask ≠ 0xFFFFFFFF#32 → (g.settled.reg n).shape.isG = false → g.gmax ≤ g.settled.gCount + g.settled.reserved →
    shapeOvf g [⟨n, 0, mask, vals, none⟩] false = some n)

/-- R90, R204, R215, R219: LD, ST, ATOM, LDS, STS, LDP, STP and ATOMS raise ALIGN, then PAGE, then PROT, and the virtual ones then CAPX and
SEALED, for the lanes of the write mask that fail, with the lowest failing address. -/
def Obligations.MemoryAccessTraps : Prop :=
  (∀ x, VirtualTraps (loadOf (.ld x) false x)) ∧ (∀ x, VirtualTraps (storeOf (.st x) false x)) ∧
  (∀ x, VirtualTraps (atomOf (.atom x) false x)) ∧
  (∀ x, ScratchTraps (loadOf (.lds x) true x) false) ∧ (∀ x, ScratchTraps (storeOf (.sts x) true x) false) ∧
  (∀ x, ScratchTraps (loadOf (.ldp x) true x) true) ∧ (∀ x, ScratchTraps (storeOf (.stp x) true x) true) ∧
  (∀ x, ScratchTraps (atomOf (.atoms x) true x) false)

/-- R29, R137, R143, R150: what an instruction does that no lane performs, that names a pending register, or that would pass the
budget of G-lines.
That the park takes the issue slot is the model's choice (log 22), as is that a pending register parks the gang also where the guard is
false in every lane (log 29). -/
def Obligations.PerformanceAndBudget : Prop := Claims.InstructionsThatDoNotPerform ∧ Claims.ShapeBudget

namespace Sys2Proof.Claims

/-- The step answers a next state of which P holds. -/
def To (i : Instr) (s : State) (P : State → Prop) : Prop := ∃ t, exec i s = .next t ∧ P t

/-- A register after a write of some lanes, read lane by lane; its mark is gone when every lane is written (R135, R220). -/
def Written (old new : Reg) (w : RegWrite) : Prop :=
  (∀ l < 32, new.shape.lane l = if w.mask.getLsbD l then LaneVec.lane w.vals l else old.shape.lane l) ∧
  (w.mask = 0xFFFFFFFF#32 → new.shape = press w.vals) ∧ (w.mask ≠ 0xFFFFFFFF#32 → new.shape.isG = true)

/-- The result writes one register of the gang and nothing else. -/
def OneReg (g : Gang) (r : Result) (w : RegWrite) : Prop :=
  r.regs = [w] ∧ r.preds = [] ∧ r.mods = [] ∧ w.exact = none ∧ w.n < g.regs.length

/-- The register file after the write of one register: every other register and every predicate as before. -/
def OneWritten (g h : Gang) (w : RegWrite) : Prop :=
  Written (g.reg w.n) (h.reg w.n) w ∧ (∀ n, n ≠ w.n → h.reg n = g.reg n) ∧ h.preds = g.preds ∧ h.mods = g.mods

/-- The place of a team's bit in its grid's completion bitmap, which can be read and written there. -/
def bitAt (s : State) (c : Context) (x : Grid) (index : Nat) : Except VErr Place :=
  let a := (x.carea + 8 + index / 8) % 2 ^ 64
  match s.target c.desc 5 false a, s.target c.desc 5 true a with
  | .ok p, .ok _ => .ok p
  | .error e, _ | _, .error e => .error e

/-- The store of one byte, with release, that sets a team's bit and keeps the others (R32, R359). -/
def SetsBit (s : State) (p : Place) (index : Nat) (r : Req) : Prop :=
  r.kind = .store ∧ r.rel = true ∧ r.ty = .u8 ∧ r.space = p.space ∧ r.served = false ∧
  r.accs = [⟨0, keyOf p.space p.addr, s.devLoad (keyOf p.space p.addr) 1 ||| 2 ^ (index % 8), 0⟩]

/-- The state outside the gangs and the agenda is as before. -/
def SameBeside (s t : State) : Prop := t = { s with gangs := t.gangs, agenda := t.agenda }

end Sys2Proof.Claims

/-- R135, R142: FIXED_RESULT_WRITE writes a fixed result that is due, at its cycle and not before; no result that is due stays. -/
def Sys2Proof.Claims.FixedResultsAreWritten : Prop :=
  (∀ s q g r w, s.gang? g.gid = some g → g.quad = q →
    (g.results.filter fun x => x.kind == .fixed && decide (x.due ≤ s.cycleOf q)) = [r] → OneReg g r w → r.err = none →
    To (.fixedResultWrite q) s fun t => SameBeside s t ∧ ∃ h, t.gang? g.gid = some h ∧ OneWritten g h w ∧
      (w.mask = 0xFFFFFFFF#32 → (h.reg w.n).mark = none) ∧ ∀ x ∈ h.results, x.kind = .fixed → s.cycleOf q < x.due) ∧
  (∀ s q, (∀ g ∈ s.gangs, g.quad = q → ∀ r ∈ g.results, r.kind = .fixed → s.cycleOf q < r.due) →
    exec (.fixedResultWrite q) s = .next s)

/-- R143, R220: VARIABLE_RESULT_RETURN writes the result of an instruction, whose pending mark is gone; where its data is unusable in
some lanes, those read zero and the register is marked with the load's PC, the reason and the lanes, and data that were poisoned enter
the device's memory error log (R393). A DRAINING gang's result goes nowhere. -/
def Sys2Proof.Claims.VariableResultsReturn : Prop :=
  (∀ s gid seq g r w, s.gang? gid = some g → g.life ≠ .draining → g.results.find? (fun x => x.seq == seq && x.kind == .variable) = some r →
    s.mayReturn g r = true → OneReg g r w → r.err = none →
    (To (.variableResultReturn gid seq none) s fun t => SameBeside s t ∧ ∃ h, t.gang? gid = some h ∧ OneWritten g h w ∧
      (w.mask = 0xFFFFFFFF#32 → (h.reg w.n).mark = none) ∧ ∀ x ∈ h.results, ¬ (x.seq = seq ∧ x.kind = .variable)) ∧
    ∀ e : ReturnErr, To (.variableResultReturn gid seq (some e)) s fun t => (e.reason ≠ .poison ∨ s.devLog.elen = 0#32 → SameBeside s t) ∧
      (e.reason = .poison → s.devLog.elen ≠ 0#32 → t.devLog.eidx = s.devLog.eidx + 1) ∧ ∃ h, t.gang? gid = some h ∧
      (∀ l < 32, (h.reg w.n).shape.lane l =
        if w.mask.getLsbD l then (if e.lanes.getLsbD l then 0#32 else LaneVec.lane w.vals l) else (g.reg w.n).shape.lane l) ∧
      (h.reg w.n).mark = some ⟨r.pc, match e.reason with | .poison => 1#8 | .timeout => 2#8 | .farDown => 3#8 | .peer => 4#8, e.lanes, seq⟩ ∧
      (∀ n, n ≠ w.n → h.reg n = g.reg n) ∧ ∀ x ∈ h.results, ¬ (x.seq = seq ∧ x.kind = .variable)) ∧
  (∀ s gid seq g r, s.gang? gid = some g → g.life = .draining →
    g.results.find? (fun x => x.seq == seq && x.kind == .variable) = some r →
    To (.variableResultReturn gid seq none) s fun t => SameBeside s t ∧ ∃ h, t.gang? gid = some h ∧ h.regs = g.regs ∧ h.preds = g.preds ∧
      ∀ x ∈ h.results, ¬ (x.seq = seq ∧ x.kind = .variable))

/-- R28, R29, R32, R89, R209, R250, R329, R427: a request whose turn has come is performed and acknowledged; a walk that completes and a
sleep that is over end the park of their gang, and the walk the hold of its commands; a DRAINING gang with nothing outstanding is
free and gives up its tile slots and accumulators, and the last gang of a team takes the team with it, and with that the store, a release,
that sets the team's bit in the completion bitmap is on its way.
The agenda is the model's (log 1), as is that the store is performed by a later step (log 12). -/
def Obligations.WaitsEnd : Prop :=
  (∀ s id r, s.reqs.find? (fun x => x.id == id) = some r → r.served = true →
    To (.storePerformed id) s fun t => t.mem = s.mem ∧ t.reqs = s.reqs.filter fun x => x.id != id) ∧
  (∀ s id r d, s.reqs.find? (fun x => x.id == id) = some r → r.served = false → r.space = .scratch → r.due = some d →
    d ≤ s.cycleOf r.quad → reqReady s r = true →
    To (.storePerformed id) s fun t => t.mem = (performReq s.mem r).mem ∧ t.reqs = s.reqs.filter fun x => x.id != id) ∧
  (∀ s gid g, s.gang? gid = some g → g.life = .parked .walk → g.marker = false →
    To (.pageWalkComplete gid) s fun t => (∃ h, t.gang? gid = some h ∧ h = { g with
      life := .ready, nextIssue := max g.nextIssue (s.cycleOf g.quad + 1) }) ∧
      (∀ k ∈ t.cmds, k.gid = gid → k.walking = false) ∧ t.mem = s.mem) ∧
  (∀ s gid g w, s.gang? gid = some g → g.life = .parked (.sleep w) → w ≤ s.cycleOf g.quad → g.marker = false →
    To (.sleepExpiry gid) s fun t => SameBeside s t ∧ t.gang? gid = some { g with
      life := .ready, nextIssue := max g.nextIssue (s.cycleOf g.quad + 1) }) ∧
  (∀ s gid g w, s.gangs = [g] → g.gid = gid → g.life = .parked (.sleep w) → s.cycleOf g.quad < w → exec (.sleepExpiry gid) s = .next s) ∧
  (∀ s gid g, s.gang? gid = some g → g.life = .draining → s.quiet gid = true → (∃ h ∈ s.gangs, h.gid ≠ gid ∧ h.team = g.team) →
    To (.gangFree gid) s fun t => t.gangs = s.gangs.filter (fun h => h.gid != gid) ∧ t.teams = s.teams ∧ t.mem = s.mem ∧
      (g.quad < s.quads.length → ∀ x, (x ∈ (t.quad g.quad).slots → x.holder ≠ some g.slot)) ∧
      (g.quad < s.quads.length → ∀ x, (x ∈ (t.quad g.quad).accs → x.holder ≠ some g.slot))) ∧
  (∀ s gid g tm x, s.gang? gid = some g → g.life = .draining → s.quiet gid = true → (∀ h ∈ s.gangs, h.gid ≠ gid → h.team ≠ g.team) →
    s.team? g.team = some tm → s.grid? tm.grid = some x →
    To (.gangFree gid) s fun t => t.gang? gid = none ∧ t.team? tm.id = none) ∧
  (∀ (s : State) x index c p, s.context? x.ctx = some c → x.carea ≠ 0 → x.own = none → bitAt s c x index = .ok p →
    ∃ t r, s.setBit x index = some t ∧ t.reqs = s.reqs ++ [r] ∧ SetsBit s p index r ∧ .storePerformed r.id ∈ t.agenda ∧ t.mem = s.mem) ∧
  (∀ s gid g tm x c p, s.gang? gid = some g → g.life = .draining → s.quiet gid = true →
    (∀ h ∈ s.gangs, h.gid ≠ gid → h.team ≠ g.team) → s.team? g.team = some tm → s.grids = [x] → tm.grid = x.id → x.bits = [] →
    s.context? x.ctx = some c → x.carea ≠ 0 → x.own = none → bitAt s c x tm.index = .ok p →
    To (.gangFree gid) s fun t => ∃ r ∈ t.reqs, SetsBit s p tm.index r ∧ .storePerformed r.id ∈ t.agenda)

/-- R135, R142, R143, R220: FIXED_RESULT_WRITE and VARIABLE_RESULT_RETURN write the results of instructions. -/
def Obligations.ResultsComeBack : Prop := Claims.FixedResultsAreWritten ∧ Claims.VariableResultsReturn

namespace Sys2Proof.Claims

/-- The keys of a quadrant's scratch section, tile slots and accumulators (R206, R327; log 4). -/
def rinsed (q a : Nat) : Bool :=
  let section_ := keyOf .scratch (q / 4 * 2 ^ 20 + q % 4 * 2 ^ 18)
  (decide (section_ ≤ a) && decide (a < section_ + 2 ^ 18)) || (decide (slotKey q 0 0 ≤ a) && decide (a < slotKey q 0 0 + 2 ^ 20))

/-- A gang that may issue in the next cycle of its quadrant (R36, R377), its live lanes at one address. -/
structure MayIssue (s : State) (q : Nat) (g : Gang) : Prop where
  quad : g.quad = q
  ready : g.life = .ready
  goes : g.stopped = false
  time : g.nextIssue ≤ s.cycleOf q + 1
  noPreempt : g.preempt = false
  one : g.nextSet = g.live
  some : g.live ≠ 0#32
  free : g.holds = []

/-- Gang g comes before gang h: the higher class, the one issued less recently, the lower slot (R36). -/
def Precedes (s : State) (g h : Gang) : Prop :=
  s.rankOf g < s.rankOf h ∨ (s.rankOf g = s.rankOf h ∧ (g.lastIssue < h.lastIssue ∨ (g.lastIssue = h.lastIssue ∧ g.slot < h.slot)))

/-- The instruction stands in the quadrant's instruction cache at the gang's address (R281). -/
structure Cached (s : State) (q : Nat) (g : Gang) (k : Context) (bs : List Byte) (i : Instr) : Prop where
  context : s.contextOf g = some k
  bytes : s.fetchBytes k.desc (g.setPc g.live).toNat = .bytes bs
  decodes : decode (wordOfBytes bs) = .ok i
  lines : ∀ l ∈ s.fetchLines k.desc (g.setPc g.live).toNat, l.1 ∈ (s.quad q).icache
  size : (s.quad q).icache.length ≤ 512
  settled : (s.quad q).fills = []

end Sys2Proof.Claims

/-- R36, R141, R233, R281: SCHEDULER_ISSUE is a cycle of its quadrant: of the gangs that may issue there, the first by class, by least
recent issue and by slot, its instruction in the instruction cache, no queue or buffer of it full and no earlier access of it held,
issues from the primary port and is sampled at least one cycle later; a gang that does not issue is passed over for the next; a quadrant
that is rinsed does nothing. That a cycle of a quadrant is a step, that a joint event waits for its sampling cycle, and that a line of the
cache is known by the place it was loaded from, are the model's choices (log 1, log 23). -/
def Obligations.SchedulerIssues : Prop :=
  (∀ s q g k bs i, q < s.quads.length → (s.quad q).rinsing = false → (s.ownerOf q).isSome = true → s.ports = [] → s.joining = [] →
    g ∈ s.gangs → (s.gangs.map (·.gid)).Nodup → (∀ h ∈ s.gangs, h ≠ g → h.quad = q → h.life = .ready → Precedes s g h) →
    MayIssue s q g → Cached s q g k bs i → s.queueFull g = false → s.blocked g.gid = false → (∀ m, s.poolFull g i m = false) →
    To (.schedulerIssue q) s fun t => t.cycleOf q = s.cycleOf q + 1 ∧ t.mem = s.mem ∧ t.gangs = s.gangs ∧
      t.issues = s.issues + 1 ∧ ∃ n, s.cycleOf q + 2 ≤ n ∧
        let p : Port := ⟨g.gid, g.live, n, false, 0#32, s.issues + 1⟩
        if jointRank i = none then t.ports = [p] ∧ t.joining = [] else t.ports = [] ∧ t.joining = [[p]]) ∧
  (∀ (s t : State) q u g gs, s.tryGang q u g = (t, []) → s.firstIssue q u (g :: gs) = t.firstIssue q u gs) ∧
  (∀ (s : State) q u g gs, (s.tryGang q u g).2 ≠ [] → s.firstIssue q u (g :: gs) = s.tryGang q u g) ∧
  (∀ s q, q < s.quads.length → (s.quad q).rinsing = false → s.gangs = [] →
    To (.schedulerIssue q) s fun t => t.cycleOf q = s.cycleOf q + 1 ∧ t.ports = s.ports ∧ t.mem = s.mem) ∧
  (∀ s q, (s.quad q).rinsing = true → exec (.schedulerIssue q) s = .next s) ∧
  (∀ (s : State) q u, (s.candidates q u).Pairwise fun a b =>
    s.rankOf a < s.rankOf b ∨ (s.rankOf a = s.rankOf b ∧
      (a.lastIssue < b.lastIssue ∨ (a.lastIssue = b.lastIssue ∧ a.slot ≤ b.slot))))

/-- R23, R24, R28, R369 to R371, R376: ADMISSION_STEP admits the lowest unadmitted team of a grid that has room: its gangs stand
READY. A stay that is over ends, its quadrant is rinsed once it is empty, and the incoming VD then becomes resident; a stay goes on
while its time is not over and nothing else ends it. QUANTUM takes effect at once, 0 is refused.
What ends a stay and how a rinse counts are partly the model's choices (log 10). -/
def Obligations.QuadrantsAreShared : Prop :=
  (∀ s x c cores, s.grids = [x] → s.pools = [] → s.teams = [] → s.gangs = [] → x.own = none → x.packet = none → x.cls = .hi →
    x.child = false → x.coloc = false → x.yields = false → x.dmap = 0 → x.next < x.x * x.y * x.z → x.vd < 64 → s.context? x.ctx = some c → c.ended = false →
    c.held = false → s.place (s.room x.vd) x.demand (fun _ => true) = some cores →
    To .admissionStep s fun t => (∃ y, t.grids = [y] ∧ y.id = x.id ∧ y.next = x.next + 1) ∧
      (∃ tm, t.teams = [tm] ∧ tm.grid = x.id ∧ tm.index = x.next ∧ tm.size = x.size ∧ tm.cores = cores ∧
        ∀ g ∈ t.gangs, g.team = tm.id ∧ g.life = .ready) ∧ t.gangs.length = x.size) ∧
  (∀ s q v, q < s.quads.length → s.takesOver q = some v →
    To (.quantumExpiry q) s fun t => (t.quad q).leaving = (s.quad q).vd ∧ (t.quad q).vd = none ∧ (t.quad q).incoming = some v ∧
      .rinseStart q ∈ t.agenda ∧ t.mem = s.mem) ∧
  (∀ s q v d, v ∈ s.sharers q → (s.quad q).vd = some v → s.vd? v = some d → d.weight ≠ 0#8 →
    s.uc.toNat + 8 < (s.quad q).stay + d.weight.toNat * d.qeff.toNat → ((∀ w, s.hasWork w q true = false) ∨ s.dlWorkIn v q = true) →
    exec (.quantumExpiry q) s = .next s) ∧
  (∀ s q, Canonical s → q < s.quads.length → (s.quad q).incoming.isSome = true → (s.quad q).rinsing = false → s.teamsIn q = [] →
    To (.rinseStart q) s fun t => (∀ a, memRead t.mem a = if rinsed q a then 0#8 else memRead s.mem a) ∧
      t.quad q = { s.quad q with
        rinsing := true, icache := [], fills := [], slots := List.replicate 16 ⟨false, 0, 0, false, none⟩
        accs := List.replicate 8 ⟨0, 0, 0, none⟩ }) ∧
  (∀ s q, q < s.quads.length → (s.quad q).rinsing = true →
    To (.rinseComplete q) s fun t => t.mem = s.mem ∧ t.quad q = { s.quad q with
      cycle := (s.quad q).cycle + 4672, rinsing := false, vd := (s.quad q).incoming, leaving := none, incoming := none
      stay := s.uc.toNat }) ∧
  (∀ s vd d, s.vd? vd = some d →
    To (.quantumWrite vd 0#32) s fun t => t.vd? vd = some { d with qzero := true }) ∧
  (∀ s vd d v, s.vd? vd = some d → v ≠ 0#32 → (∀ c ∈ s.contexts, c.desc.vd ≠ vd) →
    To (.quantumWrite vd v) s fun t => t.vd? vd = some (if v.toNat < 26 then { d with quantum := v, qeff := 26, qadj := true }
      else { d with quantum := v, qeff := v }))

namespace Sys2Proof.Claims

/-- One step of the law of R47 in 16.16, 1 + e/2 as a fraction: truncated, within 7/8 and 9/8 of the old rate, not below the floor. -/
def law (ρ floor : Word) (num den : Nat) : Nat :=
  let x := ρ.toNat * num / den
  let x := if x < ρ.toNat * 7 / 8 then ρ.toNat * 7 / 8 else if ρ.toNat * 9 / 8 < x then ρ.toNat * 9 / 8 else x
  let x := if x < floor.toNat then floor.toNat else x
  if 0xFFFFFFFF < x then 0xFFFFFFFF else x

/-- The cost of a point at a rate (R55): its time and its energy truncated to 16.16, the product truncated. -/
def cost (p : Config.Point) (ρ : Word) : Nat := p.num * 65536 / p.den + ρ.toNat * (p.energy * 65536 / 1000) / 65536

/-- n is the point of least cost of a table, the lowest on a tie. -/
def Least (ps : List Config.Point) (ρ : Word) (n : Nat) : Prop :=
  ∃ p, ps[n]? = some p ∧ ∀ (i : Nat) q, ps[i]? = some q → (i < n → cost p ρ < cost q ρ) ∧ cost p ρ ≤ cost q ρ

/-- A unit is to move to a point, or stays where it is. -/
def Aims (s : State) (u : PowerUnit) (n : Nat) (t : State) : Prop :=
  t.mem = s.mem ∧ t.unitPt u = { s.unitPt u with pending := if n = (s.unitPt u).point then none else some n } ∧
  (n ≠ (s.unitPt u).point → .pointChangeApply u ∈ t.agenda)

/-- The sum of all SHAREW (R51). -/
def shares (s : State) : Nat := (s.vds.map fun v => v.sharew.toNat).sum

end Sys2Proof.Claims

/-- R42: RATEFLOOR, at offset 0x004, holds FLOOR, the base floor of every rate; it is 0x100 at reset; it reads as it is, and a write
stores its value, and 0x100 for a value below 0x100. From the next step of the adjuster on no VD's rate is below it. -/
def Obligations.RateFloorWrites : Prop :=
  State.reset.rate.floor = 0x00000100#32 ∧
  (∀ (s : State), s.registerRead 0x004 = s.rate.floor) ∧
  (∀ (s : State) (v : Word), exec (.ratefloorWrite v) s = .next { s with rate := { s.rate with
    floor := if v.toNat < 0x00000100 then 0x00000100#32 else v } }) ∧
  (∀ (s : State) (v : Word), exec (.registerWrite 0x004 v) s = exec (.ratefloorWrite v) s) ∧
  ∀ (s : State) (power : Nat), To (.adjusterStep power) s fun t => t.rate.floor = s.rate.floor ∧
    ∀ v, s.rate.floor.toNat ≤ (t.vdRate v).toNat

/-- R41, R44, R47, R49 to R51, R407: PWRCAP_WRITE brings its value into range; VDSHARE_WRITE sets a share, which begins at the device
rate; both tell where the shares pass the cap. ADJUSTER_STEP begins a microsecond: the rates move by the law, the clamp enters
after eight windows above the cap and takes every unit to point 0, and it leaves below 0.9 of the cap. -/
def Sys2Proof.Claims.RatesAreAdjusted : Prop :=
  (∀ (s : State) (v : Word),
    let w := v.toNat % 4096
    let c := if w < 600 then 600 else if 2400 < w then 2400 else w
    exec (.pwrcapWrite v) s = .next { s with rate := { s.rate with
      capw := BitVec.ofNat 12 c, capadj := s.rate.capadj || decide (c ≠ w) || decide (c < shares s) } }) ∧
  (∀ (s : State) vd d (v : Word), s.vd? vd = some d →
    To (.vdshareWrite vd v) s fun t =>
      t.vd? vd = some { d with
        sharew := v.setWidth 12
        shareRate := if d.sharew = 0#12 ∧ v.setWidth 12 ≠ 0#12 then s.rate.devRate else d.shareRate } ∧
      (∀ u, u ≠ vd → t.vd? u = s.vd? u) ∧
      t.rate = { s.rate with capadj := s.rate.capadj || decide (s.rate.capw.toNat < shares t) }) ∧
  (∀ (s : State) (power : Nat),
    let p := min power 0xFFFF
    let cap := s.rate.capw.toNat
    let above := if 16 * cap < p then min (s.rate.overrun + 1) 8 else 0
    let enters := !s.rate.clamp && decide (8 ≤ above)
    let leaves := s.rate.clamp && decide (10 * p < 9 * 16 * cap)
    To (.adjusterStep power) s fun t => t.mem = s.mem ∧ t.gangs = s.gangs ∧ t.uc = s.uc + 1 ∧ .admissionStep ∈ t.agenda ∧
      t.rate.pmeas.toNat = p ∧ t.rate.devRate.toNat = law s.rate.devRate s.rate.floor (76 * cap + 5 * p) (152 * cap) ∧
      t.rate.overrun = above ∧ t.rate.clamp = (enters || (s.rate.clamp && !leaves)) ∧
      t.rate.clamps = (if enters then s.rate.clamps + 1 else s.rate.clamps) ∧
      (enters = true → ∀ u, t.unitPt u = ⟨u, 0, none, none⟩) ∧ (enters = false → t.points = s.points) ∧
      (s.timeNs + 1000 < 2 ^ 48 * 10 ^ 9 → t.timeNs = s.timeNs + 1000) ∧
      ∀ (v : Nat) d, s.vd? v = some d → ∃ e, t.vd? v = some e ∧ e.energy = 0 ∧ e.sharew = d.sharew ∧
        (d.sharew = 0#12 → e.shareRate = d.shareRate) ∧
        (d.sharew ≠ 0#12 → e.shareRate.toNat = law d.shareRate s.rate.floor (19 * 10 ^ 6 * d.sharew.toNat + 20 * d.energy)
          (38 * 10 ^ 6 * d.sharew.toNat)))

/-- R55, R56, R60: UNIT_EVALUATION aims a unit with work at its point of least cost, when that is at most 15/16 of the present cost, a
unit without work at point 0, and none while the clamp holds. POINT_CHANGE_APPLY applies the new point, for a quadrant at the lower
clock until CLOCK_CHANGE_COMPLETE; an array in an open burst keeps its point. -/
def Sys2Proof.Claims.PointsAreChosen : Prop :=
  (∀ (s : State) u, s.rate.clamp = true → exec (.unitEvaluation u) s = .next s) ∧
  (∀ (s : State) u, s.rate.clamp = false → s.inBurst u = false → s.unitWork u = false →
    To (.unitEvaluation u) s (Aims s u 0)) ∧
  (∀ (s : State) u n p q, s.rate.clamp = false → s.inBurst u = false → s.unitWork u = true → s.rate.freeUntil < s.uc.toNat →
    Least (s.pointsOf u) (s.unitRate u) n → (s.pointsOf u)[n]? = some p → (s.pointsOf u)[(s.unitPt u).point]? = some q →
    let now := cost q (s.unitRate u)
    To (.unitEvaluation u) s (Aims s u (if cost p (s.unitRate u) ≤ now - now / 16 then n else (s.unitPt u).point))) ∧
  (∀ (s : State) q n, (s.unitPt (.quad q)).pending = some n →
    To (.pointChangeApply (.quad q)) s fun t => t.unitPt (.quad q) = { s.unitPt (.quad q) with slow := some (min (s.unitPt (.quad q)).point n) } ∧
      .clockChangeComplete q ∈ t.agenda) ∧
  (∀ (s : State) q n m, (s.unitPt (.quad q)).pending = some n → (s.unitPt (.quad q)).slow = some m →
    To (.clockChangeComplete q) s fun t => t.unitPt (.quad q) = ⟨.quad q, n, none, none⟩) ∧
  (∀ (s : State) u n, (∀ q, u ≠ .quad q) → s.inBurst u = false → s.midItem u = false → (s.unitPt u).pending = some n →
    To (.pointChangeApply u) s fun t => t.unitPt u = { s.unitPt u with point := n, pending := none }) ∧
  (∀ (s : State) q n, 0 < (s.quad q).burst → s.rate.freeUntil < s.uc.toNat → (s.unitPt (.array q)).pending = some n →
    To (.pointChangeApply (.array q)) s fun t => t.unitPt (.array q) = { s.unitPt (.array q) with pending := none })

/-- R305, R306, R416: CSPART_WRITE takes a multiple of 8 up to 64 while no host stage maps common memory: the banks that stay
addressable keep their bytes; any other value sets CFGERR, and every write while a page is mapped BUSY. A write to the register space is the write of the
register at its offset, W1C and reserved bits as the register says.
The agenda after a write is the model's (log 1). -/
def Obligations.RegistersAreWritten : Prop :=
  (∀ (s : State) (v : Word), v.toNat % 128 % 8 ≠ 0 ∨ 64 < v.toNat % 128 →
    exec (.cspartWrite v) s = .next { s with cstore := { s.cstore with cfgerr := true, busy := s.cstore.busy || s.commonMapped } }) ∧
  (∀ (s : State) (v : Word), v.toNat % 128 % 8 = 0 → v.toNat % 128 ≤ 64 → s.commonMapped = true →
    exec (.cspartWrite v) s = .next { s with cstore := { s.cstore with busy := true } }) ∧
  (∀ (s : State) (v : Word), v.toNat % 128 % 8 = 0 → v.toNat % 128 ≤ 64 → s.commonMapped = false → Canonical s →
    (∀ x ∈ s.mem, keyOf .common 0 ≤ x.1 → x.1 < keyOf .far 0 → x.1 < keyOf .common (2 ^ 55)) →
    To (.cspartWrite v) s fun t => t.cstore = { s.cstore with abanks := v.toNat % 128 } ∧
      (∀ a, a < keyOf .common 0 ∨ keyOf .far 0 ≤ a → memRead t.mem a = memRead s.mem a) ∧
      ∀ c a, c < 2 ^ 55 → movedCpa s.cstore.abanks (v.toNat % 128) c = some a →
        memRead t.mem (keyOf .common a) = memRead s.mem (keyOf .common c)) ∧
  (∀ (s : State) (v : Word), exec (.registerWrite 0x0 v) s = exec (.pwrcapWrite v) s ∧
    exec (.registerWrite 0x4 v) s = exec (.ratefloorWrite v) s ∧ exec (.registerWrite 0x1000 v) s = exec (.cspartWrite v) s) ∧
  (∀ (s : State) (v : Word), exec (.registerWrite 0x8 v) s = .next { s with rate := { s.rate with
    capadj := s.rate.capadj && !v.getLsbD 2 } }) ∧
  (∀ (s : State) (vd : Nat) d (v : Word), vd < 64 → s.vd? vd = some d →
    To (.registerWrite (0x10060 + 0x100 * vd) v) s fun t =>
      t.vd? vd = some { d with weight := v.extractLsb' 24 8, dlq := v.extractLsb' 0 16 } ∧ t.mem = s.mem) ∧
  (∀ (s : State) o v, o % 4 ≠ 0 → exec (.registerWrite o v) s = .next s)

/-- R41, R44, R47, R49 to R51, R55, R56, R60, R407: PWRCAP_WRITE, VDSHARE_WRITE, ADJUSTER_STEP, UNIT_EVALUATION, POINT_CHANGE_APPLY and
CLOCK_CHANGE_COMPLETE.
That `$time` moves with the microsecond count is the model's choice (log 14). -/
def Obligations.RatesAndPoints : Prop := Claims.RatesAreAdjusted ∧ Claims.PointsAreChosen

namespace Sys2Proof.Claims

/-- The queue stands behind the packet that was at its head (R354). -/
def Past (q : Nat) (x : Queue) (t : State) : Prop := ∃ z, t.queue? q = some z ∧ z.head = (x.head + 1) % 2 ^ 32
/-- The queue has gone to ERROR with a code (R355). -/
def InError (q code : Nat) (t : State) : Prop := ∃ z, t.queue? q = some z ∧ z.state = 2 ∧ z.ecode = code

/-- The state of a notify before the ring is examined: TAIL, whose store into the block is on its way (R353, R354). -/
def withTail (s : State) (q : Nat) (x : Queue) (tail : Nat) : State :=
  (s.onQueue q fun y => { y with tail := tail }).post (dispatcherFor noCtx) (x.qcb + 0x10) 4 tail

/-- Requests leave for a stage of a step, which is tried again until they are performed. -/
def waiting (s : State) (i : Instr) (stage : Nat) (rs : List Req) : State :=
  ({ s.send rs with waits := s.waits ++ [⟨i, stage, (s.numbered rs).map (·.id), false⟩] } : State).retry i
/-- The step sends its requests at a stage and waits for them (R389). -/
def Sends (i : Instr) (stage : Nat) (rs : List Req) (s : State) : Prop :=
  s.waitOf i stage = none → rs ≠ [] → (∀ w ∈ s.waits, w.step = i → w.stage ≤ stage) → exec i s = .next (waiting s i stage rs)
/-- The requests of a stage of a step are performed: it goes on in `t`. -/
def Served (i : Instr) (stage : Nat) (s t : State) : Prop :=
  ∃ w, s.waitOf i stage = some w ∧ s.waitRuns w = false ∧ t = { s with waits := s.waits.erase w }
/-- The requests of a stage are performed, and no earlier stage of the step is open. -/
def ServedAt (i : Instr) (stage : Nat) (s t : State) : Prop := Served i stage s t ∧ ∀ n < stage, s.waitOf i n = none

/-- R353 to R355, R372, R416: QUEUE_NOTIFY takes TAIL and puts the step of the packet at HEAD on the agenda; a disabled queue and, in
every state of the queue, a TAIL beyond the ring go to ERROR. GUEST_NOTIFY reads the guest's table, and then notifies a queue of its own
VD, or is discarded and counted. Here a packet of the queue is outstanding, so the block is not reloaded.
That a queue is listed from its first notify on is the model's choice (log 17). -/
def NotifiesStartPackets : Prop :=
  (∀ s q x (v : Word), s.queue? q = some x → x.packets ≠ [] → x.wait = none →
    (x.state = 1 → x.en = false → To (.queueNotify q v) s (InError q 7)) ∧
    ((x.state = 1 → x.en = true) → 2 ^ x.log2n < (v.toNat + 2 ^ 32 - x.head) % 2 ^ 32 → To (.queueNotify q v) s (InError q 3)) ∧
    (x.state = 1 → x.en = true → (v.toNat + 2 ^ 32 - x.head) % 2 ^ 32 ≤ 2 ^ x.log2n → x.head ≠ v.toNat →
      ∀ p i, (withTail s q x v.toNat).headPacket { x with tail := v.toNat } = .ok p → packetStep q (pkType p) = some i → pkWaits p = false →
        exec (.queueNotify q v) s = .next ((withTail s q x v.toNat).later [i]))) ∧
  (∀ (s : State) q v, s.queue? q = none → exec (.queueNotify q v) s =
    if q < 1024 then exec (.queueNotify q v) { s with queues := s.queues ++ [.unlisted q] } else .next s) ∧
  (∀ s vd gq v, Sends (.guestNotify vd gq v) 0 (s.guestReads vd gq) s) ∧
  (∀ s t vd gq q v, Served (.guestNotify vd gq v) 0 s t → t.guestQueue vd gq = some q →
    exec (.guestNotify vd gq v) s = exec (.queueNotify q v) t ∧ (∃ u, exec (.guestNotify vd gq v) s = .next u) ∧
    ∃ x, t.queueAt q = some x ∧ x.q = q ∧ x.vd = vd) ∧
  (∀ s t vd gq v d, Served (.guestNotify vd gq v) 0 s t → t.guestQueue vd gq = none → t.vd? vd = some d →
    To (.guestNotify vd gq v) s fun u => u.vd? vd = some { d with qmiss := d.qmiss + 1 } ∧ u.queues = s.queues ∧ u.mem = s.mem)

/-- R353, R357, R389: the stores of a unit hold the bytes it stores: as the units see memory, behind them the bytes of the range are those of the
number, and all others are as before. A number of n bytes is stored by one request for each line of 64 bytes. -/
def StoresOfUnits : Prop :=
  (∀ (s t : State) u rel d path va n x p, Canonical s → s.vstore u rel d path va n x = .ok t → s.target d path true va = .ok p →
    va < 2 ^ 64 → va % 65536 + n ≤ 65536 → t.mem = s.mem ∧ (∃ rs, t.reqs = s.reqs ++ rs ∧ ∀ r ∈ rs, r.kind = .store ∧ r.rel = rel ∧
      r.who = u.who ∧ r.cls = u.cls ∧ r.stamp = (s.now64 + u.ahead) % 2 ^ 16 ∧ .storePerformed r.id ∈ t.agenda) ∧
    ∀ k, memRead t.seen k = if keyOf p.space p.addr ≤ k ∧ k < keyOf p.space p.addr + n
      then BitVec.ofNat 8 (x / 256 ^ (k - keyOf p.space p.addr)) else memRead s.seen k) ∧
  (∀ (s : State) u addr n x k, Canonical s → memRead (s.post u addr n x).seen k =
    if addr ≤ k ∧ k < addr + n then BitVec.ofNat 8 (x / 256 ^ (k - addr)) else memRead s.seen k)

end Sys2Proof.Claims

/-- R20, R355 to R360, R363, R364: a packet is read, and what a launch names; a LAUNCH or a POOL packet whose checks pass then creates its
grid, a POOL its pool, and is outstanding; a LAUNCH with a reserved field set creates none: its record leaves, where it has a completion
area, and the queue goes on. COPY is outstanding until COPY_PACKET_COMPLETE has copied its bytes. A basket whose oldest record has waited
FLUSHT microseconds forms a gang. Rings and control blocks as places in device memory are the model's choice (log 8), as are the steps in
which the reads and stores of a packet are made (log 12). -/
def Obligations.GridsAndPoolsAreCreated : Prop :=
  (∀ s q type i, packetStep q type = some i → (s.startable q type).isSome = true → Sends i 0 (s.packetReads q) s) ∧
  (∀ s t q x p i, (i = .launchPacket q ∧ s.startable q 1 = some (x, p) ∨ i = .poolPacket q ∧ s.startable q 2 = some (x, p)) →
    Served i 0 s t → (∀ w ∈ t.waits, w.step ≠ i) →
    let rs := t.launchReads x (if i = .launchPacket q then launchOf p else poolLaunch p)
    rs ≠ [] → exec i s = .next (waiting t i 1 rs)) ∧
  (∀ s t q x p c k s1 d, ServedAt (.launchPacket q) 1 s t → s.waitOf (.launchPacket q) 2 = none → t.startable q 1 = some (x, p) →
    launchReserved p = false → t.context? x.ctx = some c → c.ended = false →
    (launchOf p).sizeBad = false → (launchOf p).span ≤ 5 →
    t.checkKernel x.vd (dispatcherFor x.ctx) c.desc (launchOf p) false = .ok (k, s1) → s1.vd? x.vd = some d →
    To (.launchPacket q) s fun t => Past q x t ∧ (∃ z, t.queue? q = some z ∧ ⟨x.head, p⟩ ∈ z.packets) ∧ .admissionStep ∈ t.agenda ∧
      t.vd? x.vd = some { d with seq := d.seq + 1 } ∧
      ∃ y, t.grids = s.grids ++ [y] ∧ y.vd = x.vd ∧ y.ctx = x.ctx ∧ y.seq = d.seq.toNat ∧ y.kernel = k ∧ y.next = 0 ∧ y.retired = 0 ∧
        (y.x, y.y, y.z, y.size) = ((launchOf p).x, (launchOf p).y, (launchOf p).z, (launchOf p).t) ∧ y.queue = some (q, x.head)) ∧
  (∀ s t q x p, ServedAt (.launchPacket q) 1 s t → s.waitOf (.launchPacket q) 2 = none → t.startable q 1 = some (x, p) →
    launchReserved p = true →
    ((launchOf p).carea = 0 → (∀ w ∈ t.waits, w.step ≠ .launchPacket q) → To (.launchPacket q) s fun t => Past q x t ∧ t.grids = s.grids) ∧
    ∀ c rs, t.context? x.ctx = some c → (launchOf p).carea ≠ 0 → (∀ w ∈ t.waits, w.step ≠ .launchPacket q) →
      t.vstoreReqs (dispatcherFor x.ctx) true c.desc 5 (launchOf p).carea 8 (completionRecord 12 0) = .ok rs → rs ≠ [] →
      exec (.launchPacket q) s = .next (waiting t (.launchPacket q) 2 rs)) ∧
  (∀ s t q x p, ServedAt (.launchPacket q) 2 s t → t.startable q 1 = some (x, p) → exec (.launchPacket q) s = .next (t.packetDone x p)) ∧
  (∀ s t q x p c k s1, ServedAt (.poolPacket q) 1 s t → s.waitOf (.poolPacket q) 2 = none → t.startable q 2 = some (x, p) →
    poolBad t x.vd p = false → t.context? x.ctx = some c → c.ended = false →
    t.checkKernel x.vd (dispatcherFor x.ctx) c.desc (poolLaunch p) true = .ok (k, s1) →
    To (.poolPacket q) s fun t => 16 ≤ k.regs ∧ 16 ≤ k.gmax ∧ Past q x t ∧ (∃ z, t.queue? q = some z ∧ ⟨x.head, p⟩ ∈ z.packets) ∧
      (∃ y, t.grids = s.grids ++ [y] ∧ y.own = some (pk p 0 32 16) ∧ y.kernel = k) ∧
      ∃ o, t.pools = s.pools ++ [o] ∧ o.vd = x.vd ∧ o.id = pk p 0 32 16 ∧ o.rbuf = pk p 0x10 0 64 ∧ o.rcap = pk p 0x18 0 32 ∧
        o.nfeed = pk p 0x1C 16 16 ∧ o.flusht = pk p 0x1C 0 16 ∧ o.baskets = [] ∧ o.formed = []) ∧
  (∀ s t q x p, Served (.copyPacket q) 0 s t → t.startable q 3 = some (x, p) → pkReserved p 0 0x20 = false → pk p 0x18 0 64 % 64 = 0 →
    To (.copyPacket q) s fun t => Past q x t ∧ (∃ z, t.queue? q = some z ∧ ⟨x.head, p⟩ ∈ z.packets) ∧
      .copyPacketComplete q x.head ∈ t.agenda) ∧
  (∀ s t q i x p d v s1, s.queue? q = some x → x.packets.find? (fun y => y.index == i && pkType y.bits == 3) = some p →
    s.queueDesc x = some d → s.waitOf (.copyPacketComplete q i) 1 = none → Served (.copyPacketComplete q i) 0 s t →
    let n := pk p.bits 0x18 0 64
    0 < n → n ≤ 16384 → t.vload d 5 (pk p.bits 8 0 64) n = .ok v →
    t.vstore (copySource x) false d 5 (pk p.bits 0x10 0 64) n v = .ok s1 →
    exec (.copyPacketComplete q i) s =
      .next (t.awaitSince (s1.chargeCtx x.ctx (t.copyEnergy x n)) (.copyPacketComplete q i) 1)) ∧
  (∀ s t q i x p d, s.queue? q = some x → x.packets.find? (fun y => y.index == i && pkType y.bits == 3) = some p → x.head = x.tail →
    s.queueDesc x = some d → Served (.copyPacketComplete q i) 1 s t →
    To (.copyPacketComplete q i) s fun t => t.mem = s.mem ∧ ∃ z, t.queue? q = some z ∧ ∀ y ∈ z.packets, y.index ≠ i) ∧
  (∀ s p b r, s.pools = [p] → (p.baskets.map (·.1)).Pairwise (· < ·) → p.flusht ≠ 0 → (p.basket b).head? = some r →
    r.arrived + p.flusht ≤ s.uc.toNat →
    To (.basketFlushTimeout p.id b) s fun t => .admissionStep ∈ t.agenda ∧ t.mem = s.mem ∧
      ∃ o, t.pools = [o] ∧ o.basket b = [] ∧ o.formed = p.formed ++ [p.basket b])

/-- R46, R355, R357: SIGNAL stores or adds its VALUE with release, MARK stores the time and the packet's index, and each is done when that
is performed; RATE writes the context's rate limit where the queue may, in its descriptor too, and is done with its start; WAIT and
WAIT_POLL hold the queue until the condition on the word they read holds.
That RATE writes the descriptor in memory is the model's choice (log 31). -/
def Sys2Proof.Claims.PacketsWithoutGrids : Prop :=
  (∀ s t q x p d pl, Served (.signalPacket q) 0 s t → (∀ w ∈ t.waits, w.step ≠ .signalPacket q) → t.startable q 4 = some (x, p) →
    pkReserved p 1 0x18 = false → pk p 8 0 64 % 8 = 0 → t.queueDesc x = some d →
    t.target d 5 true (pk p 8 0 64) = .ok pl → (pk p 0 10 1 = 1 → t.target d 5 false (pk p 8 0 64) = .ok pl) →
    ∃ r : Req, exec (.signalPacket q) s = .next (waiting t (.signalPacket q) 1 [r]) ∧
      r.kind = (if pk p 0 10 1 = 1 then .atomic 0 false else .store) ∧ r.ty = .u64 ∧ r.rel = true ∧ r.space = pl.space ∧
      r.accs = [⟨0, keyOf pl.space pl.addr, pk p 0x10 0 64, 0⟩]) ∧
  (∀ s t q x p d rs, Served (.markPacket q) 0 s t → (∀ w ∈ t.waits, w.step ≠ .markPacket q) → t.startable q 7 = some (x, p) →
    pkReserved p 0 0x10 = false → pk p 8 0 64 % 16 = 0 → t.queueDesc x = some d →
    t.vstoreReqs (dispatcherFor x.ctx) true d 5 (pk p 8 0 64) 16
      (t.ns.toNat + t.sec.toNat * 2 ^ 32 + x.head % 2 ^ 32 * 2 ^ 96) = .ok rs → rs ≠ [] →
    exec (.markPacket q) s = .next (waiting t (.markPacket q) 1 rs)) ∧
  (∀ s t q x p i type, i = .signalPacket q ∧ type = 4 ∨ i = .markPacket q ∧ type = 7 → ServedAt i 1 s t → t.startable q type = some (x, p) →
    t.queueDesc x ≠ none → pkReserved p (if type = 4 then 1 else 0) (if type = 4 then 0x18 else 0x10) = false →
    pk p 8 0 64 % (if type = 4 then 8 else 16) = 0 → exec i s = .next (t.packetDone x p)) ∧
  (∀ s t q x p c, Served (.ratePacket q) 0 s t → t.startable q 6 = some (x, p) → t.context? x.ctx = some c →
    let rlim := fun (c : Context) => { c with desc := { c.desc with rlim := BitVec.ofNat 64 (pk p 8 0 64) } }
    (x.rateok = true → pkReserved p 0 0x10 = false → pk p 8 32 24 = 0 →
      exec (.ratePacket q) s =
        .next (((t.onContext x.ctx rlim).post (dispatcherFor noCtx) (c.where_ + 0x38) 8 (pk p 8 0 64)).packetDone x p)) ∧
    (x.rateok = true → pkReserved p 0 0x10 = true ∨ pk p 8 32 24 ≠ 0 →
      To (.ratePacket q) s fun t => InError q 6 t ∧ t.contexts = s.contexts) ∧
    (x.rateok = true → pkReserved p 0 0x10 = false → pk p 8 32 24 = 0 → To (.ratePacket q) s fun t => Past q x t ∧
      t.context? x.ctx = some (rlim c)) ∧
    (x.rateok = false → To (.ratePacket q) s fun t => InError q 4 t ∧ t.contexts = s.contexts)) ∧
  (∀ (s : State) q x p, s.queue? q = some x → Past q x (s.packetDone x p) ∧
    ∀ v, pkIrq p = some v → .vector x.vd v ∈ (s.packetDone x p).msgs) ∧
  (∀ s t q x p, Served (.waitPacket q) 0 s t → t.startable q 5 = some (x, p) → pkReserved p 3 0x18 = false → pk p 8 0 64 % 8 = 0 →
    pk p 0 10 2 ≠ 3 →
    exec (.waitPacket q) s = .next (((t.advanceHead x).onQueue q fun y => { y with wait := some ⟨x.head, p⟩ }).later [.waitPoll q])) ∧
  (∀ s q x w, s.queue? q = some x → x.wait = some w → Sends (.waitPoll q) 0 (s.waitReads x w) s) ∧
  (∀ s t q x w d v, Served (.waitPoll q) 0 s t → t.queue? q = some x → x.wait = some w → t.queueDesc x = some d →
    t.vload d 5 (pk w.bits 8 0 64) 8 = .ok v →
    (pkHolds w.bits v = false → exec (.waitPoll q) s = .next t) ∧
    (pkHolds w.bits v = true → To (.waitPoll q) s fun t => ∃ z, t.queue? q = some z ∧ z.wait = none ∧ z.head = x.head)) ∧
  (∀ p v, pkHolds p v = true ↔ (pk p 0 10 2 = 0 ∧ v = pk p 0x10 0 64) ∨ (pk p 0 10 2 = 1 ∧ pk p 0x10 0 64 ≤ v) ∨
    (2 ≤ pk p 0 10 2 ∧ v ≠ pk p 0x10 0 64))

/-- R46, R353 to R355, R357, R372, R389, R416: QUEUE_NOTIFY, GUEST_NOTIFY, SIGNAL, MARK, RATE, WAIT and WAIT_POLL, and the stores by which
the units of the device write. Rings and control blocks as places in device memory, and the guest's table, are the model's choices (log 8,
log 11), as are the steps in which the reads and stores of a packet are made (log 12). -/
def Obligations.QueuePackets : Prop := Claims.NotifiesStartPackets ∧ Claims.PacketsWithoutGrids ∧ Claims.StoresOfUnits

namespace Sys2Proof.Claims

/-- The command as the state holds it. -/
def Has (t : State) (id : Nat) (P : Cmd → Prop) : Prop := ∃ k, t.cmd? id = some k ∧ P k

/-- A command of this identifier is no longer there. -/
def Left (k : Cmd) (t : State) : Prop := ∀ c ∈ t.cmds, c.id ≠ k.id
/-- A command of this identifier is no longer there, and its completion word is about to return. -/
def Gone (k : Cmd) (t : State) : Prop := Left k t ∧ .variableResultReturn k.gid k.seq none ∈ t.agenda
/-- A command of this identifier is no longer there, and the word of a matrix command is written 8 cycles later (R348, R426). -/
def GoneIn8 (s : State) (k : Cmd) (w : Nat) (t : State) : Prop :=
  Left k t ∧ ∀ g, s.gang? k.gid = some g → t.gang? k.gid = some (g.setResultAt k.seq w (s.cycleOf g.quad + 8))

/-- A command that has ended with STATUS 0, of a gang that is not DRAINING. -/
structure Ended (s : State) (k : Cmd) : Prop where
  good : k.status = 0
  ended : k.ended = true
  gang : ∃ g, s.gang? k.gid = some g ∧ g.life ≠ .draining

/-- The requests of a command's chunk have been served, or it has none (R389): the chunk acts. -/
def Acts (s : State) (k : Cmd) (r : ChunkEnd) : Prop := r.hold = none ∧ s.pendingFor k = false ∧ (k.booked = true ∨ s.chunkReqs k r = [])
/-- The requests of a command's chunk are under way, or leave now; the step is tried again. -/
def Waits (s : State) (k : Cmd) (r : ChunkEnd) (i : Instr) : Prop :=
  (s.pendingFor k = true → exec i s = .next (s.retry i)) ∧
  (s.pendingFor k = false → k.booked = false → s.chunkReqs k r ≠ [] → exec i s = .next ((s.bookChunk k r).retry i))

/-- One chunk of a command: what a run of its items leaves in memory, the next chunk or the end (R293). -/
def ChunkDone (k : Cmd) (r : ChunkEnd) (mem : List Host.Cell) (last : Bool) (next : List Instr) (t : State) : Prop :=
  t.mem = mem ∧ (Has t k.id fun c => c.step = k.step + 1 ∧ c.ended = (last || r.status != 0) ∧ c.status = r.status ∧
    c.flags = k.flags ||| r.flags ∧ c.booked = false) ∧ ∀ i ∈ next, i ∈ t.agenda

end Sys2Proof.Claims

/-- R259, R290 to R294, R312, R316: ENGINE_COMMAND_START starts the next command of a queue, which is its head
where that is no collective; COMMAND_CHUNK sends the requests of the next chunk of its items and, once they are served, performs it,
of an engine or a move lane; the elements of a chunk of path K go to the banks; COMMAND_COMPLETE takes an ended command out of its queue,
returns its completion word, arrives at its joint with its weight, and lets the next command start.
That a chunk is performed when its requests are served, and that a collective does not hold the commands of other teams, are the model's
choices (log 12, log 29). -/
def Obligations.EngineSteps : Prop :=
  (∀ (s : State) e k ks, s.engineQueue e = k :: ks → k.op ≠ .coll → (∀ c ∈ ks, c.started = false) →
    (∀ c ∈ s.cmds, c.place = .engine e → k.id ≤ c.id) → s.engineNext e = some k) ∧
  (∀ (s : State) e c k ks, s.engineQueue e = c :: k :: ks → c.op = .coll → k.op ≠ .coll → (∀ d ∈ k :: ks, d.started = false) →
    c.id < k.id → (∀ d ∈ s.cmds, d.place = .engine e → d = c ∨ k.id ≤ d.id) →
    if c.team = k.team ∧ c.ended = false then s.engineNext e ≠ some k else s.engineNext e = some k) ∧
  (∀ s e k, s.engineNext e = some k → k.started = false →
    To (.engineCommandStart e) s fun t => Has t k.id (·.started = true) ∧ .commandChunk e .none ∈ t.agenda ∧ t.mem = s.mem) ∧
  (∀ (s : State) e, (∀ k, s.engineNext e = some k → k.started = true) →
    exec (.engineCommandStart e) s = .next (s.later (s.collWork e))) ∧
  (∀ s e k env out, (∀ q, e ≠ .moveLane q) → s.engineNext e = some k → s.cmd? k.id = some k → k.started = true → k.ended = false →
    k.walking = false → s.envOf k k.op.path (decide (k.op.path = 4)) out = some env → (∀ o ∈ s.bankOps, o.cmd ≠ k.id) →
    let r := runChunk s env (if k.op.path = 4 then k.bankItems k.chunk.1 else k.items s env k.chunk.1)
    let next := if k.chunk.2 = true ∨ r.status ≠ 0 then [.commandComplete e] else [.commandChunk e .none]
    (r.hold = none → Waits s k r (.commandChunk e out)) ∧
    (Acts s k r → k.op.path ≠ 4 → To (.commandChunk e out) s (ChunkDone k r (r.apply s.mem) k.chunk.2 next)) ∧
    (Acts s k r → k.op.path = 4 → To (.commandChunk e out) s fun t => ChunkDone k r s.mem k.chunk.2 next t ∧
      t.bankOps = (queueBankOps s k r).bankOps ∧ t.bankOps.map (fun o => o.key) =
        s.bankOps.map (fun o => o.key) ++ r.writes.reverse.map fun w => w.2.1.key)) ∧
  (∀ s q k env out, (s.matQueue q).find? (fun c => c.op.lane == some .move && c.started && !c.ended && !c.walking) = some k →
    s.cmd? k.id = some k → s.envOf k 2 false out = some env → readHeader s env k = none →
    let r := runChunk s env (moveItems s q k).1
    (r.hold = none → Waits s k r (.commandChunk (.moveLane q) out)) ∧
    (Acts s k r → To (.commandChunk (.moveLane q) out) s (ChunkDone k r (r.apply s.mem) (moveItems s q k).2
      (if (moveItems s q k).2 = true ∨ r.status ≠ 0 then [.matrixCommandComplete q .move] else [.commandChunk (.moveLane q) .none])))) ∧
  (∀ s e k, (s.engineQueue e).find? (·.ended) = some k → Ended s k → (∀ o ∈ s.bankOps, o.cmd ≠ k.id) → k.op ≠ .coll →
    (k.x.jnt = 31#5 → To (.commandComplete e) s fun t => Gone k t ∧ .engineCommandStart e ∈ t.agenda ∧ t.mem = s.mem ∧ t.teams = s.teams) ∧
    ∀ tm, k.x.jnt ≠ 31#5 → s.team? k.team = some tm → k.x.jnt.toNat < tm.joints.length →
      (tm.joint k.x.jnt.toNat).st = .open_ → (tm.joint k.x.jnt.toNat).arr + k.weight < (tm.joint k.x.jnt.toNat).n →
      To (.commandComplete e) s fun t => Gone k t ∧ .engineCommandStart e ∈ t.agenda ∧ ∃ u, t.team? k.team = some u ∧
        (u.joint k.x.jnt.toNat).arr = (tm.joint k.x.jnt.toNat).arr + k.weight ∧
        (u.joint k.x.jnt.toNat).out = (tm.joint k.x.jnt.toNat).out - 1 ∧ (u.joint k.x.jnt.toNat).st = .open_)

/-- R309, R313, R316, R318 to R322: BANK_OPERATION performs the first operation at its bank, an element operation or an atomic, by Op on
4 bytes; COLL_INSTANCE_COMPLETE ends the participants of an instance once all have issued, with COUNT where they disagree, with
ABORT where it is aborted, and with 0 where every access succeeds and its requests have been served; an integer sum is the sum of all contributions.
The order of the steps is the model's (log 1), as is the step in which an instance's accesses act (log 12). -/
def Obligations.BankAndCollectiveSteps : Prop :=
  (∀ s b o, s.bankHeld b = false → s.bankOps.find? (fun x => x.bank == b) = some o →
    (∀ r ∈ s.reqs, r.atBank s b = false) →
    To (.bankOperation b) s fun t => t.mem = memStore s.mem o.key 4 (bankApply o (memLoad s.mem o.key 4)).val ∧
      t.bankOps = s.bankOps.filter fun x => x.id != o.id) ∧
  (∀ s b r, s.bankHeld b = false → (∀ o ∈ s.bankOps, o.bank ≠ b) → s.reqs.find? (fun x => x.atBank s b && reqReady s x) = some r →
    To (.bankOperation b) s fun t => t.mem = (performReq s.mem r).mem) ∧
  (∀ o old, o.ty = .i32 ∨ o.ty = .u32 → o.value < 2 ^ 32 → o.exact = false →
    bankApply o old = match o.op with
      | 0 => narrow 32 (tySigned o.ty) o.sat (readInt 32 (tySigned o.ty) old + readInt 32 (tySigned o.ty) o.value)
      | 1 => Res.pure (wrapNat 32 (min (readInt 32 (tySigned o.ty) old) (readInt 32 (tySigned o.ty) o.value)))
      | 2 => Res.pure (wrapNat 32 (max (readInt 32 (tySigned o.ty) old) (readInt 32 (tySigned o.ty) o.value)))
      | 3 => Res.pure (old &&& o.value)
      | 4 => Res.pure (old ||| o.value)
      | 5 => Res.pure (old ^^^ o.value)
      | _ => Res.pure o.value) ∧
  (∀ s no i out, s.colls.find? (fun x => x.no == no) = some i → i.abort = false → i.done = false → i.scope ≠ 4 →
    let ks := collCmds s no
    let step := .collInstanceComplete no [] out
    collIssued s i ks [] = true → ks.all (collReady s) = true → (∀ k ∈ ks, k.walking = false) →
    (∀ k ∈ ks, ∃ v, collSource s k out = .ok v) →
    let ended := fun (status : Nat) (t : State) => ∀ k ∈ ks, Has t k.id fun c => c.ended = true ∧ c.status = status
    (collAgrees (collShares s ks [] out) = false → To step s (ended 8)) ∧
    (collAgrees (collShares s ks [] out) = true → (∀ k ∈ ks, ∃ v, collDest s k out = .ok v) →
      ((∃ k ∈ ks, s.pendingFor k = true) → exec step s = .next (s.retry step)) ∧
      ((∀ k ∈ ks, s.pendingFor k = false ∧ k.booked = true) → To step s (ended 0)))) ∧
  (∀ s no i remote out, s.colls.find? (fun x => x.no == no) = some i → i.abort = true →
    To (.collInstanceComplete no remote out) s fun t => ∀ k ∈ collCmds s no, Has t k.id fun c => c.ended = true ∧ c.status = 10) ∧
  (∀ vs : List Nat, vs ≠ [] → (∀ v ∈ vs, v < 2 ^ 32) → (collReduce 0 false .u32 vs).val = vs.sum % 2 ^ 32)

/-- R327, R330, R335, R338 to R340, R346, R347: MATRIX_COMMAND_START starts the next command of a lane when nothing holds it, TBURST at
once; MATRIX_SEQUENCER_STEP clears an accumulator for TZERO and adds 16 rows of a product; MATRIX_COMMAND_COMPLETE takes the command
out of the queue and returns its word 8 cycles later; TSTAT_RESULT the word of the unit; a burst held ready closes with BURST_HOLD_EXPIRY.
The keys of tile slots and accumulators are the model's (log 4); their times are not modelled (log 19). -/
def Obligations.MatrixSteps : Prop :=
  (∀ s q k, nextStart (s.matQueue q) .array = some k → mayStart (s.matQueue q) k = true → k.op ≠ .tburst →
    To (.matrixCommandStart q .array) s fun t => Has t k.id (·.started = true) ∧ .matrixSequencerStep q ∈ t.agenda ∧ t.mem = s.mem) ∧
  (∀ s q k, nextStart (s.matQueue q) .move = some k → mayStart (s.matQueue q) k = true →
    To (.matrixCommandStart q .move) s fun t => Has t k.id (·.started = true) ∧ .commandChunk (.moveLane q) .none ∈ t.agenda ∧ t.mem = s.mem) ∧
  (∀ s q k, q < s.quads.length → nextStart (s.matQueue q) .array = some k → mayStart (s.matQueue q) k = true → k.op = .tburst →
    To (.matrixCommandStart q .array) s fun t => (t.quad q).burst = min k.a.toNat 65535 ∧ Has t k.id (·.ended = true)) ∧
  (∀ s q k lane, nextStart (s.matQueue q) lane = some k → mayStart (s.matQueue q) k = false → exec (.matrixCommandStart q lane) s = .next s) ∧
  (∀ s q k, (s.matQueue q).find? (fun c => c.op.lane == some .array && c.started && !c.ended) = some k → s.cmd? k.id = some k →
    Canonical s → q < s.quads.length → (s.quad q).accs.length = 8 → k.x.x1.toNat < 8 →
    let a := k.x.x1.toNat
    (k.op = .tzero → To (.matrixSequencerStep q) s fun t => Has t k.id (·.ended = true) ∧
      (∀ i j, i < 64 → j < 64 → memLoad t.mem (accElemKey q a i j) 4 = 0) ∧
      (∀ b, b < accKey q a 0 ∨ accKey q (a + 1) 0 ≤ b → memRead t.mem b = memRead s.mem b) ∧
      (t.quad q).acc a = ⟨BitVec.ofNat 2 (k.x.sel.toNat + 1), 0#32, 0#7, ((s.quad q).acc a).holder⟩) ∧
    (k.op = .tmma ∨ k.op = .tmmas → To (.matrixSequencerStep q) s fun t =>
      (Has t k.id fun c => c.step = k.step + 1 ∧ c.ended = decide (3 ≤ k.step)) ∧
      (∀ i j, 16 * k.step ≤ i → i < 16 * k.step + 16 → i < 64 → j < 64 → memLoad t.mem (accElemKey q a i j) 4 =
        let ta := (s.quad q).slot k.x.x2.toNat
        (mmaElem ta.ty ta.scaled (memLoad s.mem (accElemKey q a i j) 4) (tileLine s.mem q k.x.x2.toNat ta i)
          (tileLine s.mem q k.x.x3.toNat ((s.quad q).slot k.x.x3.toNat) j)).val % 2 ^ 32) ∧
      (k.step ≤ 3 → ∀ b, b < accKey q a 0 ∨ accKey q (a + 1) 0 ≤ b → memRead t.mem b = memRead s.mem b))) ∧
  (∀ s q k lane, (s.matQueue q).find? (fun c => c.op.lane == some lane && c.ended) = some k → Ended s k → k.x.jnt = 31#5 →
    To (.matrixCommandComplete q lane) s fun t => GoneIn8 s k (completionWord 0 (matFlags s q k)) t ∧ .matrixCommandStart q lane ∈ t.agenda ∧ t.mem = s.mem ∧
      (lane = .array → q < s.quads.length → (t.quad q).burst =
        if k.op = .tmma ∨ k.op = .tmmas then (s.quad q).burst - 1 else (s.quad q).burst)) ∧
  (∀ s q k ks, s.matQueue q = k :: ks → k.op = .tstat →
    To (.tstatResult q) s fun t => GoneIn8 s k (tstatWord s q k) t ∧ t.mem = s.mem) ∧
  (∀ s q (k : Cmd),
    (k.x.sel = 0#4 → let a := (s.quad q).acc k.x.x1.toNat
      tstatWord s q k / 2 ^ 30 = a.mode.toNat ∧ tstatWord s q k / 2 ^ 23 % 128 = a.flags.toNat ∧
      tstatWord s q k % 2 ^ 23 = min a.cnt.toNat 0x7FFFFF) ∧
    (k.x.sel = 1#4 → let x := (s.quad q).slot k.x.x1.toNat
      tstatWord s q k / 2 ^ 31 = x.valid.toNat ∧ tstatWord s q k / 2 ^ 25 % 64 = x.fmt.toNat ∧
      tstatWord s q k / 2 ^ 23 % 4 = x.spc.toNat ∧ tstatWord s q k / 2 ^ 22 % 2 = x.scaled.toNat ∧ tstatWord s q k % 2 ^ 22 = 0)) ∧
  (∀ s q, q < s.quads.length → (s.quad q).ready.isSome = true →
    To (.burstHoldExpiry q) s fun t => t.quad q = { s.quad q with burst := 0, ready := none } ∧ t.mem = s.mem)

namespace Sys2Proof.Claims

/-- n bits of a number from bit `lo` of byte `byte` on. -/
def bitsAt (v byte lo n : Nat) : Nat := v / 2 ^ (8 * byte + lo) % 2 ^ n

/-- The context has ended with a reason (R375). -/
def EndedFor (ctx reason : Nat) (t : State) : Prop := ∃ d, t.context? ctx = some d ∧ d.ended = true ∧ d.reason = reason

/-- A gang that PREEMPT has taken out of its park (R28, R377). -/
def unparked (g : Gang) (cycle : Nat) : Gang :=
  match g.life with
  | .parked _ => { g with life := .ready, marker := false, nextIssue := max g.nextIssue (cycle + 1) }
  | _ => g
/-- A gang in its stow handler (R267, R378): the trap is PREEMPT, with the address of the frame; v0 to v3 are without marks. It counts as
sampled in the cycle after the one in which it would have issued, and its frame stands before its first instruction in its order. -/
def inStowHandler (g : Gang) (svec : DWord) (frame cycle : Nat) : Gang :=
  { trapped g svec 0#32 false g.minPc ⟨.preempt, BitVec.ofNat 64 frame, 0#32⟩ (max cycle g.nextIssue + 1) with
    regs := g.regs.mapIdx fun n r => if n < 4 then { r with mark := none } else r
    preempted := true, frame := BitVec.ofNat 64 frame, issued := g.issued + 1, entry := g.issued + 1, holds := [] }

/-- Requests that hold the n bytes of a number at a place: stores of a gang that come before everything it issues later. -/
def Holds (s : State) (g : Gang) (rs : List Req) (key n x : Nat) : Prop :=
  (∀ r ∈ rs, r.kind = .store ∧ r.gid = g.gid ∧ r.seq = g.issued ∧ r.acq = true ∧ r.who = 1425 ∧ r.cls = 6 ∧ r.served = false) ∧
  ∀ b, memRead (rs.foldl (fun m r => (performReq m r).mem) s.mem) b =
    if key ≤ b ∧ b < key + n then BitVec.ofNat 8 (x / 256 ^ (b - key)) else memRead s.mem b
/-- A gang whose park a pending PREEMPT does not end: a REGX's. -/
def inRegx (g : Gang) : Prop := ∃ j ph q l a, g.life = .parked (.regx j ph q l a)

end Sys2Proof.Claims

/-- R33, R270, R366, R373, R375, R377, R380: a context is created from its descriptor once the device has read it; a host's boundary
pre-emption stops the context's admission and its withdrawal lets it go on; its instruction pre-emption makes PREEMPT pending in every
gang of the team, which leaves its park outside a handler, and the area is that of SAVE, or the next one while an area is in use; a
tear-down ends the context: its gangs drain, its commands stop, its LAUNCHes at a port are dropped, the store of its fault record leaves,
with release.
FREC and descriptors as places in device memory and parts of pre-emption are the model's choices (log 8, log 10), as are the steps in which
the device's reads and stores are made (log 12). -/
def Obligations.ContextsAndRequests : Prop :=
  (∀ (s : State) ctx d, (∀ c ∈ s.contexts, c.id = ctx → c.ended = true) →
    Sends (.contextCreate ctx d) 0 (s.readReqs (dispatcherFor noCtx) .device 3 d 128) s ∧
    ∀ u, Served (.contextCreate ctx d) 0 s u → To (.contextCreate ctx d) s fun t =>
      t.context? ctx = some ⟨ctx, d, descriptorOf (s.devLoad (keyOf .device d) 128), false, 0, 0, 0, false⟩ ∧
      (∀ i, i ≠ ctx → t.context? i = s.context? i) ∧ t.mem = s.mem) ∧
  (∀ v, let d := descriptorOf v
    d.groot.toNat = bitsAt v 0 0 56 ∧ d.hroot.toNat = bitsAt v 8 0 56 ∧ d.tvec.toNat = bitsAt v 0x10 0 56 ∧
    d.svec.toNat = bitsAt v 0x18 0 56 ∧ d.rvec.toNat = bitsAt v 0x20 0 56 ∧ d.save.toNat = bitsAt v 0x28 0 56 ∧
    d.saveLen = bitsAt v 0x30 0 32 ∧ d.ythr = bitsAt v 0x34 16 16 ∧ d.vd = bitsAt v 0x34 10 6 ∧ d.pmode.toNat = bitsAt v 0x34 9 1 ∧
    d.cklog.toNat = bitsAt v 0x34 8 1 ∧ d.stowt = bitsAt v 0x34 0 8 ∧ d.rlim.toNat = bitsAt v 0x38 0 64 ∧
    d.htab.toNat = bitsAt v 0x40 0 56 ∧ d.elog.toNat = bitsAt v 0x48 0 56 ∧ d.frec.toNat = bitsAt v 0x50 0 56) ∧
  (∀ (s : State) ctx c ids, s.context? ctx = some c →
    To (.hostPreemptRequest ctx true ids) s fun t =>
      t.context? ctx = some { c with held := true } ∧ t.gangs = s.gangs ∧ t.teams = s.teams) ∧
  (∀ (s : State) ctx c, s.context? ctx = some c →
    To (.preemptRequestWithdrawn ctx) s fun t => t.context? ctx = some { c with held := false } ∧ .admissionStep ∈ t.agenda) ∧
  (∀ (s : State) ctx c tm, s.context? ctx = some c → s.teams = [tm] → tm.stowed = false → tm.preempt = false →
    s.gridIn ctx tm.grid = true → c.saveTop + s.resOf tm (s.kernelOfTeam tm) ≤ c.desc.saveLen →
    To (.hostPreemptRequest ctx false [tm.id]) s fun t => (∃ u, t.teams = [u] ∧ u.id = tm.id ∧ u.preempt = true ∧
        ((∃ g ∈ s.gangs, g.team = tm.id ∧ g.fromRestore = true ∧ g.life ≠ .draining) → u.area = c.saveTop) ∧
        ((∀ g ∈ s.gangs, g.team = tm.id → g.fromRestore = false) → u.area = 0)) ∧
      .engineStop tm.id ∈ t.agenda ∧ ∀ (n : Nat) (g : Gang), s.gangs[n]? = some g → ∃ h, t.gangs[n]? = some h ∧ h.regs = g.regs ∧
        h.lanes = g.lanes ∧ h.results = g.results ∧ (g.team ≠ tm.id → h = g) ∧ (g.team = tm.id → .preemptEntry g.gid ∈ t.agenda) ∧
        (g.team = tm.id → (g.life = .ready ∨ ∃ p, g.life = .parked p) →
          h.preempt = true ∧ (g.hnd = true → h.life = g.life) ∧ (g.hnd = false → ¬ inRegx g → h.life = .ready))) ∧
  (∀ (s : State) ctx c, Canonical s → s.context? ctx = some c → c.ended = false →
    To (.contextTeardown ctx) s fun t => EndedFor ctx 6 t ∧ .admissionStep ∈ t.agenda ∧ (∀ k ∈ t.cmds, k.ctx ≠ ctx) ∧ t.mem = s.mem ∧
      (let record := memLoad t.seen (keyOf .device c.desc.frec.toNat) 32
       bitsAt record 0 0 64 = 6 ∧ bitsAt record 8 0 32 = s.ns.toNat ∧ bitsAt record 0x10 0 64 = 0 ∧
         bitsAt record 0x18 0 32 = (c.dropped + s.launchesAt ctx) % 2 ^ 32) ∧
      (∃ rs, t.reqs = s.reqs ++ rs ∧ ∀ r ∈ rs, r.kind = .store ∧ r.rel = true) ∧
      (∀ p ∈ t.ports, ∀ g, s.gang? p.gid = some g → s.gangIn ctx g = false) ∧ ∀ (n : Nat) (g : Gang), s.gangs[n]? = some g →
        (s.gangIn ctx g = true → .gangFree g.gid ∈ t.agenda ∧ ∃ h, t.gangs[n]? = some h ∧ h.life = .draining ∧ h.regs = g.regs) ∧
        (s.gangIn ctx g = false → t.gangs[n]? = some g))

/-- R266, R378 to R382: PREEMPT_ENTRY puts the gang at the stow vector, the stores of its frame on their way before anything it issues there,
or, where the vector is 0, ends the context with NOVEC; ENGINE_STOP stops the commands of its gangs and, once every gang is STOWED, sends the
stores of the team header, with release; GANG_STOWED gives up the slot and the units; TEAM_RESTORE reads what was saved, places the team, takes
its joints from the header and starts each gang at the restore vector, or ends the context with BADSAVE.
Parts of pre-emption are the model's choices (log 10), as is the step in which a restore's reads are made (log 12). -/
def Obligations.PreemptionSteps : Prop :=
  (∀ (s : State) gid g tm c, s.gang? gid = some g → g.takesPreempt = true → (∀ p ∈ s.ports, p.gid ≠ gid) → s.midIssue gid = false →
    (∀ k ∈ s.cmds, k.gid ≠ gid) → s.team? g.team = some tm → s.contextOf g = some c →
    let f := frameOf c tm (s.kernelOfTeam tm) g
    (∀ p, g.frameWaits = false → c.desc.svec ≠ 0#64 → Canonical s → gid ≠ 0 → f % 65536 + 2048 ≤ 65536 → f < 2 ^ 64 →
      s.target c.desc 0 true f = .ok p → To (.preemptEntry gid) s fun t => t.mem = s.mem ∧ .engineStop tm.id ∈ t.agenda ∧
        t.gang? gid = some (inStowHandler (unparked g (s.cycleOf g.quad)) c.desc.svec f (s.cycleOf g.quad)) ∧
        ∃ rs, t.reqs = s.reqs ++ rs ∧ Holds s g rs (keyOf p.space p.addr) 2048 (s.frameBits g)) ∧
    (c.desc.svec = 0#64 → c.ended = false → To (.preemptEntry gid) s fun t => EndedFor c.id 1 t ∧ t.mem = s.mem)) ∧
  (∀ (s : State) (g : Gang), let v := s.frameBits g
    (∀ l < 32, bitsAt v (8 * l) 0 64 = (g.lane l).pc.toNat % 2 ^ 56) ∧ (∀ n < 7, bitsAt v (0x180 + 4 * n) 0 32 = (g.preds.getD n 0#32).toNat) ∧
    bitsAt v 0x1A0 0 32 = g.live.toNat ∧ bitsAt v 0x1AC 0 32 = g.status.toNat ∧ bitsAt v 0x1C0 0 64 = g.ck.toNat ∧
    bitsAt v 0x1C8 0 64 = g.cause.toNat ∧ bitsAt v 0x1D0 0 64 = g.epc.toNat ∧ bitsAt v 0x1D8 0 64 = g.tval.toNat ∧
    bitsAt v 0x1E0 0 32 = g.tmask.toNat ∧ (∀ n < 8, ∀ l < 32, bitsAt v (0x200 + 64 * n + 2 * l) 0 16 = (g.kreg n l).toNat) ∧
    ∀ n < 4, bitsAt v (0x500 + 160 * n) 0 1280 = imageBits n (g.reg n) % 2 ^ 1280) ∧
  (∀ (s : State) tm c x g, s.team? tm.id = some tm → s.teamContext tm = some c → s.grid? tm.grid = some x → tm.stowed = false →
    g ∈ s.gangs → g.team = tm.id → g.takesPreempt = true →
    To (.engineStop tm.id) s fun t => t.mem = s.mem ∧ ∀ (n : Nat) (k : Cmd), s.cmds[n]? = some k → ∃ h, t.cmds[n]? = some h ∧ h.id = k.id ∧
      (k.gid = g.gid → k.ended = false → k.op ≠ .coll → h.kept = true)) ∧
  (∀ (s : State) tm c x s1, s.team? tm.id = some tm → s.teamContext tm = some c → s.grid? tm.grid = some x → tm.stowed = false →
    (∃ g ∈ s.gangs, g.team = tm.id) → (∀ g ∈ s.gangs, g.team = tm.id → g.life = .stowed) → (∀ k ∈ s.cmds, k.team = tm.id → k.kept = false) →
    s.vstore { dispatcherFor c.id with team := tm.id } true c.desc 0 (c.desc.save.toNat + tm.area) 512 (teamHeader x tm tm.records.length)
      = .ok s1 →
    To (.engineStop tm.id) s fun t => t.mem = s.mem ∧ t.reqs = s1.reqs ∧ .admissionStep ∈ t.agenda ∧
      t.team? tm.id = some { tm with stowed := true, preempt := false, blocks := [], race := [] }) ∧
  (∀ (s : State) gid g, s.gang? gid = some g → g.life = .stowing → (∀ r ∈ s.reqs, r.gid = gid → r.kind = .account) →
    (∀ k ∈ s.cmds, k.gid ≠ gid) →
    To (.gangStowed gid) s fun t => t.mem = s.mem ∧ .engineStop g.team ∈ t.agenda ∧
      t.gang? gid = some { g with life := .stowed, quad := 2 ^ 16, results := g.results.filter (·.held), admitted := g.clockAt (s.cycleOf g.quad) } ∧
      (∀ x ∈ (t.quad g.quad).slots, x.holder ≠ some g.slot) ∧ ∀ x ∈ (t.quad g.quad).accs, x.holder ≠ some g.slot) ∧
  (∀ (s : State) gid g r, s.gang? gid = some g → r ∈ s.reqs → r.gid = gid → r.kind ≠ .account → exec (.gangStowed gid) s = .next s) ∧
  (∀ (s : State) tm c x g, s.team? tm.id = some tm → s.teamContext tm = some c → s.grid? tm.grid = some x →
    tm.stowed = true → c.ended = false → s.gangsOf tm.id = [g] → tm.records = [] →
    Sends (.teamRestore tm.id) 0 (s.readReqs { dispatcherFor c.id with team := tm.id } .device (dispatcherFor c.id).own c.where_ 128 ++
      s.vreadReqs { dispatcherFor c.id with team := tm.id } c.desc 0 (c.desc.save.toNat + tm.area) 512 ++
      s.vreadReqs { dispatcherFor c.id with team := tm.id } c.desc 0 (frameOf c tm x.kernel g) 2048) s) ∧
  (∀ (s : State) u tm c x g v header joints cores, s.team? tm.id = some tm → s.teamContext tm = some c → s.grid? tm.grid = some x →
    tm.stowed = true → c.ended = false → s.gangsOf tm.id = [g] → s.gang? g.gid = some g → tm.records = [] → tm.late = [] →
    Served (.teamRestore tm.id) 0 s u →
    (∀ d ∈ s.contexts, d.id = c.id → d.desc = descriptorOf (s.devLoad (keyOf .device c.where_) 128)) →
    s.vload c.desc 0 (frameOf c tm x.kernel g) 2048 = .ok v → s.restorePlace tm x [(g, v)] (s.room x.vd) = some cores →
    c.desc.rvec ≠ 0#64 → s.vload c.desc 0 (c.desc.save.toNat + tm.area) 512 = .ok header → jointsFrom header tm = some joints →
    (headerFits header x tm = true → frameBad v x.kernel = false → To (.teamRestore tm.id) s fun t => t.mem = s.mem ∧
      (∃ u, t.team? tm.id = some u ∧ u.cores = cores ∧ u.joints = joints ∧ u.stowed = false ∧ u.size = tm.size) ∧
      ∃ h, t.gang? g.gid = some h ∧ h.life = .ready ∧ h.quad = quadFor cores g.gidx ∧ h.hnd = true ∧ h.fromRestore = true ∧
        h.status.toNat = bitsAt v 0x1AC 0 7 ∧ h.ck.toNat = bitsAt v 0x1C0 0 64 ∧ h.tval = BitVec.ofNat 64 (frameOf c tm x.kernel g) ∧
        ∀ l < 32, (h.lane l).live = decide (bitsAt v 0x1A0 l 1 = 1) ∧ (h.lane l).pc = c.desc.rvec ∧
          ((h.shadow.lanes.getD l (h.lane l)).pc.toNat = bitsAt v (8 * l) 0 56)) ∧
    (frameBad v x.kernel = true → To (.teamRestore tm.id) s (EndedFor c.id 4)))

namespace Sys2Proof.Claims

/-- MISS of a requester (R391). -/
def missOf (s : State) (who : Nat) : Word := ((s.miss.find? fun m => m.1 == who).map (·.2)).getD 0#32
/-- Stamp a is earlier than stamp b (R389). -/
def isEarlier (a b : Nat) : Prop := ∃ d, 1 ≤ d ∧ d ≤ 2 ^ 15 - 1 ∧ (a + d) % 2 ^ 16 = b % 2 ^ 16

/-- No refresh of the channel is due (R390). -/
def NoRefresh (s : State) (c : Nat) : Prop := ∀ w, .rowRefresh c w ∉ s.agenda

end Sys2Proof.Claims

/-- R389 to R394: MEMORY_REQUEST performs a request of its channel, of the lowest class present, behind the refreshes that are due, and
counts in MISS one whose stamp has passed; an uncorrectable error in data of a context's page ends the context with ABORT, and the line
stays bad; a row whose counter fails its check bits is watched with the weight 8,191. ROW_REFRESH resets the counter of its row.
The rows of places are free (log 3), parts of the service the model's choices (log 13). -/
def Obligations.ControllersServe : Prop :=
  (∀ (s : State) r, s.reqs = [r] → r.served = false → r.space = .device → r.kind ≠ .account → s.repairs = [] → s.mend.act = false →
    s.badLines = [] → NoRefresh s r.channel →
    To (.memoryRequest r.channel none) s fun t => t.mem = (performReq s.mem r).mem ∧ t.reqs = [{ r with served := true }] ∧
      (isEarlier r.stamp (s.timeNs / 64) → missOf t r.who = missOf s r.who + 1) ∧
      (¬ isEarlier r.stamp (s.timeNs / 64) → missOf t r.who = missOf s r.who) ∧ ∀ w, w ≠ r.who → missOf t w = missOf s w) ∧
  (∀ (s : State) c r, s.nextReq c = some r → r ∈ s.reqs ∧ s.servable c r = true ∧ ∀ q ∈ s.reqs, s.servable c q = true → r.cls ≤ q.cls) ∧
  (∀ (s : State) c r w f, s.nextReq c = some r → .rowRefresh c w ∈ s.agenda →
    exec (.memoryRequest c f) s = .next (s.later [.memoryRequest c f])) ∧
  (∀ (s : State) r c a rest (f : LineFault), s.reqs = [r] → r.served = false → r.space = .device → r.kind = .load → s.repairs = [] →
    s.badLines = [] → NoRefresh s r.channel → f.counter = false → f.replicaReads = false → f.cleanCopy = false → r.accs = a :: rest →
    0 < r.width → r.own = 0 → r.forNoOne = false → s.context? r.ctx = some c → c.ended = false →
    To (.memoryRequest r.channel (some f)) s fun t => EndedFor r.ctx 5 t ∧ a.key / 64 ∈ t.badLines ∧
      ∀ q ∈ t.reqs, q.gid = 0 ∧ q.kind = .store) ∧
  (∀ (s : State) r (f : LineFault), s.reqs = [r] → r.served = false → r.space = .device → r.kind ≠ .account → s.repairs = [] →
    s.mend.act = false → s.badLines = [] → NoRefresh s r.channel → s.rows = [] → f.counter = true →
    To (.memoryRequest r.channel (some f)) s fun t => t.mem = (performReq s.mem r).mem ∧ t.rows = [⟨r.channel, s.reqRow r, 8191, true⟩] ∧
      (s.devLog.elen ≠ 0#32 → t.devLog.eidx = s.devLog.eidx + 1)) ∧
  (∀ (s : State) c w, To (.rowRefresh c w) s fun t => t.mem = s.mem ∧
    ∀ x, x ∈ t.rows ↔ x ∈ s.rows ∧ ¬ (x.channel = c ∧ x.row = w))

/-- R396 to R398: a GO is refused, or lowers `$memcap` by 64 GiB and discards the data above it; each granule from the highest to 0
becomes MOVING once no write to it is under way, is copied by requests of class 7, and commits; with granule 0 the pass ends and the stack
is gone. -/
def Sys2Proof.Claims.MendingPass : Prop :=
  (∀ (s : State) k, s.mend.act = true ∨ k ∉ s.hbm ∨ s.hbm.length ≤ 1 →
    exec (.mendGo k) s = .next { s with mend := { s.mend with refused := true } }) ∧
  (∀ (s : State) k, Canonical s → s.mend.act = false → k ∈ s.hbm → 1 < s.hbm.length →
    let cap := (s.hbm.length - 1) * 2 ^ 36
    To (.mendGo k) s fun t => t.memcap = cap ∧ t.mend = ⟨s.mend.phase + 1, true, s.mend.refused, cap / 65536 - 1, false, k⟩ ∧
      .granuleMoving ∈ t.agenda ∧ ∀ a, memRead t.mem a = if cap ≤ a ∧ a < 2 ^ 64 then 0#8 else memRead s.mem a) ∧
  (∀ (s : State), s.mend.act = true → s.mend.moving = false → (∀ r ∈ s.reqs, r.served = true ∨ r.space ≠ .device ∨ r.kind = .load) →
    To .granuleMoving s fun t => t.mend = { s.mend with moving := true } ∧ .granuleCommit ∈ t.agenda ∧ t.mem = s.mem) ∧
  (∀ (s : State) r a, s.mend.act = true → s.mend.moving = false → r ∈ s.reqs → r.served = false → r.space = .device → r.kind = .store →
    a ∈ r.accs → a.key / 65536 = s.mend.next → exec .granuleMoving s = .next (s.retry .granuleMoving)) ∧
  (∀ (s : State), s.mend.act = true → s.mend.moving = true → Sends .granuleCommit 0 s.granuleCopies s ∧ s.granuleCopies.length = 512 ∧
    ∀ r ∈ s.granuleCopies, r.cls = 7 ∧ r.space = .device ∧ r.kind = .account ∧ ∀ a ∈ r.accs, a.key / 65536 = s.mend.next) ∧
  (∀ (s : State) u, s.mend.act = true → s.mend.moving = true → Served .granuleCommit 0 s u →
    To .granuleCommit s fun t => t.mem = s.mem ∧
      (s.mend.next ≠ 0 → t.mend = { s.mend with next := s.mend.next - 1, moving := false } ∧ t.hbm = s.hbm ∧ .granuleMoving ∈ t.agenda) ∧
      (s.mend.next = 0 → t.mend.act = false ∧ t.hbm = s.hbm.filter fun k => k != s.mend.stack) ∧
      ∀ (n : Nat) (g : Gang) (r : Nat), s.gangs[n]? = some g → g.life = .parked (.moving r) → g.marker = false →
        ∃ h, t.gangs[n]? = some h ∧ h.life = .ready)

/-- R400: the repairs. A spare takes a core's number where no team is resident and a spare is free; a bank is held from its repair's
start to REPAIR_COMPLETE; a retired channel is reported. -/
def Sys2Proof.Claims.RepairsHoldTheirUnits : Prop :=
  (∀ (s : State) c, (∃ t ∈ s.teams, t.stowed = false ∧ c ∈ t.cores) →
    exec (.coreSpare c) s = .next { s with msgs := s.msgs ++ [.repaired false] }) ∧
  (∀ (s : State) c, (∀ t ∈ s.teams, t.stowed = false → c ∉ t.cores) →
    (0 < s.spares.getD (c / 48) 0 → To (.coreSpare c) s fun t => t.spares.getD (c / 48) 0 + 1 = s.spares.getD (c / 48) 0 ∧
      t.repairs = s.repairs ++ [.core c] ∧ ∀ v q, q / 4 = c → t.hasQuad v q = false) ∧
    (s.spares.getD (c / 48) 0 = 0 → To (.coreSpare c) s fun t => t.msgs = s.msgs ++ [.repaired false] ∧
      ∀ v q, q / 4 = c → t.hasQuad v q = false)) ∧
  (∀ (s : State) c w, To (.rowRepair c w) s fun t => t.repairs = s.repairs ++ [.row c w] ∧ t.mem = s.mem ∧
    ∀ r ∈ t.reqs, r.channel = c → t.channelOf r.space r.addr = c →
      Config.bankOfRow c w = Config.bankOfRow c (t.rowOf r.space r.addr) → t.nextReq c ≠ some r) ∧
  (∀ (s : State) b k, k < 64 → To (.bankSpare b k) s fun t => t.repairs = s.repairs ++ [.bank b k] ∧ t.mem = s.mem ∧
    To (.bankOperation (64 * b + k)) t fun u => u.mem = t.mem ∧ u.bankOps = t.bankOps) ∧
  (∀ (s : State) k, To (.channelRetire k) s fun t => k ∈ t.tier2Gone ∧ t.msgs = s.msgs ++ [.repaired true]) ∧
  (∀ (s : State) i r, s.repairs[i]? = some r → To (.repairComplete i) s fun t =>
    t.repairs = s.repairs.eraseIdx i ∧ t.msgs = s.msgs ++ [.repaired true] ∧ t.mem = s.mem)

/-- R396 to R398, R400: the mending pass and the other repairs.
Parts of the repairs are the model's choices (log 13). -/
def Obligations.MendingAndRepairs : Prop := Claims.MendingPass ∧ Claims.RepairsHoldTheirUnits

namespace Sys2Proof.Claims

/-- Stores that, once they are performed, leave the bytes at a key and no other byte changed. -/
def StoreBytes (s : State) (rs : List Req) (key : Nat) (bs : List Byte) : Prop :=
  (∀ r ∈ rs, r.kind = .store ∧ r.served = false) ∧ ∀ b, memRead (rs.foldl (fun m r => (performReq m r).mem) s.mem) b =
    if key ≤ b ∧ b < key + bs.length then bs.getD (b - key) 0#8 else memRead s.mem b
/-- A request to the far tier has waited longer than FTO + 1 ms (R403). -/
def Late (s : State) (r : Req) : Prop := r.space = .far ∧ r.served = false ∧ r.sent + 1000 * (s.link.fto.toNat + 1) < s.uc.toNat

end Sys2Proof.Claims

/-- R111, R389, R391, R393, R394, R399, R402, R403: HOST_MEM_ACCESS sends requests of class 3 that read or write device memory in the host's
window, and answers once they are performed, with an error where a line could not be read; beyond `$memcap` a read gives all ones and a
write is an error, as is a write to a sealed granule. The far tier goes down by FAR_TIMEOUT, when a request has waited longer than FTO and 1 ms,
or LINK_DOWN: requests to it come to nothing, their loads with the reason; RESUME brings it back while the link is up.
Parts of the host's accesses are the model's choices (log 13). -/
def Obligations.HostLinkSteps : Prop :=
  (∀ (s : State) dpa n, s.waitOf (.hostMemAccess (.read dpa n)) 0 = none → s.inWindow dpa n = true →
    (dpa + n ≤ s.memcap → s.hostHeld = false → Sends (.hostMemAccess (.read dpa n)) 0 (s.readReqs hostSource .device 3 dpa n) s) ∧
    (dpa + n ≤ s.memcap → s.hostHeld = true → exec (.hostMemAccess (.read dpa n)) s = .next (s.retry (.hostMemAccess (.read dpa n)))) ∧
    (s.memcap < dpa + n → To (.hostMemAccess (.read dpa n)) s fun t => t.mem = s.mem ∧
      t.msgs = s.msgs ++ [.hostData (List.replicate n 0xFF#8) true] ∧ t.link.herrs.toNat = min (s.link.herrs.toNat + 1) 0xFFFF)) ∧
  (∀ (s : State) u dpa n, Served (.hostMemAccess (.read dpa n)) 0 s u → exec (.hostMemAccess (.read dpa n)) s =
    .next { u with msgs := u.msgs ++ [.hostData ((List.range n).map fun i => memRead s.mem (dpa + i))
      (s.awaitsBad (.hostMemAccess (.read dpa n)) 0)] }) ∧
  (∀ (s : State) dpa (bs : List Byte), bs ≠ [] → s.waitOf (.hostMemAccess (.write dpa bs)) 0 = none → s.inWindow dpa bs.length = true →
    dpa + bs.length ≤ s.memcap → s.sealed = [] → s.hostHeld = false → Canonical s → ∃ rs, StoreBytes s rs dpa bs ∧
      (∀ r ∈ rs, r.who = 1424 ∧ r.cls = 3 ∧ r.stamp = (s.now64 + 64) % 2 ^ 16) ∧ Sends (.hostMemAccess (.write dpa bs)) 0 rs s) ∧
  (∀ (s : State) u dpa (bs : List Byte), Served (.hostMemAccess (.write dpa bs)) 0 s u →
    (s.awaitsBad (.hostMemAccess (.write dpa bs)) 0 = false →
      exec (.hostMemAccess (.write dpa bs)) s = .next { u with msgs := u.msgs ++ [.hostDone false] }) ∧
    (s.awaitsBad (.hostMemAccess (.write dpa bs)) 0 = true → To (.hostMemAccess (.write dpa bs)) s fun t =>
      t.mem = s.mem ∧ t.msgs = s.msgs ++ [.hostDone true] ∧ t.link.herrs.toNat = min (s.link.herrs.toNat + 1) 0xFFFF)) ∧
  (∀ (s : State) dpa (bs : List Byte), s.waitOf (.hostMemAccess (.write dpa bs)) 0 = none → s.inWindow dpa bs.length = true →
    s.memcap < dpa + bs.length ∨ dpa / 65536 ∈ s.sealed →
    To (.hostMemAccess (.write dpa bs)) s fun t => t.mem = s.mem ∧ t.msgs = s.msgs ++ [.hostDone true]) ∧
  (∀ (s : State) a, s.waitOf (.hostMemAccess a) 0 = none →
    s.inWindow (match a with | .read d _ | .write d _ => d) (match a with | .read _ n => n | .write _ b => b.length) = false →
    exec (.hostMemAccess a) s = .next s) ∧
  (∀ (s : State), (∀ r ∈ s.reqs, ¬ Late s r) → exec .farTimeout s = .next s) ∧
  (∀ (s : State), (∃ r ∈ s.reqs, Late s r) → To .farTimeout s fun t => (∀ r ∈ t.reqs, r.space ≠ .far) ∧
    t.link = { s.link with farDown := true, cause := if s.link.farDown then s.link.cause else 1#2 }) ∧
  (∀ (s : State), To .linkDown s fun t => (∀ r ∈ t.reqs, r.space ≠ .far) ∧
    t.link = { s.link with up := false, farDown := true, cause := if s.link.farDown then s.link.cause else 2#2 }) ∧
  (∀ (s : State) r g, s.reqs = [r] → Late s r → r.kind = .load → s.gang? r.gid = some g →
    To .farTimeout s fun t => ∃ h, t.gang? r.gid = some h ∧ .variableResultReturn r.gid r.seq none ∈ t.agenda ∧
      ∀ (n : Nat) (x : Result), g.results[n]? = some x → x.seq = r.seq → x.err = none → ∃ y, h.results[n]? = some y ∧
        y.err = some ⟨x.pc, 2#8, Lanes.of fun l => r.accs.any fun a => a.lane == l, x.seq⟩) ∧
  (∀ (s : State), exec .linkUp s = .next { s with link := { s.link with up := true } }) ∧
  (∀ (s : State), exec .resume s = .next { s with link := { s.link with farDown := s.link.farDown && !s.link.up } })

namespace Sys2Proof.Claims

/-- A port of the fabric changes, and no other. -/
def PortIs (s t : State) (p : Nat) (x : FabricPort) : Prop := t.fabric[p]? = some x ∧ ∀ o, o ≠ p → t.fabric[o]? = s.fabric[o]?

/-- The key of the first byte that a peer's address names: bit 55 selects common memory (R404). -/
def peerKey (a : BitVec 56) : Nat := if a.toNat < 2 ^ 55 then a.toNat else 2 * 2 ^ 64 + (a.toNat - 2 ^ 55)
/-- n bytes from a peer's address on exist: below `$memcap`, or in the addressable part of the common store (R307, R404). -/
def PlaceExists (s : State) (a : BitVec 56) (n : Nat) : Prop :=
  if a.toNat < 2 ^ 55 then a.toNat + n ≤ s.memcap else a.toNat - 2 ^ 55 + n ≤ s.variant.bays * (s.cstore.abanks * 131072)
/-- Memory after n bytes at a key are written: no other byte changes. -/
def Only (s t : State) (key n : Nat) : Prop := ∀ b, b < key ∨ key + n ≤ b → memRead t.mem b = memRead s.mem b
/-- The n bytes at a key. -/
def bytesAt (s : State) (key n : Nat) : List Byte := (List.range n).map fun i => memRead s.mem (key + i)
/-- A type and an operation that an atomic may have (R217). -/
def atomicKind (ty : Ty) (aop : BitVec 3) : Prop :=
  ty = .i32 ∨ ty = .u32 ∨ ty = .i64 ∨ ty = .u64 ∨ (ty = .f32 ∧ aop.toNat ≤ 2) ∨ (ty = .res28 ∧ aop = 0#3)
/-- A type and an operation that a bank operation may have (R313). -/
def combineKind (ty : Ty) (op : BitVec 3) : Prop :=
  ((ty = .i32 ∨ ty = .u32) ∧ op.toNat ≤ 6) ∨ ((ty = .f32 ∨ ty = .bf16x2) ∧ (op.toNat ≤ 2 ∨ op = 6#3)) ∨ (ty = .res28 ∧ (op = 0#3 ∨ op = 6#3))
/-- The space that a peer's address names. -/
def peerSpace (a : BitVec 56) : Space := if a.toNat < 2 ^ 55 then .device else .common

/-- R13, R394, R404: what becomes of a request of a peer: one that is not enabled, that names a place that does not exist, or an atomic or
K-path operation that is misaligned or of no type, is refused; else its requests go to the controllers, and once they are served a read answers the
bytes, a write is done, an atomic applies its operation and answers the old value, a K-path operation combines as a bank does. -/
def PeerRequests : Prop :=
  (∀ (s : State) peer op, s.waitOf (.fabricRequest peer op) 0 = none → peer ∉ s.peersOn → exec (.fabricRequest peer op) s = .next { s with msgs := s.msgs ++ [.peerRefused peer] }) ∧
  (∀ (s : State) peer a n (bs : List Byte), (∀ w ∈ s.waits, ∀ op, w.step ≠ .fabricRequest peer op) → (¬ PlaceExists s a n → exec (.fabricRequest peer (.read a n)) s =
      .next { s with msgs := s.msgs ++ [.peerRefused peer] }) ∧
    (¬ PlaceExists s a bs.length → exec (.fabricRequest peer (.write a bs)) s = .next { s with msgs := s.msgs ++ [.peerRefused peer] })) ∧
  (∀ (s : State) peer a ty aop v w, s.waitOf (.fabricRequest peer (.atomic a ty aop v w)) 0 = none → ¬ PlaceExists s a (accWidth ty) ∨ a.toNat % accWidth ty ≠ 0 ∨ ¬ atomicKind ty aop →
    exec (.fabricRequest peer (.atomic a ty aop v w)) s = .next { s with msgs := s.msgs ++ [.peerRefused peer] }) ∧
  (∀ (s : State) peer a ty op sat rnd v, s.waitOf (.fabricRequest peer (.combine a ty op sat rnd v)) 0 = none →
    ¬ PlaceExists s a 4 ∨ a.toNat % 4 ≠ 0 ∨ ¬ combineKind ty op →
    exec (.fabricRequest peer (.combine a ty op sat rnd v)) s = .next { s with msgs := s.msgs ++ [.peerRefused peer] }) ∧
  (∀ (s : State) peer a n, peer ∈ s.peersOn → PlaceExists s a n →
    Sends (.fabricRequest peer (.read a n)) 0 (s.readReqs peerSource (peerSpace a) 3 (a.toNat % 2 ^ 55) n) s) ∧
  (∀ (s : State) u peer a n, Served (.fabricRequest peer (.read a n)) 0 s u → exec (.fabricRequest peer (.read a n)) s =
    .next { u with msgs := u.msgs ++ [.peerData peer (bytesAt s (peerKey a) n) (s.awaitsBad (.fabricRequest peer (.read a n)) 0)] }) ∧
  (∀ (s : State) peer a (bs : List Byte), bs ≠ [] → peer ∈ s.peersOn → PlaceExists s a bs.length → s.sealed = [] → Canonical s →
    ∃ rs, StoreBytes s rs (peerKey a) bs ∧ Sends (.fabricRequest peer (.write a bs)) 0 rs s) ∧
  (∀ (s : State) u peer a (bs : List Byte), Served (.fabricRequest peer (.write a bs)) 0 s u → exec (.fabricRequest peer (.write a bs)) s =
    .next { u with msgs := u.msgs ++ [if s.awaitsBad (.fabricRequest peer (.write a bs)) 0 then .peerRefused peer else .peerDone peer] }) ∧
  (∀ (s : State) peer a (bs : List Byte), s.waitOf (.fabricRequest peer (.write a bs)) 0 = none → peer ∈ s.peersOn → a.toNat < 2 ^ 55 → a.toNat / 65536 ∈ s.sealed →
    exec (.fabricRequest peer (.write a bs)) s = .next { s with msgs := s.msgs ++ [.peerRefused peer] }) ∧
  (∀ (s : State) peer a ty aop (v w : DWord), peer ∈ s.peersOn → PlaceExists s a (accWidth ty) → a.toNat % accWidth ty = 0 →
    atomicKind ty aop → s.sealed = [] →
    Sends (.fabricRequest peer (.atomic a ty aop v w)) 0 (s.readReqs peerSource (peerSpace a) 3 (a.toNat % 2 ^ 55) (accWidth ty)) s) ∧
  (∀ (s : State) u peer a ty aop (v w : DWord), Served (.fabricRequest peer (.atomic a ty aop v w)) 0 s u → s.repairs = [] → Canonical s →
    s.awaitsBad (.fabricRequest peer (.atomic a ty aop v w)) 0 = false →
    let n := accWidth ty
    To (.fabricRequest peer (.atomic a ty aop v w)) s fun t => memLoad t.mem (peerKey a) n =
        (atomicOp ty aop.toNat (memLoad s.mem (peerKey a) n) (v.toNat % 2 ^ (8 * n)) (w.toNat % 2 ^ (8 * n))).val % 2 ^ (8 * n) ∧
      Only s t (peerKey a) n ∧ t.msgs = s.msgs ++ [.peerData peer (bytesAt s (peerKey a) n) false]) ∧
  (∀ (s : State) u peer a ty op sat rnd v, Served (.fabricRequest peer (.combine a ty op sat rnd v)) 0 s u → s.repairs = [] → Canonical s →
    s.awaitsBad (.fabricRequest peer (.combine a ty op sat rnd v)) 0 = false →
    let r := bankApply (peerBankOp (peerKey a) ty op sat rnd v) (memLoad s.mem (peerKey a) 4)
    To (.fabricRequest peer (.combine a ty op sat rnd v)) s fun t => memLoad t.mem (peerKey a) 4 = r.val % 2 ^ 32 ∧ Only s t (peerKey a) 4 ∧
      t.msgs = s.msgs ++ [.peerCombined peer r.flags]) ∧
  ∀ old v c, old < 2 ^ 32 → v < 2 ^ 32 → (atomicOp .u32 0 old v c).val = (old + v) % 2 ^ 32

/-- R14, R322, R405: a lane that fails holds its port until its lanes are halved: from four to two, one and none; with the last lane of the last
port to a peer, or with the last one that goes to Ethernet mode, every request to that peer has come to nothing. -/
def PortsChange : Prop :=
  (∀ (s : State) p x, s.fabric[p]? = some x → 0 < x.lanes → x.changing = false →
    exec (.fabricLaneFail p) s = .next { s with
      fabric := s.fabric.set p { x with changing := true }, agenda := s.agenda ++ [.portDegradeComplete p] }) ∧
  (∀ (s : State) p, (∀ x, s.fabric[p]? = some x → x.lanes = 0 ∨ x.changing = true) → exec (.fabricLaneFail p) s = .next s) ∧
  (∀ (s : State) p x, s.fabric[p]? = some x → x.changing = true →
    To (.portDegradeComplete p) s fun t => PortIs s t p { x with changing := false, lanes := x.lanes / 2 } ∧
      (x.lanes = 4 → t.fabric[p]? = some { x with changing := false, lanes := 2 }) ∧
      (x.lanes = 2 → t.fabric[p]? = some { x with changing := false, lanes := 1 }) ∧
      (x.lanes = 1 → t.fabric[p]? = some { x with changing := false, lanes := 0 }) ∧
      ∀ id, x.lanes ≤ 1 → Config.portPeer p = some id →
        (∀ o y, o ≠ p → s.fabric[o]? = some y → Config.portPeer o = some id → y.lanes = 0 ∨ y.ethernet = true) →
        ∀ r ∈ t.reqs, r.space ≠ .peer id) ∧
  (∀ (s : State) p, (∀ x, s.fabric[p]? = some x → x.changing = false) → exec (.portDegradeComplete p) s = .next s) ∧
  (∀ (s : State) p x e, p ∈ [0, 1, 18, 19] → s.variant.portFitted p = true → s.fabric[p]? = some x → (e = true → s.variant.ethin = true) →
    To (.portModeRequest p e) s fun t => PortIs s t p { x with ethernet := e } ∧ t.msgs = s.msgs ++ [.portMode p true] ∧
      ∀ id, e = true → Config.portPeer p = some id →
        (∀ o y, o ≠ p → s.fabric[o]? = some y → Config.portPeer o = some id → y.lanes = 0 ∨ y.ethernet = true) →
        ∀ r ∈ t.reqs, r.space ≠ .peer id) ∧
  (∀ (s : State) p e, p ∉ [0, 1, 18, 19] ∨ s.variant.portFitted p = false ∨ (e = true ∧ s.variant.ethin = false) →
    exec (.portModeRequest p e) s = .next { s with msgs := s.msgs ++ [.portMode p false] })

/-- R13, R307: the store of an entry of the host stage leaves, and once it is performed walks that wait look again; a leaf to a second tier
that is not fitted, or to common addresses above the range, is refused. -/
def MappingsAreWritten : Prop :=
  (∀ (s : State) l e (v : DWord), s.waitOf (.mappingRequest l e v) 0 = none → s.mappingRefused l v = true →
    exec (.mappingRequest l e v) s = .next { s with msgs := s.msgs ++ [.mapping false] }) ∧
  (∀ (s : State) l e (v : DWord), s.waitOf (.mappingRequest l e v) 0 = none → s.mappingRefused l v = false → Canonical s →
    ∃ rs, Sends (.mappingRequest l e v) 0 rs s ∧ memLoad (rs.foldl (fun m r => (performReq m r).mem) s.mem) e 8 = v.toNat ∧
      ∀ b, b < e ∨ e + 8 ≤ b → memRead (rs.foldl (fun m r => (performReq m r).mem) s.mem) b = memRead s.mem b) ∧
  (∀ (s : State) u l e (v : DWord), Served (.mappingRequest l e v) 0 s u →
    To (.mappingRequest l e v) s fun t => t.msgs = s.msgs ++ [.mapping (!s.awaitsBad (.mappingRequest l e v) 0)] ∧ t.mem = s.mem ∧
      ∀ g ∈ s.gangs, g.life = .parked .walk → .pageWalkComplete g.gid ∈ t.agenda) ∧
  (∀ (s : State) l (v : DWord), l = 0 ∨ v.getLsbD 0 = false ∨ v.getLsbD 1 = false → s.mappingRefused l v = false) ∧
  (∀ (s : State) l (v : DWord), l ≠ 0 → v.getLsbD 0 = true → v.getLsbD 1 = true →
    (v.extractLsb' 8 3 = 1#3 → s.mappingRefused l v = !s.variant.tier2) ∧
    (v.extractLsb' 8 3 = 2#3 → let a := (v.extractLsb' 12 44).toNat * 4096
      s.mappingRefused l v = decide (s.variant.bays * (s.cstore.abanks * 131072) < a - a % leafSize l + leafSize l)) ∧
    (v.extractLsb' 8 3 ≠ 1#3 → v.extractLsb' 8 3 ≠ 2#3 → s.mappingRefused l v = false))

/-- R406: an offset of more than 1 ms steps `$time`, which is never below 0; a smaller one changes nothing that the model counts. -/
def TimeSteps : Prop :=
  (∀ (s : State) (d : Int), d.natAbs ≤ 10 ^ 6 → exec (.ptpMessage d) s = .next s) ∧
  (∀ (s : State) (d : Int), 10 ^ 6 < d.natAbs → s.timeNs + d < 2 ^ 48 * 10 ^ 9 →
    To (.ptpMessage d) s fun t => (t.timeNs : Int) = max (s.timeNs + d) 0 ∧ t.ns.toNat < 10 ^ 9 ∧ t.uc = s.uc ∧ t.mem = s.mem)

end Sys2Proof.Claims

/-- R13, R14, R307, R404 to R406: FABRIC_REQUEST, FABRIC_LANE_FAIL, PORT_DEGRADE_COMPLETE, PORT_MODE_REQUEST, MAPPING_REQUEST and
PTP_MESSAGE.
Slewing and the peer behind a port are the model's (log 14, log 3), as are the class of a peer's and of the mapping's requests, that a write to
a sealed granule is refused (log 13), the place of a table in memory (log 8) and when a walk looks again (log 26). -/
def Obligations.FabricAndTimeSteps : Prop :=
  Claims.PeerRequests ∧ Claims.PortsChange ∧ Claims.MappingsAreWritten ∧ Claims.TimeSteps

namespace Sys2Proof.Claims

/-- Channel c becomes x, and no other channel changes. -/
def ChanIs (s t : State) (c : Nat) (x : Ingress) : Prop := t.ingress[c]? = some x ∧ ∀ o, o ≠ c → t.ingress[o]? = s.ingress[o]?
/-- One more frame is dropped (R409, R414): both counts saturate. -/
def OneDrop (x y : Ingress) : Prop :=
  y = { x with drops := .ofNat 24 (min (x.drops.toNat + 1) 0xFFFFFF), lc := .ofNat 32 (min (x.lc.toNat + 1) 0xFFFFFFFF) }
/-- The channel has dropped the frame at its head; a LOSS is to follow. -/
def HeadDropped (s : State) (c : Nat) (y : Ingress) (fs : List Frame) (t : State) : Prop :=
  t.mem = s.mem ∧ t.reqs = s.reqs ∧ (.lossSlotWrite c ∈ t.agenda ∨ .lossSlotWrite c ∈ t.again) ∧
  ∃ z, OneDrop y z ∧ ChanIs s t c { z with frames := fs, begun := false, slot := 0 }
/-- The channel stands still: what EN 0 leaves of it (R413, R414). -/
def still (x : Ingress) : Ingress := { x with en := false, state := 0, lc := 0, frames := [], begun := false, slot := 0, clearing := false }
/-- A step waits for nothing. -/
def Unheld (s : State) (i : Instr) : Prop := ∀ w ∈ s.waits, w.step ≠ i
/-- A frame waits at the head of a channel that may read its control block for it. -/
structure AtHead (s : State) (c : Nat) (x : Ingress) (f : Frame) (fs : List Frame) : Prop where
  chan : s.ingress[c]? = some x
  frames : x.frames = f :: fs
  idle : x.begun = false ∧ x.clearing = false ∧ x.state ≠ 0#2
  loss : s.waitOf (.lossSlotWrite c) 0 = none
/-- The channel has read RIDX and a word with no command (R410). -/
def BlockRead (s u : State) (i : Instr) (x : Ingress) (ridx : Word) : Prop :=
  Served i 0 s u ∧ Unheld u i ∧ s.awaitsBad i 0 = false ∧ ∃ v, u.chanLoad x x.icb.toNat 8 = .ok v ∧ v / 2 ^ 32 % 4 = 0 ∧ BitVec.ofNat 32 v = ridx

/-- R389, R408 to R414: a frame that a channel takes waits for it, or is dropped and counted; FRAME_PUBLISH reads the control block, and
where the slots of the frame are free, beside one for a LOSS that is to come, begins it, else drops it, as a channel in ERROR does; a LOSS comes
first; then the slots are stored one after the other, WIDX moving behind each. -/
def FramesArePublished : Prop :=
  (∀ (s : State) p e (f : List Byte) c x y, s.fabric[p]? = some x → x.ethernet = true → 60 ≤ f.length → f.length ≤ 9212 →
    s.taker p e = some c → s.ingress[c]? = some y →
    (y.frames.length ≤ Config.receiveBuffer p → To (.frameArrival p e true f) s fun t =>
      ChanIs s t c { y with frames := y.frames ++ [⟨s.sec, s.ns, f⟩] } ∧ .framePublish c ∈ t.agenda) ∧
    (Config.receiveBuffer p < y.frames.length → To (.frameArrival p e true f) s fun t =>
      (.lossSlotWrite c ∈ t.agenda ∨ .lossSlotWrite c ∈ t.again) ∧ ∃ z, ChanIs s t c z ∧ OneDrop y z)) ∧
  (∀ (s : State) p e ok (f : List Byte), ok = false ∨ f.length < 60 ∨ 9212 < f.length ∨ s.taker p e = none ∨
    (∀ x, s.fabric[p]? = some x → x.ethernet = false) → exec (.frameArrival p e ok f) s = .next s) ∧
  (∀ (s : State) c x f fs, AtHead s c x f fs → Sends (.framePublish c) 0 (s.blockReads c) s) ∧
  (∀ (s : State) u c x f fs ridx, AtHead s c x f fs → BlockRead s u (.framePublish c) x ridx →
    let y := { x with ridx := ridx }
    let free := 2 ^ x.log2n.toNat - (x.widx - ridx).toNat
    let n := (frameSlots f).length
    (x.state = 2#2 → To (.framePublish c) s (HeadDropped s c y fs)) ∧
    (x.state = 1#2 → free < (if x.lc = 0#32 then n else n + 1) → To (.framePublish c) s (HeadDropped s c y fs)) ∧
    (x.state = 1#2 → x.lc ≠ 0#32 → n + 1 ≤ free → To (.framePublish c) s fun t => t.mem = s.mem ∧ t.reqs = s.reqs ∧ ChanIs s t c y ∧
      (.lossSlotWrite c ∈ t.agenda ∨ .lossSlotWrite c ∈ t.again) ∧ .framePublish c ∈ t.again) ∧
    (x.state = 1#2 → x.lc = 0#32 → n ≤ free → ∀ q rs, (frameSlots f).head? = some q →
      let v := u.onIngress c fun _ => { y with begun := true, slot := 0 }
      v.slotStores c n q.1 q.2.1 q.2.2 = .ok rs → rs ≠ [] → exec (.framePublish c) s = .next (waiting v (.framePublish c) 1 rs))) ∧
  (∀ (s : State) c x f fs q rs, s.ingress[c]? = some x → x.frames = f :: fs → x.begun = true → Unheld s (.framePublish c) →
    (frameSlots f)[x.slot]? = some q → s.slotStores c (frameSlots f).length q.1 q.2.1 q.2.2 = .ok rs → rs ≠ [] →
    exec (.framePublish c) s = .next (waiting s (.framePublish c) 1 rs)) ∧
  (∀ (s : State) u c x f fs, s.ingress[c]? = some x → x.frames = f :: fs → x.begun = true → Served (.framePublish c) 1 s u →
    (x.slot + 1 < (frameSlots f).length → To (.framePublish c) s fun t =>
      ChanIs s t c { x with widx := x.widx + 1, slot := x.slot + 1 } ∧ .framePublish c ∈ t.again ∧ t.mem = s.mem) ∧
    ((frameSlots f).length ≤ x.slot + 1 → To (.framePublish c) s fun t =>
      ChanIs s t c { x with widx := x.widx + 1, frames := fs, begun := false, slot := 0 } ∧ t.mem = s.mem ∧
      (.lossSlotWrite c ∈ t.agenda ∨ .lossSlotWrite c ∈ t.again)))

/-- R411, R412, R414: the slots of a frame, their headers, and the stores of a slot at WIDX in the ring, each with release. -/
def SlotsHoldFrames : Prop :=
  (∀ f : Frame, let n := f.bytes.length
    40 < n → n < 2 ^ 16 → (frameSlots f).length = 1 + (n + 15) / 56 ∧ ((frameSlots f).map (·.1)).sum = n ∧
      ∃ v, (frameSlots f).head? = some (40, 1, v) ∧ v % 2 ^ 32 = f.ns.toNat ∧ v / 2 ^ 32 % 2 ^ 48 = f.sec.toNat ∧
        v / 2 ^ 80 % 2 ^ 48 = n ∧ ∀ i < 40, v / 2 ^ (128 + 8 * i) % 256 = (f.bytes.getD i 0#8).toNat) ∧
  (∀ (i : Word) len nsl ty, len < 2 ^ 16 → nsl < 2 ^ 8 → ty < 2 ^ 4 → let h := slotHeader i len nsl ty
    h / 2 ^ 48 = i.toNat % 2 ^ 16 ∧ h / 2 ^ 32 % 2 ^ 16 = len ∧ h / 2 ^ 16 % 2 ^ 16 = 0 ∧ h / 2 ^ 8 % 2 ^ 8 = nsl ∧ h / 2 ^ 4 % 2 ^ 4 = ty ∧ h % 2 ^ 4 = 0) ∧
  (∀ (s : State) c x k nsl len ty payload rs p, Canonical s → s.ingress[c]? = some x → s.context? x.ctx.toNat = some k →
    s.slotStores c nsl len ty payload = .ok rs → let a := x.ring.toNat + 64 * (x.widx.toNat % 2 ^ x.log2n.toNat)
    a % 65536 + 64 ≤ 65536 → a < 2 ^ 64 → s.target k.desc 6 true a = .ok p →
    (∀ r ∈ rs, r.kind = .store ∧ r.rel = true ∧ r.who = 1408 + c ∧ r.cls = 1 ∧ r.stamp = (s.now64 + 16) % 2 ^ 16) ∧
    ∀ b, memRead (rs.foldl (fun m r => (performReq m r).mem) s.mem) b =
      if keyOf p.space p.addr ≤ b ∧ b < keyOf p.space p.addr + 64
      then BitVec.ofNat 8 ((slotHeader x.widx len nsl ty + payload * 2 ^ 64) / 256 ^ (b - keyOf p.space p.addr)) else memRead s.mem b) ∧
  (∀ (s : State) c x rs, s.ingress[c]? = some x → x.begun = false → x.clearing = false → x.state = 1#2 → x.lc ≠ 0#32 →
    (x.widx - x.ridx).toNat < 2 ^ x.log2n.toNat → Unheld s (.lossSlotWrite c) → s.slotStores c 1 0 4 x.lc.toNat = .ok rs → rs ≠ [] →
    exec (.lossSlotWrite c) s = .next (waiting (s.onIngress c fun _ => { x with lc := 0 }) (.lossSlotWrite c) 0 rs)) ∧
  (∀ (s : State) u c x, s.ingress[c]? = some x → Served (.lossSlotWrite c) 0 s u →
    To (.lossSlotWrite c) s fun t => t.mem = s.mem ∧ ChanIs s t c { x with widx := x.widx + 1 })

/-- R409, R410, R413, R415: a channel that is enabled reads its control block with its next poll and runs from RIDX; a poll reads RIDX and
acts on CMD, whose write of 0 then leaves; EN 0 stops a channel at once. -/
def ChannelsRunAndStop : Prop :=
  (∀ (s : State) c x, s.ingress[c]? = some x → x.en = true → x.begun = false → x.clearing = false → s.waitOf (.lossSlotWrite c) 0 = none →
    Sends (.icbPoll c) 0 (s.blockReads c) s ∧
    ∀ u v, Served (.icbPoll c) 0 s u → s.awaitsBad (.icbPoll c) 0 = false → u.chanLoad x x.icb.toNat 8 = .ok v →
      let cmd := v / 2 ^ 32 % 4
      let y := { x with ridx := BitVec.ofNat 32 v }
      let on := fun (z : Ingress) => { z with state := 1#2, widx := y.ridx, ridx := y.ridx, ecode := 0#6 }
      (cmd = 0 ∨ cmd = 3 → To (.icbPoll c) s fun t => t.mem = s.mem ∧ t.reqs = s.reqs ∧
        ChanIs s t c (if x.state = 0#2 then on y else y) ∧
        (x.state ≠ 0#2 → .lossSlotWrite c ∈ t.agenda ∨ .lossSlotWrite c ∈ t.again)) ∧
      ∀ w rs, cmd = 1 ∨ cmd = 2 → u.chanLoad x (x.icb.toNat + 4) 4 = .ok w → u.chanStores c (x.icb.toNat + 4) 4 (w - w % 4) = .ok rs →
        To (.icbPoll c) s fun t => t.mem = s.mem ∧ t.reqs = (u.send rs).reqs ∧
          ChanIs s t c (if cmd = 1 then
              (if x.state = 0#2 then { on y with state := 2#2, ecode := 1#6 }
               else if x.state = 1#2 then { y with state := 2#2, ecode := 1#6 } else y)
            else if x.state = 0#2 ∨ x.state = 2#2 then on y else y)) ∧
  (∀ (s : State) c x (w : Word), s.ingress[c]? = some x → s.variant.ethin = true →
    let n := (w.extractLsb' 24 5).toNat
    let lg := BitVec.ofNat 5 (if n < 4 then 4 else if 16 < n then 16 else n)
    let set := fun (z : Ingress) =>
      { z with en := w.getLsbD 31, port := w.extractLsb' 29 2, ctx := w.extractLsb' 12 12, log2n := lg }
    (x.state = 0#2 → w.getLsbD 31 = false → To (.ingressEnable c w) s fun t => ChanIs s t c (set (still x)) ∧ t.agenda = s.agenda) ∧
    (x.state = 0#2 → w.getLsbD 31 = true → To (.ingressEnable c w) s fun t => ChanIs s t c (set x) ∧ .icbPoll c ∈ t.agenda) ∧
    (x.state ≠ 0#2 → w.getLsbD 31 = true → exec (.ingressEnable c w) s = .next s) ∧
    (x.state ≠ 0#2 → w.getLsbD 31 = false → To (.ingressEnable c w) s fun t => ChanIs s t c (still x)) ∧
    To (.ingressStop c) s fun t => ChanIs s t c (still x) ∧ Unheld t (.framePublish c) ∧ Unheld t (.icbPoll c)) ∧
  (∀ (s : State) c x u, s.ingress[c]? = some x → x.en = true → x.begun = false → x.clearing = false → s.waitOf (.lossSlotWrite c) 0 = none →
    Served (.icbPoll c) 0 s u → u.chanLoad x x.icb.toNat 8 = .error .fault →
    To (.icbPoll c) s fun t => ChanIs s t c { x with state := 2, ecode := 2 } ∧ t.mem = s.mem)

end Sys2Proof.Claims

/-- R389, R408 to R415: the steps of the ingress channels: FRAME_ARRIVAL, FRAME_PUBLISH, LOSS_SLOT_WRITE, ICB_POLL, INGRESS_ENABLE and
INGRESS_STOP.
The receive buffer's size is free (log 3), what a stop does to waiting frames is the model's choice (log 20), as are the steps in which a
channel's reads and stores are made (log 12). -/
def Obligations.IngressSteps : Prop :=
  Claims.FramesArePublished ∧ Claims.SlotsHoldFrames ∧ Claims.ChannelsRunAndStop

namespace Sys2Proof.Claims

/-- Only one measurement register changes: it is extended with a digest (R418). -/
def Extended (a b : List (BitVec 512)) (i : Nat) (d : BitVec 512) : Prop :=
  b.length = a.length ∧ (∀ m, a[i]? = some m → b[i]? = some (extendDigest m d)) ∧ ∀ j, j ≠ i → b[j]? = a[j]?

/-- What is at its reset value after a power-up and after a device reset: nothing runs, nothing waits. -/
def Idle (v : Config.Variant) (t : State) : Prop :=
  t.gangs = [] ∧ t.teams = [] ∧ t.contexts = [] ∧ t.queues = [] ∧ t.cmds = [] ∧ t.reqs = [] ∧ t.waits = [] ∧ t.joining = [] ∧ t.halted = false ∧
  t.quads = List.replicate v.quads Quad.reset ∧ t.rate = RateBlock.reset ∧ t.link.fto = 15 ∧ t.cstore.abanks = 32

end Sys2Proof.Claims

/-- R393, R417 to R421: POWER_UP clears the measurement registers, extends MR0, MR1 and MR3 and starts the image that verifies, slot A
before B; DEVICE_RESET keeps them, `$time` and memory, and clears what the
quadrants hold (log 15). A GO stages a patch that is signed and fits the version, and a staged
patch is committed whole, once no function that it lists is active, or abandoned after 10 ms; WEXT extends MR5 to MR7; GET_MEASUREMENTS reports the registers and the staged patch.
What Worrid does when it does not run, and how a digest's bytes lie in its register, are the model's choices (log 25, log 16); which
functions are active is free (log 3). -/
def Obligations.FirmwareSteps : Prop :=
  (∀ (s : State) (b : BootInput),
    let mr := fun (d : Option (BitVec 512)) => [extendDigest 0 b.romDigest, d.elim 0 (extendDigest 0), 0, extendDigest 0 b.fuseDigest, 0, 0, 0, 0]
    To (.powerUp b) s fun t => Idle s.variant t ∧ t.mem = [] ∧ t.sealed = [] ∧ t.uc = 0#64 ∧ t.timeNs = 0 ∧ t.worrid =
      if b.slotA.verified then { Worrid.reset with mr := mr (some b.slotA.digest), wver := b.slotA.version, bootStat := 1 }
      else if b.slotB.verified then { Worrid.reset with mr := mr (some b.slotB.digest), wver := b.slotB.version, bootStat := 2 }
      else { Worrid.reset with mr := mr none, bootStat := 3 }) ∧
  (∀ (s : State), Canonical s → To .deviceReset s fun t => Idle s.variant t ∧ t.worrid = s.worrid ∧ t.uc = s.uc ∧ t.timeNs = s.timeNs ∧
    t.sealed = s.sealed ∧ ∀ a, memRead t.mem a = if 4 * 2 ^ 64 ≤ a ∧ a < 6 * 2 ^ 64 then 0#8 else memRead s.mem a) ∧
  (∀ (s : State) (p : PatchImage), s.worrid.bootStat = 1#2 ∨ s.worrid.bootStat = 2#2 →
    exec (.patchGo p) s = .next { s with worrid :=
      if s.worrid.pstat = 1#3 then { s.worrid with busy := true }
      else if p.signed = false then { s.worrid with pstat := 3 }
      else if p.base ≠ s.worrid.wver then { s.worrid with pstat := 4 }
      else { s.worrid with pstat := 1, staged := some ⟨p, s.uc.toNat⟩ } }) ∧
  (∀ (s : State) g, s.worrid.staged = some g → s.uc.toNat < g.since + 10000 →
    (∀ n ∈ g.image.inactive, Config.functionActive s.uc.toNat n = false) → To .patchCommit s fun t =>
    t.worrid.pstat = 2#3 ∧ t.worrid.staged = none ∧ t.worrid.wver = g.image.version ∧ Extended s.worrid.mr t.worrid.mr 2 g.image.digest ∧
    (∀ n code, (∀ e ∈ g.image.entries, e.1 ≠ n) → ((n, code) ∈ t.worrid.table ↔ (n, code) ∈ s.worrid.table)) ∧
    ∀ e, g.image.entries.Pairwise (fun a b => a.1 ≠ b.1) → e ∈ g.image.entries → e ∈ t.worrid.table) ∧
  (∀ (s : State) g, s.worrid.staged = some g → (∃ n ∈ g.image.inactive, Config.functionActive s.uc.toNat n = true) →
    exec .patchCommit s = .next s) ∧
  (∀ (s : State) g, s.worrid.staged = some g → exec .patchAbandon s =
    if s.uc.toNat < g.since + 10000 then .next s else .next { s with worrid := { s.worrid with pstat := 5, staged := none } }) ∧
  (∀ (s : State) (i : BitVec 2) d, i ≠ 3#2 → To (.wext i d) s fun t =>
    Extended s.worrid.mr t.worrid.mr (5 + i.toNat) d ∧ t.worrid = { s.worrid with mr := t.worrid.mr }) ∧
  (∀ (s : State) d, exec (.wext 3#2 d) s = .next s) ∧
  (∀ (s : State), s.worrid.bootStat = 1#2 ∨ s.worrid.bootStat = 2#2 → To .getMeasurements s fun t => ∃ sig, t.worrid = s.worrid ∧
    t.msgs = s.msgs ++ [match s.worrid.staged with
      | some g => .measurements s.worrid.mr true g.image.base g.image.version g.image.digest sig
      | none => .measurements s.worrid.mr false 0 0 0 sig])

/-- R141, R142, R418, R422 to R424: SAMPLING_ARM sets a VD's sample control; arming and disarming extend MR4. The stores of a sample record
leave for the ring at INDEX, which moves on, with the cycles that the operand collection and the execution of an instruction of fixed time took, and the next tagged instruction comes after 1 to 2·INTERVAL issues. DBGCTL arms the debug stop and has a team
stopped and resumed; a stopped team's gangs issue nothing until they are resumed.
The sampling ring as a place in device memory is the model's choice (log 8), the count of issues is free (log 3). -/
def Obligations.SamplingAndDebugSteps : Prop :=
  (∀ (s : State) vd v ring n i, s.vd? vd = some v → To (.samplingArm vd ring n i) s fun t =>
    t.vd? vd = some { v with ring := ring, log2n := n, interval := i } ∧ (∀ u, u ≠ vd → t.vd? u = s.vd? u) ∧
    ((v.interval = 0#32 ↔ i = 0#32) → t.worrid.mr = s.worrid.mr) ∧
    (¬ (v.interval = 0#32 ↔ i = 0#32) → ∃ d, Extended s.worrid.mr t.worrid.mr 4 d)) ∧
  (∀ (s : State) q tag o v, Canonical s → q < s.quads.length → q < 2 ^ 16 → (s.quad q).tagged = some tag → s.ownerOf q = some o → s.vd? o = some v →
    let k := v.ring.toNat + 64 * (v.index.toNat % 2 ^ v.log2n.toNat)
    To (.sampleRecord q) s fun t => t.mem = s.mem ∧ (∃ rs, t.reqs = s.reqs ++ rs ∧ ∀ r ∈ rs, r.kind = .store ∧ r.cls = 6) ∧
      memLoad t.seen k 8 = tag.pc.toNat ∧ memLoad t.seen (k + 8) 4 = tag.grid.toNat ∧ memLoad t.seen (k + 0x12) 2 = q % 2 ^ 16 ∧
      memLoad t.seen (k + 0x18) 2 = (tag.sample - tag.issue) % 2 ^ 16 ∧
      (∀ n g r, s.gang? tag.gid = some g → g.results = [r] → r.seq = tag.seq → r.pc = tag.pc → r.exactDue = true → r.due - tag.sample = n →
        memLoad t.seen (k + 0x1A) 2 = n % 2 ^ 16) ∧
      (∀ a, a < k ∨ k + 64 ≤ a → memRead t.seen a = memRead s.seen a) ∧ t.vd? o = some { v with index := v.index + 1 } ∧
      (t.quad q).tagged = none ∧ 1 ≤ (t.quad q).untilTag ∧ (v.interval ≠ 0#32 → (t.quad q).untilTag ≤ 2 * v.interval.toNat)) ∧
  (∀ (s : State) (w : Word), To (.debugArm w) s fun t =>
    t.dbg = { s.dbg with arm := w.getLsbD 31, ctx := w.extractLsb' 0 12 } ∧
    (w.getLsbD 30 = true → .teamStop ∈ t.agenda) ∧ (w.getLsbD 29 = true → .teamResume ∈ t.agenda) ∧
    (w.getLsbD 31 = s.dbg.arm → t.worrid = s.worrid) ∧ (w.getLsbD 31 ≠ s.dbg.arm → ∃ d, Extended s.worrid.mr t.worrid.mr 4 d)) ∧
  (∀ (s : State) tm x, s.teams = [tm] → tm.stowed = false → tm.index = s.dbg.team.toNat → s.grid? tm.grid = some x →
    x.ctx = s.dbg.ctx.toNat → x.seq % 2 ^ 26 = s.dbg.gridSeq.toNat % 2 ^ 26 →
    To .teamStop s fun t => t.dbg.stopped = true ∧ t.gangs = s.gangs.map fun g => if g.team = tm.id then { g with stopped := true } else g) ∧
  (∀ (s : State), To .teamResume s fun t => t.dbg.stopped = false ∧ t.mem = s.mem ∧
    t.gangs = s.gangs.map fun g => { g with stopped := false }) ∧
  (∀ (s : State) q u g, g ∈ s.candidates q u → g.stopped = false)
end

