-- ==== Sys2Proof/Laws/State.lean ====
section
/-!
SUPPORT. What each named update of the state and of a gang leaves and what it changes, field by field.
-/
namespace Sys2Proof.Machine
open Sys2Proof

/-! ### putGang -/
@[simp] theorem State.putGang_variant (s : State) (g : Gang) : (s.putGang g).variant = s.variant := rfl
@[simp] theorem State.putGang_agenda (s : State) (g : Gang) : (s.putGang g).agenda = s.agenda := rfl
@[simp] theorem State.putGang_turn (s : State) (g : Gang) : (s.putGang g).turn = s.turn := rfl
@[simp] theorem State.putGang_ports (s : State) (g : Gang) : (s.putGang g).ports = s.ports := rfl
@[simp] theorem State.putGang_joining (s : State) (g : Gang) : (s.putGang g).joining = s.joining := rfl
@[simp] theorem State.putGang_arrivals (s : State) (g : Gang) : (s.putGang g).arrivals = s.arrivals := rfl
@[simp] theorem State.putGang_again (s : State) (g : Gang) : (s.putGang g).again = s.again := rfl
@[simp] theorem State.putGang_waits (s : State) (g : Gang) : (s.putGang g).waits = s.waits := rfl
@[simp] theorem State.putGang_nextId (s : State) (g : Gang) : (s.putGang g).nextId = s.nextId := rfl
@[simp] theorem State.putGang_freeCount (s : State) (g : Gang) : (s.putGang g).freeCount = s.freeCount := rfl
@[simp] theorem State.putGang_halted (s : State) (g : Gang) : (s.putGang g).halted = s.halted := rfl
@[simp] theorem State.putGang_issues (s : State) (g : Gang) : (s.putGang g).issues = s.issues := rfl
@[simp] theorem State.putGang_mem (s : State) (g : Gang) : (s.putGang g).mem = s.mem := rfl
@[simp] theorem State.putGang_sealed (s : State) (g : Gang) : (s.putGang g).sealed = s.sealed := rfl
@[simp] theorem State.putGang_sealing (s : State) (g : Gang) : (s.putGang g).sealing = s.sealing := rfl
@[simp] theorem State.putGang_reqs (s : State) (g : Gang) : (s.putGang g).reqs = s.reqs := rfl
@[simp] theorem State.putGang_gangs (s : State) (g : Gang) : (s.putGang g).gangs = s.gangs.map (fun h => if h.gid == g.gid then g else h) := rfl
@[simp] theorem State.putGang_teams (s : State) (g : Gang) : (s.putGang g).teams = s.teams := rfl
@[simp] theorem State.putGang_grids (s : State) (g : Gang) : (s.putGang g).grids = s.grids := rfl
@[simp] theorem State.putGang_contexts (s : State) (g : Gang) : (s.putGang g).contexts = s.contexts := rfl
@[simp] theorem State.putGang_vds (s : State) (g : Gang) : (s.putGang g).vds = s.vds := rfl
@[simp] theorem State.putGang_queues (s : State) (g : Gang) : (s.putGang g).queues = s.queues := rfl
@[simp] theorem State.putGang_pools (s : State) (g : Gang) : (s.putGang g).pools = s.pools := rfl
@[simp] theorem State.putGang_hqt (s : State) (g : Gang) : (s.putGang g).hqt = s.hqt := rfl
@[simp] theorem State.putGang_cmds (s : State) (g : Gang) : (s.putGang g).cmds = s.cmds := rfl
@[simp] theorem State.putGang_colls (s : State) (g : Gang) : (s.putGang g).colls = s.colls := rfl
@[simp] theorem State.putGang_bankOps (s : State) (g : Gang) : (s.putGang g).bankOps = s.bankOps := rfl
@[simp] theorem State.putGang_quads (s : State) (g : Gang) : (s.putGang g).quads = s.quads := rfl
@[simp] theorem State.putGang_points (s : State) (g : Gang) : (s.putGang g).points = s.points := rfl
@[simp] theorem State.putGang_rate (s : State) (g : Gang) : (s.putGang g).rate = s.rate := rfl
@[simp] theorem State.putGang_cstore (s : State) (g : Gang) : (s.putGang g).cstore = s.cstore := rfl
@[simp] theorem State.putGang_hbm (s : State) (g : Gang) : (s.putGang g).hbm = s.hbm := rfl
@[simp] theorem State.putGang_mend (s : State) (g : Gang) : (s.putGang g).mend = s.mend := rfl
@[simp] theorem State.putGang_miss (s : State) (g : Gang) : (s.putGang g).miss = s.miss := rfl
@[simp] theorem State.putGang_rows (s : State) (g : Gang) : (s.putGang g).rows = s.rows := rfl
@[simp] theorem State.putGang_badLines (s : State) (g : Gang) : (s.putGang g).badLines = s.badLines := rfl
@[simp] theorem State.putGang_repairs (s : State) (g : Gang) : (s.putGang g).repairs = s.repairs := rfl
@[simp] theorem State.putGang_spares (s : State) (g : Gang) : (s.putGang g).spares = s.spares := rfl
@[simp] theorem State.putGang_lostCores (s : State) (g : Gang) : (s.putGang g).lostCores = s.lostCores := rfl
@[simp] theorem State.putGang_tier2Gone (s : State) (g : Gang) : (s.putGang g).tier2Gone = s.tier2Gone := rfl
@[simp] theorem State.putGang_link (s : State) (g : Gang) : (s.putGang g).link = s.link := rfl
@[simp] theorem State.putGang_deviceId (s : State) (g : Gang) : (s.putGang g).deviceId = s.deviceId := rfl
@[simp] theorem State.putGang_peersOn (s : State) (g : Gang) : (s.putGang g).peersOn = s.peersOn := rfl
@[simp] theorem State.putGang_fabric (s : State) (g : Gang) : (s.putGang g).fabric = s.fabric := rfl
@[simp] theorem State.putGang_ingress (s : State) (g : Gang) : (s.putGang g).ingress = s.ingress := rfl
@[simp] theorem State.putGang_tcm (s : State) (g : Gang) : (s.putGang g).tcm = s.tcm := rfl
@[simp] theorem State.putGang_worrid (s : State) (g : Gang) : (s.putGang g).worrid = s.worrid := rfl
@[simp] theorem State.putGang_dbg (s : State) (g : Gang) : (s.putGang g).dbg = s.dbg := rfl
@[simp] theorem State.putGang_devLog (s : State) (g : Gang) : (s.putGang g).devLog = s.devLog := rfl
@[simp] theorem State.putGang_uc (s : State) (g : Gang) : (s.putGang g).uc = s.uc := rfl
@[simp] theorem State.putGang_sec (s : State) (g : Gang) : (s.putGang g).sec = s.sec := rfl
@[simp] theorem State.putGang_ns (s : State) (g : Gang) : (s.putGang g).ns = s.ns := rfl
@[simp] theorem State.putGang_msgs (s : State) (g : Gang) : (s.putGang g).msgs = s.msgs := rfl

/-! ### onGang -/
@[simp] theorem State.onGang_variant (s : State) (gid : Nat) (f : Gang → Gang) : (s.onGang gid f).variant = s.variant := rfl
@[simp] theorem State.onGang_agenda (s : State) (gid : Nat) (f : Gang → Gang) : (s.onGang gid f).agenda = s.agenda := rfl
@[simp] theorem State.onGang_turn (s : State) (gid : Nat) (f : Gang → Gang) : (s.onGang gid f).turn = s.turn := rfl
@[simp] theorem State.onGang_ports (s : State) (gid : Nat) (f : Gang → Gang) : (s.onGang gid f).ports = s.ports := rfl
@[simp] theorem State.onGang_joining (s : State) (gid : Nat) (f : Gang → Gang) : (s.onGang gid f).joining = s.joining := rfl
@[simp] theorem State.onGang_arrivals (s : State) (gid : Nat) (f : Gang → Gang) : (s.onGang gid f).arrivals = s.arrivals := rfl
@[simp] theorem State.onGang_again (s : State) (gid : Nat) (f : Gang → Gang) : (s.onGang gid f).again = s.again := rfl
@[simp] theorem State.onGang_waits (s : State) (gid : Nat) (f : Gang → Gang) : (s.onGang gid f).waits = s.waits := rfl
@[simp] theorem State.onGang_nextId (s : State) (gid : Nat) (f : Gang → Gang) : (s.onGang gid f).nextId = s.nextId := rfl
@[simp] theorem State.onGang_freeCount (s : State) (gid : Nat) (f : Gang → Gang) : (s.onGang gid f).freeCount = s.freeCount := rfl
@[simp] theorem State.onGang_halted (s : State) (gid : Nat) (f : Gang → Gang) : (s.onGang gid f).halted = s.halted := rfl
@[simp] theorem State.onGang_issues (s : State) (gid : Nat) (f : Gang → Gang) : (s.onGang gid f).issues = s.issues := rfl
@[simp] theorem State.onGang_mem (s : State) (gid : Nat) (f : Gang → Gang) : (s.onGang gid f).mem = s.mem := rfl
@[simp] theorem State.onGang_sealed (s : State) (gid : Nat) (f : Gang → Gang) : (s.onGang gid f).sealed = s.sealed := rfl
@[simp] theorem State.onGang_sealing (s : State) (gid : Nat) (f : Gang → Gang) : (s.onGang gid f).sealing = s.sealing := rfl
@[simp] theorem State.onGang_reqs (s : State) (gid : Nat) (f : Gang → Gang) : (s.onGang gid f).reqs = s.reqs := rfl
@[simp] theorem State.onGang_gangs (s : State) (gid : Nat) (f : Gang → Gang) : (s.onGang gid f).gangs = s.gangs.map (fun h => if h.gid == gid then f h else h) := rfl
@[simp] theorem State.onGang_teams (s : State) (gid : Nat) (f : Gang → Gang) : (s.onGang gid f).teams = s.teams := rfl
@[simp] theorem State.onGang_grids (s : State) (gid : Nat) (f : Gang → Gang) : (s.onGang gid f).grids = s.grids := rfl
@[simp] theorem State.onGang_contexts (s : State) (gid : Nat) (f : Gang → Gang) : (s.onGang gid f).contexts = s.contexts := rfl
@[simp] theorem State.onGang_vds (s : State) (gid : Nat) (f : Gang → Gang) : (s.onGang gid f).vds = s.vds := rfl
@[simp] theorem State.onGang_queues (s : State) (gid : Nat) (f : Gang → Gang) : (s.onGang gid f).queues = s.queues := rfl
@[simp] theorem State.onGang_pools (s : State) (gid : Nat) (f : Gang → Gang) : (s.onGang gid f).pools = s.pools := rfl
@[simp] theorem State.onGang_hqt (s : State) (gid : Nat) (f : Gang → Gang) : (s.onGang gid f).hqt = s.hqt := rfl
@[simp] theorem State.onGang_cmds (s : State) (gid : Nat) (f : Gang → Gang) : (s.onGang gid f).cmds = s.cmds := rfl
@[simp] theorem State.onGang_colls (s : State) (gid : Nat) (f : Gang → Gang) : (s.onGang gid f).colls = s.colls := rfl
@[simp] theorem State.onGang_bankOps (s : State) (gid : Nat) (f : Gang → Gang) : (s.onGang gid f).bankOps = s.bankOps := rfl
@[simp] theorem State.onGang_quads (s : State) (gid : Nat) (f : Gang → Gang) : (s.onGang gid f).quads = s.quads := rfl
@[simp] theorem State.onGang_points (s : State) (gid : Nat) (f : Gang → Gang) : (s.onGang gid f).points = s.points := rfl
@[simp] theorem State.onGang_rate (s : State) (gid : Nat) (f : Gang → Gang) : (s.onGang gid f).rate = s.rate := rfl
@[simp] theorem State.onGang_cstore (s : State) (gid : Nat) (f : Gang → Gang) : (s.onGang gid f).cstore = s.cstore := rfl
@[simp] theorem State.onGang_hbm (s : State) (gid : Nat) (f : Gang → Gang) : (s.onGang gid f).hbm = s.hbm := rfl
@[simp] theorem State.onGang_mend (s : State) (gid : Nat) (f : Gang → Gang) : (s.onGang gid f).mend = s.mend := rfl
@[simp] theorem State.onGang_miss (s : State) (gid : Nat) (f : Gang → Gang) : (s.onGang gid f).miss = s.miss := rfl
@[simp] theorem State.onGang_rows (s : State) (gid : Nat) (f : Gang → Gang) : (s.onGang gid f).rows = s.rows := rfl
@[simp] theorem State.onGang_badLines (s : State) (gid : Nat) (f : Gang → Gang) : (s.onGang gid f).badLines = s.badLines := rfl
@[simp] theorem State.onGang_repairs (s : State) (gid : Nat) (f : Gang → Gang) : (s.onGang gid f).repairs = s.repairs := rfl
@[simp] theorem State.onGang_spares (s : State) (gid : Nat) (f : Gang → Gang) : (s.onGang gid f).spares = s.spares := rfl
@[simp] theorem State.onGang_lostCores (s : State) (gid : Nat) (f : Gang → Gang) : (s.onGang gid f).lostCores = s.lostCores := rfl
@[simp] theorem State.onGang_tier2Gone (s : State) (gid : Nat) (f : Gang → Gang) : (s.onGang gid f).tier2Gone = s.tier2Gone := rfl
@[simp] theorem State.onGang_link (s : State) (gid : Nat) (f : Gang → Gang) : (s.onGang gid f).link = s.link := rfl
@[simp] theorem State.onGang_deviceId (s : State) (gid : Nat) (f : Gang → Gang) : (s.onGang gid f).deviceId = s.deviceId := rfl
@[simp] theorem State.onGang_peersOn (s : State) (gid : Nat) (f : Gang → Gang) : (s.onGang gid f).peersOn = s.peersOn := rfl
@[simp] theorem State.onGang_fabric (s : State) (gid : Nat) (f : Gang → Gang) : (s.onGang gid f).fabric = s.fabric := rfl
@[simp] theorem State.onGang_ingress (s : State) (gid : Nat) (f : Gang → Gang) : (s.onGang gid f).ingress = s.ingress := rfl
@[simp] theorem State.onGang_tcm (s : State) (gid : Nat) (f : Gang → Gang) : (s.onGang gid f).tcm = s.tcm := rfl
@[simp] theorem State.onGang_worrid (s : State) (gid : Nat) (f : Gang → Gang) : (s.onGang gid f).worrid = s.worrid := rfl
@[simp] theorem State.onGang_dbg (s : State) (gid : Nat) (f : Gang → Gang) : (s.onGang gid f).dbg = s.dbg := rfl
@[simp] theorem State.onGang_devLog (s : State) (gid : Nat) (f : Gang → Gang) : (s.onGang gid f).devLog = s.devLog := rfl
@[simp] theorem State.onGang_uc (s : State) (gid : Nat) (f : Gang → Gang) : (s.onGang gid f).uc = s.uc := rfl
@[simp] theorem State.onGang_sec (s : State) (gid : Nat) (f : Gang → Gang) : (s.onGang gid f).sec = s.sec := rfl
@[simp] theorem State.onGang_ns (s : State) (gid : Nat) (f : Gang → Gang) : (s.onGang gid f).ns = s.ns := rfl
@[simp] theorem State.onGang_msgs (s : State) (gid : Nat) (f : Gang → Gang) : (s.onGang gid f).msgs = s.msgs := rfl

/-! ### onTeam -/
@[simp] theorem State.onTeam_variant (s : State) (id : Nat) (f : Team → Team) : (s.onTeam id f).variant = s.variant := rfl
@[simp] theorem State.onTeam_agenda (s : State) (id : Nat) (f : Team → Team) : (s.onTeam id f).agenda = s.agenda := rfl
@[simp] theorem State.onTeam_turn (s : State) (id : Nat) (f : Team → Team) : (s.onTeam id f).turn = s.turn := rfl
@[simp] theorem State.onTeam_ports (s : State) (id : Nat) (f : Team → Team) : (s.onTeam id f).ports = s.ports := rfl
@[simp] theorem State.onTeam_joining (s : State) (id : Nat) (f : Team → Team) : (s.onTeam id f).joining = s.joining := rfl
@[simp] theorem State.onTeam_arrivals (s : State) (id : Nat) (f : Team → Team) : (s.onTeam id f).arrivals = s.arrivals := rfl
@[simp] theorem State.onTeam_again (s : State) (id : Nat) (f : Team → Team) : (s.onTeam id f).again = s.again := rfl
@[simp] theorem State.onTeam_waits (s : State) (id : Nat) (f : Team → Team) : (s.onTeam id f).waits = s.waits := rfl
@[simp] theorem State.onTeam_nextId (s : State) (id : Nat) (f : Team → Team) : (s.onTeam id f).nextId = s.nextId := rfl
@[simp] theorem State.onTeam_freeCount (s : State) (id : Nat) (f : Team → Team) : (s.onTeam id f).freeCount = s.freeCount := rfl
@[simp] theorem State.onTeam_halted (s : State) (id : Nat) (f : Team → Team) : (s.onTeam id f).halted = s.halted := rfl
@[simp] theorem State.onTeam_issues (s : State) (id : Nat) (f : Team → Team) : (s.onTeam id f).issues = s.issues := rfl
@[simp] theorem State.onTeam_mem (s : State) (id : Nat) (f : Team → Team) : (s.onTeam id f).mem = s.mem := rfl
@[simp] theorem State.onTeam_sealed (s : State) (id : Nat) (f : Team → Team) : (s.onTeam id f).sealed = s.sealed := rfl
@[simp] theorem State.onTeam_sealing (s : State) (id : Nat) (f : Team → Team) : (s.onTeam id f).sealing = s.sealing := rfl
@[simp] theorem State.onTeam_reqs (s : State) (id : Nat) (f : Team → Team) : (s.onTeam id f).reqs = s.reqs := rfl
@[simp] theorem State.onTeam_gangs (s : State) (id : Nat) (f : Team → Team) : (s.onTeam id f).gangs = s.gangs := rfl
@[simp] theorem State.onTeam_teams (s : State) (id : Nat) (f : Team → Team) : (s.onTeam id f).teams = s.teams.map (fun t => if t.id == id then f t else t) := rfl
@[simp] theorem State.onTeam_grids (s : State) (id : Nat) (f : Team → Team) : (s.onTeam id f).grids = s.grids := rfl
@[simp] theorem State.onTeam_contexts (s : State) (id : Nat) (f : Team → Team) : (s.onTeam id f).contexts = s.contexts := rfl
@[simp] theorem State.onTeam_vds (s : State) (id : Nat) (f : Team → Team) : (s.onTeam id f).vds = s.vds := rfl
@[simp] theorem State.onTeam_queues (s : State) (id : Nat) (f : Team → Team) : (s.onTeam id f).queues = s.queues := rfl
@[simp] theorem State.onTeam_pools (s : State) (id : Nat) (f : Team → Team) : (s.onTeam id f).pools = s.pools := rfl
@[simp] theorem State.onTeam_hqt (s : State) (id : Nat) (f : Team → Team) : (s.onTeam id f).hqt = s.hqt := rfl
@[simp] theorem State.onTeam_cmds (s : State) (id : Nat) (f : Team → Team) : (s.onTeam id f).cmds = s.cmds := rfl
@[simp] theorem State.onTeam_colls (s : State) (id : Nat) (f : Team → Team) : (s.onTeam id f).colls = s.colls := rfl
@[simp] theorem State.onTeam_bankOps (s : State) (id : Nat) (f : Team → Team) : (s.onTeam id f).bankOps = s.bankOps := rfl
@[simp] theorem State.onTeam_quads (s : State) (id : Nat) (f : Team → Team) : (s.onTeam id f).quads = s.quads := rfl
@[simp] theorem State.onTeam_points (s : State) (id : Nat) (f : Team → Team) : (s.onTeam id f).points = s.points := rfl
@[simp] theorem State.onTeam_rate (s : State) (id : Nat) (f : Team → Team) : (s.onTeam id f).rate = s.rate := rfl
@[simp] theorem State.onTeam_cstore (s : State) (id : Nat) (f : Team → Team) : (s.onTeam id f).cstore = s.cstore := rfl
@[simp] theorem State.onTeam_hbm (s : State) (id : Nat) (f : Team → Team) : (s.onTeam id f).hbm = s.hbm := rfl
@[simp] theorem State.onTeam_mend (s : State) (id : Nat) (f : Team → Team) : (s.onTeam id f).mend = s.mend := rfl
@[simp] theorem State.onTeam_miss (s : State) (id : Nat) (f : Team → Team) : (s.onTeam id f).miss = s.miss := rfl
@[simp] theorem State.onTeam_rows (s : State) (id : Nat) (f : Team → Team) : (s.onTeam id f).rows = s.rows := rfl
@[simp] theorem State.onTeam_badLines (s : State) (id : Nat) (f : Team → Team) : (s.onTeam id f).badLines = s.badLines := rfl
@[simp] theorem State.onTeam_repairs (s : State) (id : Nat) (f : Team → Team) : (s.onTeam id f).repairs = s.repairs := rfl
@[simp] theorem State.onTeam_spares (s : State) (id : Nat) (f : Team → Team) : (s.onTeam id f).spares = s.spares := rfl
@[simp] theorem State.onTeam_lostCores (s : State) (id : Nat) (f : Team → Team) : (s.onTeam id f).lostCores = s.lostCores := rfl
@[simp] theorem State.onTeam_tier2Gone (s : State) (id : Nat) (f : Team → Team) : (s.onTeam id f).tier2Gone = s.tier2Gone := rfl
@[simp] theorem State.onTeam_link (s : State) (id : Nat) (f : Team → Team) : (s.onTeam id f).link = s.link := rfl
@[simp] theorem State.onTeam_deviceId (s : State) (id : Nat) (f : Team → Team) : (s.onTeam id f).deviceId = s.deviceId := rfl
@[simp] theorem State.onTeam_peersOn (s : State) (id : Nat) (f : Team → Team) : (s.onTeam id f).peersOn = s.peersOn := rfl
@[simp] theorem State.onTeam_fabric (s : State) (id : Nat) (f : Team → Team) : (s.onTeam id f).fabric = s.fabric := rfl
@[simp] theorem State.onTeam_ingress (s : State) (id : Nat) (f : Team → Team) : (s.onTeam id f).ingress = s.ingress := rfl
@[simp] theorem State.onTeam_tcm (s : State) (id : Nat) (f : Team → Team) : (s.onTeam id f).tcm = s.tcm := rfl
@[simp] theorem State.onTeam_worrid (s : State) (id : Nat) (f : Team → Team) : (s.onTeam id f).worrid = s.worrid := rfl
@[simp] theorem State.onTeam_dbg (s : State) (id : Nat) (f : Team → Team) : (s.onTeam id f).dbg = s.dbg := rfl
@[simp] theorem State.onTeam_devLog (s : State) (id : Nat) (f : Team → Team) : (s.onTeam id f).devLog = s.devLog := rfl
@[simp] theorem State.onTeam_uc (s : State) (id : Nat) (f : Team → Team) : (s.onTeam id f).uc = s.uc := rfl
@[simp] theorem State.onTeam_sec (s : State) (id : Nat) (f : Team → Team) : (s.onTeam id f).sec = s.sec := rfl
@[simp] theorem State.onTeam_ns (s : State) (id : Nat) (f : Team → Team) : (s.onTeam id f).ns = s.ns := rfl
@[simp] theorem State.onTeam_msgs (s : State) (id : Nat) (f : Team → Team) : (s.onTeam id f).msgs = s.msgs := rfl

/-! ### onGrid -/
@[simp] theorem State.onGrid_variant (s : State) (id : Nat) (f : Grid → Grid) : (s.onGrid id f).variant = s.variant := rfl
@[simp] theorem State.onGrid_agenda (s : State) (id : Nat) (f : Grid → Grid) : (s.onGrid id f).agenda = s.agenda := rfl
@[simp] theorem State.onGrid_turn (s : State) (id : Nat) (f : Grid → Grid) : (s.onGrid id f).turn = s.turn := rfl
@[simp] theorem State.onGrid_ports (s : State) (id : Nat) (f : Grid → Grid) : (s.onGrid id f).ports = s.ports := rfl
@[simp] theorem State.onGrid_joining (s : State) (id : Nat) (f : Grid → Grid) : (s.onGrid id f).joining = s.joining := rfl
@[simp] theorem State.onGrid_arrivals (s : State) (id : Nat) (f : Grid → Grid) : (s.onGrid id f).arrivals = s.arrivals := rfl
@[simp] theorem State.onGrid_again (s : State) (id : Nat) (f : Grid → Grid) : (s.onGrid id f).again = s.again := rfl
@[simp] theorem State.onGrid_waits (s : State) (id : Nat) (f : Grid → Grid) : (s.onGrid id f).waits = s.waits := rfl
@[simp] theorem State.onGrid_nextId (s : State) (id : Nat) (f : Grid → Grid) : (s.onGrid id f).nextId = s.nextId := rfl
@[simp] theorem State.onGrid_freeCount (s : State) (id : Nat) (f : Grid → Grid) : (s.onGrid id f).freeCount = s.freeCount := rfl
@[simp] theorem State.onGrid_halted (s : State) (id : Nat) (f : Grid → Grid) : (s.onGrid id f).halted = s.halted := rfl
@[simp] theorem State.onGrid_issues (s : State) (id : Nat) (f : Grid → Grid) : (s.onGrid id f).issues = s.issues := rfl
@[simp] theorem State.onGrid_mem (s : State) (id : Nat) (f : Grid → Grid) : (s.onGrid id f).mem = s.mem := rfl
@[simp] theorem State.onGrid_sealed (s : State) (id : Nat) (f : Grid → Grid) : (s.onGrid id f).sealed = s.sealed := rfl
@[simp] theorem State.onGrid_sealing (s : State) (id : Nat) (f : Grid → Grid) : (s.onGrid id f).sealing = s.sealing := rfl
@[simp] theorem State.onGrid_reqs (s : State) (id : Nat) (f : Grid → Grid) : (s.onGrid id f).reqs = s.reqs := rfl
@[simp] theorem State.onGrid_gangs (s : State) (id : Nat) (f : Grid → Grid) : (s.onGrid id f).gangs = s.gangs := rfl
@[simp] theorem State.onGrid_teams (s : State) (id : Nat) (f : Grid → Grid) : (s.onGrid id f).teams = s.teams := rfl
@[simp] theorem State.onGrid_grids (s : State) (id : Nat) (f : Grid → Grid) : (s.onGrid id f).grids = s.grids.map (fun g => if g.id == id then f g else g) := rfl
@[simp] theorem State.onGrid_contexts (s : State) (id : Nat) (f : Grid → Grid) : (s.onGrid id f).contexts = s.contexts := rfl
@[simp] theorem State.onGrid_vds (s : State) (id : Nat) (f : Grid → Grid) : (s.onGrid id f).vds = s.vds := rfl
@[simp] theorem State.onGrid_queues (s : State) (id : Nat) (f : Grid → Grid) : (s.onGrid id f).queues = s.queues := rfl
@[simp] theorem State.onGrid_pools (s : State) (id : Nat) (f : Grid → Grid) : (s.onGrid id f).pools = s.pools := rfl
@[simp] theorem State.onGrid_hqt (s : State) (id : Nat) (f : Grid → Grid) : (s.onGrid id f).hqt = s.hqt := rfl
@[simp] theorem State.onGrid_cmds (s : State) (id : Nat) (f : Grid → Grid) : (s.onGrid id f).cmds = s.cmds := rfl
@[simp] theorem State.onGrid_colls (s : State) (id : Nat) (f : Grid → Grid) : (s.onGrid id f).colls = s.colls := rfl
@[simp] theorem State.onGrid_bankOps (s : State) (id : Nat) (f : Grid → Grid) : (s.onGrid id f).bankOps = s.bankOps := rfl
@[simp] theorem State.onGrid_quads (s : State) (id : Nat) (f : Grid → Grid) : (s.onGrid id f).quads = s.quads := rfl
@[simp] theorem State.onGrid_points (s : State) (id : Nat) (f : Grid → Grid) : (s.onGrid id f).points = s.points := rfl
@[simp] theorem State.onGrid_rate (s : State) (id : Nat) (f : Grid → Grid) : (s.onGrid id f).rate = s.rate := rfl
@[simp] theorem State.onGrid_cstore (s : State) (id : Nat) (f : Grid → Grid) : (s.onGrid id f).cstore = s.cstore := rfl
@[simp] theorem State.onGrid_hbm (s : State) (id : Nat) (f : Grid → Grid) : (s.onGrid id f).hbm = s.hbm := rfl
@[simp] theorem State.onGrid_mend (s : State) (id : Nat) (f : Grid → Grid) : (s.onGrid id f).mend = s.mend := rfl
@[simp] theorem State.onGrid_miss (s : State) (id : Nat) (f : Grid → Grid) : (s.onGrid id f).miss = s.miss := rfl
@[simp] theorem State.onGrid_rows (s : State) (id : Nat) (f : Grid → Grid) : (s.onGrid id f).rows = s.rows := rfl
@[simp] theorem State.onGrid_badLines (s : State) (id : Nat) (f : Grid → Grid) : (s.onGrid id f).badLines = s.badLines := rfl
@[simp] theorem State.onGrid_repairs (s : State) (id : Nat) (f : Grid → Grid) : (s.onGrid id f).repairs = s.repairs := rfl
@[simp] theorem State.onGrid_spares (s : State) (id : Nat) (f : Grid → Grid) : (s.onGrid id f).spares = s.spares := rfl
@[simp] theorem State.onGrid_lostCores (s : State) (id : Nat) (f : Grid → Grid) : (s.onGrid id f).lostCores = s.lostCores := rfl
@[simp] theorem State.onGrid_tier2Gone (s : State) (id : Nat) (f : Grid → Grid) : (s.onGrid id f).tier2Gone = s.tier2Gone := rfl
@[simp] theorem State.onGrid_link (s : State) (id : Nat) (f : Grid → Grid) : (s.onGrid id f).link = s.link := rfl
@[simp] theorem State.onGrid_deviceId (s : State) (id : Nat) (f : Grid → Grid) : (s.onGrid id f).deviceId = s.deviceId := rfl
@[simp] theorem State.onGrid_peersOn (s : State) (id : Nat) (f : Grid → Grid) : (s.onGrid id f).peersOn = s.peersOn := rfl
@[simp] theorem State.onGrid_fabric (s : State) (id : Nat) (f : Grid → Grid) : (s.onGrid id f).fabric = s.fabric := rfl
@[simp] theorem State.onGrid_ingress (s : State) (id : Nat) (f : Grid → Grid) : (s.onGrid id f).ingress = s.ingress := rfl
@[simp] theorem State.onGrid_tcm (s : State) (id : Nat) (f : Grid → Grid) : (s.onGrid id f).tcm = s.tcm := rfl
@[simp] theorem State.onGrid_worrid (s : State) (id : Nat) (f : Grid → Grid) : (s.onGrid id f).worrid = s.worrid := rfl
@[simp] theorem State.onGrid_dbg (s : State) (id : Nat) (f : Grid → Grid) : (s.onGrid id f).dbg = s.dbg := rfl
@[simp] theorem State.onGrid_devLog (s : State) (id : Nat) (f : Grid → Grid) : (s.onGrid id f).devLog = s.devLog := rfl
@[simp] theorem State.onGrid_uc (s : State) (id : Nat) (f : Grid → Grid) : (s.onGrid id f).uc = s.uc := rfl
@[simp] theorem State.onGrid_sec (s : State) (id : Nat) (f : Grid → Grid) : (s.onGrid id f).sec = s.sec := rfl
@[simp] theorem State.onGrid_ns (s : State) (id : Nat) (f : Grid → Grid) : (s.onGrid id f).ns = s.ns := rfl
@[simp] theorem State.onGrid_msgs (s : State) (id : Nat) (f : Grid → Grid) : (s.onGrid id f).msgs = s.msgs := rfl

/-! ### onContext -/
@[simp] theorem State.onContext_variant (s : State) (id : Nat) (f : Context → Context) : (s.onContext id f).variant = s.variant := rfl
@[simp] theorem State.onContext_agenda (s : State) (id : Nat) (f : Context → Context) : (s.onContext id f).agenda = s.agenda := rfl
@[simp] theorem State.onContext_turn (s : State) (id : Nat) (f : Context → Context) : (s.onContext id f).turn = s.turn := rfl
@[simp] theorem State.onContext_ports (s : State) (id : Nat) (f : Context → Context) : (s.onContext id f).ports = s.ports := rfl
@[simp] theorem State.onContext_joining (s : State) (id : Nat) (f : Context → Context) : (s.onContext id f).joining = s.joining := rfl
@[simp] theorem State.onContext_arrivals (s : State) (id : Nat) (f : Context → Context) : (s.onContext id f).arrivals = s.arrivals := rfl
@[simp] theorem State.onContext_again (s : State) (id : Nat) (f : Context → Context) : (s.onContext id f).again = s.again := rfl
@[simp] theorem State.onContext_waits (s : State) (id : Nat) (f : Context → Context) : (s.onContext id f).waits = s.waits := rfl
@[simp] theorem State.onContext_nextId (s : State) (id : Nat) (f : Context → Context) : (s.onContext id f).nextId = s.nextId := rfl
@[simp] theorem State.onContext_freeCount (s : State) (id : Nat) (f : Context → Context) : (s.onContext id f).freeCount = s.freeCount := rfl
@[simp] theorem State.onContext_halted (s : State) (id : Nat) (f : Context → Context) : (s.onContext id f).halted = s.halted := rfl
@[simp] theorem State.onContext_issues (s : State) (id : Nat) (f : Context → Context) : (s.onContext id f).issues = s.issues := rfl
@[simp] theorem State.onContext_mem (s : State) (id : Nat) (f : Context → Context) : (s.onContext id f).mem = s.mem := rfl
@[simp] theorem State.onContext_sealed (s : State) (id : Nat) (f : Context → Context) : (s.onContext id f).sealed = s.sealed := rfl
@[simp] theorem State.onContext_sealing (s : State) (id : Nat) (f : Context → Context) : (s.onContext id f).sealing = s.sealing := rfl
@[simp] theorem State.onContext_reqs (s : State) (id : Nat) (f : Context → Context) : (s.onContext id f).reqs = s.reqs := rfl
@[simp] theorem State.onContext_gangs (s : State) (id : Nat) (f : Context → Context) : (s.onContext id f).gangs = s.gangs := rfl
@[simp] theorem State.onContext_teams (s : State) (id : Nat) (f : Context → Context) : (s.onContext id f).teams = s.teams := rfl
@[simp] theorem State.onContext_grids (s : State) (id : Nat) (f : Context → Context) : (s.onContext id f).grids = s.grids := rfl
@[simp] theorem State.onContext_contexts (s : State) (id : Nat) (f : Context → Context) : (s.onContext id f).contexts = s.contexts.map (fun c => if c.id == id then f c else c) := rfl
@[simp] theorem State.onContext_vds (s : State) (id : Nat) (f : Context → Context) : (s.onContext id f).vds = s.vds := rfl
@[simp] theorem State.onContext_queues (s : State) (id : Nat) (f : Context → Context) : (s.onContext id f).queues = s.queues := rfl
@[simp] theorem State.onContext_pools (s : State) (id : Nat) (f : Context → Context) : (s.onContext id f).pools = s.pools := rfl
@[simp] theorem State.onContext_hqt (s : State) (id : Nat) (f : Context → Context) : (s.onContext id f).hqt = s.hqt := rfl
@[simp] theorem State.onContext_cmds (s : State) (id : Nat) (f : Context → Context) : (s.onContext id f).cmds = s.cmds := rfl
@[simp] theorem State.onContext_colls (s : State) (id : Nat) (f : Context → Context) : (s.onContext id f).colls = s.colls := rfl
@[simp] theorem State.onContext_bankOps (s : State) (id : Nat) (f : Context → Context) : (s.onContext id f).bankOps = s.bankOps := rfl
@[simp] theorem State.onContext_quads (s : State) (id : Nat) (f : Context → Context) : (s.onContext id f).quads = s.quads := rfl
@[simp] theorem State.onContext_points (s : State) (id : Nat) (f : Context → Context) : (s.onContext id f).points = s.points := rfl
@[simp] theorem State.onContext_rate (s : State) (id : Nat) (f : Context → Context) : (s.onContext id f).rate = s.rate := rfl
@[simp] theorem State.onContext_cstore (s : State) (id : Nat) (f : Context → Context) : (s.onContext id f).cstore = s.cstore := rfl
@[simp] theorem State.onContext_hbm (s : State) (id : Nat) (f : Context → Context) : (s.onContext id f).hbm = s.hbm := rfl
@[simp] theorem State.onContext_mend (s : State) (id : Nat) (f : Context → Context) : (s.onContext id f).mend = s.mend := rfl
@[simp] theorem State.onContext_miss (s : State) (id : Nat) (f : Context → Context) : (s.onContext id f).miss = s.miss := rfl
@[simp] theorem State.onContext_rows (s : State) (id : Nat) (f : Context → Context) : (s.onContext id f).rows = s.rows := rfl
@[simp] theorem State.onContext_badLines (s : State) (id : Nat) (f : Context → Context) : (s.onContext id f).badLines = s.badLines := rfl
@[simp] theorem State.onContext_repairs (s : State) (id : Nat) (f : Context → Context) : (s.onContext id f).repairs = s.repairs := rfl
@[simp] theorem State.onContext_spares (s : State) (id : Nat) (f : Context → Context) : (s.onContext id f).spares = s.spares := rfl
@[simp] theorem State.onContext_lostCores (s : State) (id : Nat) (f : Context → Context) : (s.onContext id f).lostCores = s.lostCores := rfl
@[simp] theorem State.onContext_tier2Gone (s : State) (id : Nat) (f : Context → Context) : (s.onContext id f).tier2Gone = s.tier2Gone := rfl
@[simp] theorem State.onContext_link (s : State) (id : Nat) (f : Context → Context) : (s.onContext id f).link = s.link := rfl
@[simp] theorem State.onContext_deviceId (s : State) (id : Nat) (f : Context → Context) : (s.onContext id f).deviceId = s.deviceId := rfl
@[simp] theorem State.onContext_peersOn (s : State) (id : Nat) (f : Context → Context) : (s.onContext id f).peersOn = s.peersOn := rfl
@[simp] theorem State.onContext_fabric (s : State) (id : Nat) (f : Context → Context) : (s.onContext id f).fabric = s.fabric := rfl
@[simp] theorem State.onContext_ingress (s : State) (id : Nat) (f : Context → Context) : (s.onContext id f).ingress = s.ingress := rfl
@[simp] theorem State.onContext_tcm (s : State) (id : Nat) (f : Context → Context) : (s.onContext id f).tcm = s.tcm := rfl
@[simp] theorem State.onContext_worrid (s : State) (id : Nat) (f : Context → Context) : (s.onContext id f).worrid = s.worrid := rfl
@[simp] theorem State.onContext_dbg (s : State) (id : Nat) (f : Context → Context) : (s.onContext id f).dbg = s.dbg := rfl
@[simp] theorem State.onContext_devLog (s : State) (id : Nat) (f : Context → Context) : (s.onContext id f).devLog = s.devLog := rfl
@[simp] theorem State.onContext_uc (s : State) (id : Nat) (f : Context → Context) : (s.onContext id f).uc = s.uc := rfl
@[simp] theorem State.onContext_sec (s : State) (id : Nat) (f : Context → Context) : (s.onContext id f).sec = s.sec := rfl
@[simp] theorem State.onContext_ns (s : State) (id : Nat) (f : Context → Context) : (s.onContext id f).ns = s.ns := rfl
@[simp] theorem State.onContext_msgs (s : State) (id : Nat) (f : Context → Context) : (s.onContext id f).msgs = s.msgs := rfl

/-! ### onQuad -/
@[simp] theorem State.onQuad_variant (s : State) (q : Nat) (f : Quad → Quad) : (s.onQuad q f).variant = s.variant := rfl
@[simp] theorem State.onQuad_agenda (s : State) (q : Nat) (f : Quad → Quad) : (s.onQuad q f).agenda = s.agenda := rfl
@[simp] theorem State.onQuad_turn (s : State) (q : Nat) (f : Quad → Quad) : (s.onQuad q f).turn = s.turn := rfl
@[simp] theorem State.onQuad_ports (s : State) (q : Nat) (f : Quad → Quad) : (s.onQuad q f).ports = s.ports := rfl
@[simp] theorem State.onQuad_joining (s : State) (q : Nat) (f : Quad → Quad) : (s.onQuad q f).joining = s.joining := rfl
@[simp] theorem State.onQuad_arrivals (s : State) (q : Nat) (f : Quad → Quad) : (s.onQuad q f).arrivals = s.arrivals := rfl
@[simp] theorem State.onQuad_again (s : State) (q : Nat) (f : Quad → Quad) : (s.onQuad q f).again = s.again := rfl
@[simp] theorem State.onQuad_waits (s : State) (q : Nat) (f : Quad → Quad) : (s.onQuad q f).waits = s.waits := rfl
@[simp] theorem State.onQuad_nextId (s : State) (q : Nat) (f : Quad → Quad) : (s.onQuad q f).nextId = s.nextId := rfl
@[simp] theorem State.onQuad_freeCount (s : State) (q : Nat) (f : Quad → Quad) : (s.onQuad q f).freeCount = s.freeCount := rfl
@[simp] theorem State.onQuad_halted (s : State) (q : Nat) (f : Quad → Quad) : (s.onQuad q f).halted = s.halted := rfl
@[simp] theorem State.onQuad_issues (s : State) (q : Nat) (f : Quad → Quad) : (s.onQuad q f).issues = s.issues := rfl
@[simp] theorem State.onQuad_mem (s : State) (q : Nat) (f : Quad → Quad) : (s.onQuad q f).mem = s.mem := rfl
@[simp] theorem State.onQuad_sealed (s : State) (q : Nat) (f : Quad → Quad) : (s.onQuad q f).sealed = s.sealed := rfl
@[simp] theorem State.onQuad_sealing (s : State) (q : Nat) (f : Quad → Quad) : (s.onQuad q f).sealing = s.sealing := rfl
@[simp] theorem State.onQuad_reqs (s : State) (q : Nat) (f : Quad → Quad) : (s.onQuad q f).reqs = s.reqs := rfl
@[simp] theorem State.onQuad_gangs (s : State) (q : Nat) (f : Quad → Quad) : (s.onQuad q f).gangs = s.gangs := rfl
@[simp] theorem State.onQuad_teams (s : State) (q : Nat) (f : Quad → Quad) : (s.onQuad q f).teams = s.teams := rfl
@[simp] theorem State.onQuad_grids (s : State) (q : Nat) (f : Quad → Quad) : (s.onQuad q f).grids = s.grids := rfl
@[simp] theorem State.onQuad_contexts (s : State) (q : Nat) (f : Quad → Quad) : (s.onQuad q f).contexts = s.contexts := rfl
@[simp] theorem State.onQuad_vds (s : State) (q : Nat) (f : Quad → Quad) : (s.onQuad q f).vds = s.vds := rfl
@[simp] theorem State.onQuad_queues (s : State) (q : Nat) (f : Quad → Quad) : (s.onQuad q f).queues = s.queues := rfl
@[simp] theorem State.onQuad_pools (s : State) (q : Nat) (f : Quad → Quad) : (s.onQuad q f).pools = s.pools := rfl
@[simp] theorem State.onQuad_hqt (s : State) (q : Nat) (f : Quad → Quad) : (s.onQuad q f).hqt = s.hqt := rfl
@[simp] theorem State.onQuad_cmds (s : State) (q : Nat) (f : Quad → Quad) : (s.onQuad q f).cmds = s.cmds := rfl
@[simp] theorem State.onQuad_colls (s : State) (q : Nat) (f : Quad → Quad) : (s.onQuad q f).colls = s.colls := rfl
@[simp] theorem State.onQuad_bankOps (s : State) (q : Nat) (f : Quad → Quad) : (s.onQuad q f).bankOps = s.bankOps := rfl
@[simp] theorem State.onQuad_quads (s : State) (q : Nat) (f : Quad → Quad) : (s.onQuad q f).quads = modifyAt s.quads q f := rfl
@[simp] theorem State.onQuad_points (s : State) (q : Nat) (f : Quad → Quad) : (s.onQuad q f).points = s.points := rfl
@[simp] theorem State.onQuad_rate (s : State) (q : Nat) (f : Quad → Quad) : (s.onQuad q f).rate = s.rate := rfl
@[simp] theorem State.onQuad_cstore (s : State) (q : Nat) (f : Quad → Quad) : (s.onQuad q f).cstore = s.cstore := rfl
@[simp] theorem State.onQuad_hbm (s : State) (q : Nat) (f : Quad → Quad) : (s.onQuad q f).hbm = s.hbm := rfl
@[simp] theorem State.onQuad_mend (s : State) (q : Nat) (f : Quad → Quad) : (s.onQuad q f).mend = s.mend := rfl
@[simp] theorem State.onQuad_miss (s : State) (q : Nat) (f : Quad → Quad) : (s.onQuad q f).miss = s.miss := rfl
@[simp] theorem State.onQuad_rows (s : State) (q : Nat) (f : Quad → Quad) : (s.onQuad q f).rows = s.rows := rfl
@[simp] theorem State.onQuad_badLines (s : State) (q : Nat) (f : Quad → Quad) : (s.onQuad q f).badLines = s.badLines := rfl
@[simp] theorem State.onQuad_repairs (s : State) (q : Nat) (f : Quad → Quad) : (s.onQuad q f).repairs = s.repairs := rfl
@[simp] theorem State.onQuad_spares (s : State) (q : Nat) (f : Quad → Quad) : (s.onQuad q f).spares = s.spares := rfl
@[simp] theorem State.onQuad_lostCores (s : State) (q : Nat) (f : Quad → Quad) : (s.onQuad q f).lostCores = s.lostCores := rfl
@[simp] theorem State.onQuad_tier2Gone (s : State) (q : Nat) (f : Quad → Quad) : (s.onQuad q f).tier2Gone = s.tier2Gone := rfl
@[simp] theorem State.onQuad_link (s : State) (q : Nat) (f : Quad → Quad) : (s.onQuad q f).link = s.link := rfl
@[simp] theorem State.onQuad_deviceId (s : State) (q : Nat) (f : Quad → Quad) : (s.onQuad q f).deviceId = s.deviceId := rfl
@[simp] theorem State.onQuad_peersOn (s : State) (q : Nat) (f : Quad → Quad) : (s.onQuad q f).peersOn = s.peersOn := rfl
@[simp] theorem State.onQuad_fabric (s : State) (q : Nat) (f : Quad → Quad) : (s.onQuad q f).fabric = s.fabric := rfl
@[simp] theorem State.onQuad_ingress (s : State) (q : Nat) (f : Quad → Quad) : (s.onQuad q f).ingress = s.ingress := rfl
@[simp] theorem State.onQuad_tcm (s : State) (q : Nat) (f : Quad → Quad) : (s.onQuad q f).tcm = s.tcm := rfl
@[simp] theorem State.onQuad_worrid (s : State) (q : Nat) (f : Quad → Quad) : (s.onQuad q f).worrid = s.worrid := rfl
@[simp] theorem State.onQuad_dbg (s : State) (q : Nat) (f : Quad → Quad) : (s.onQuad q f).dbg = s.dbg := rfl
@[simp] theorem State.onQuad_devLog (s : State) (q : Nat) (f : Quad → Quad) : (s.onQuad q f).devLog = s.devLog := rfl
@[simp] theorem State.onQuad_uc (s : State) (q : Nat) (f : Quad → Quad) : (s.onQuad q f).uc = s.uc := rfl
@[simp] theorem State.onQuad_sec (s : State) (q : Nat) (f : Quad → Quad) : (s.onQuad q f).sec = s.sec := rfl
@[simp] theorem State.onQuad_ns (s : State) (q : Nat) (f : Quad → Quad) : (s.onQuad q f).ns = s.ns := rfl
@[simp] theorem State.onQuad_msgs (s : State) (q : Nat) (f : Quad → Quad) : (s.onQuad q f).msgs = s.msgs := rfl

/-! ### onVd -/
@[simp] theorem State.onVd_variant (s : State) (v : Nat) (f : VD → VD) : (s.onVd v f).variant = s.variant := rfl
@[simp] theorem State.onVd_agenda (s : State) (v : Nat) (f : VD → VD) : (s.onVd v f).agenda = s.agenda := rfl
@[simp] theorem State.onVd_turn (s : State) (v : Nat) (f : VD → VD) : (s.onVd v f).turn = s.turn := rfl
@[simp] theorem State.onVd_ports (s : State) (v : Nat) (f : VD → VD) : (s.onVd v f).ports = s.ports := rfl
@[simp] theorem State.onVd_joining (s : State) (v : Nat) (f : VD → VD) : (s.onVd v f).joining = s.joining := rfl
@[simp] theorem State.onVd_arrivals (s : State) (v : Nat) (f : VD → VD) : (s.onVd v f).arrivals = s.arrivals := rfl
@[simp] theorem State.onVd_again (s : State) (v : Nat) (f : VD → VD) : (s.onVd v f).again = s.again := rfl
@[simp] theorem State.onVd_waits (s : State) (v : Nat) (f : VD → VD) : (s.onVd v f).waits = s.waits := rfl
@[simp] theorem State.onVd_nextId (s : State) (v : Nat) (f : VD → VD) : (s.onVd v f).nextId = s.nextId := rfl
@[simp] theorem State.onVd_freeCount (s : State) (v : Nat) (f : VD → VD) : (s.onVd v f).freeCount = s.freeCount := rfl
@[simp] theorem State.onVd_halted (s : State) (v : Nat) (f : VD → VD) : (s.onVd v f).halted = s.halted := rfl
@[simp] theorem State.onVd_issues (s : State) (v : Nat) (f : VD → VD) : (s.onVd v f).issues = s.issues := rfl
@[simp] theorem State.onVd_mem (s : State) (v : Nat) (f : VD → VD) : (s.onVd v f).mem = s.mem := rfl
@[simp] theorem State.onVd_sealed (s : State) (v : Nat) (f : VD → VD) : (s.onVd v f).sealed = s.sealed := rfl
@[simp] theorem State.onVd_sealing (s : State) (v : Nat) (f : VD → VD) : (s.onVd v f).sealing = s.sealing := rfl
@[simp] theorem State.onVd_reqs (s : State) (v : Nat) (f : VD → VD) : (s.onVd v f).reqs = s.reqs := rfl
@[simp] theorem State.onVd_gangs (s : State) (v : Nat) (f : VD → VD) : (s.onVd v f).gangs = s.gangs := rfl
@[simp] theorem State.onVd_teams (s : State) (v : Nat) (f : VD → VD) : (s.onVd v f).teams = s.teams := rfl
@[simp] theorem State.onVd_grids (s : State) (v : Nat) (f : VD → VD) : (s.onVd v f).grids = s.grids := rfl
@[simp] theorem State.onVd_contexts (s : State) (v : Nat) (f : VD → VD) : (s.onVd v f).contexts = s.contexts := rfl
@[simp] theorem State.onVd_vds (s : State) (v : Nat) (f : VD → VD) : (s.onVd v f).vds = modifyAt s.vds v f := rfl
@[simp] theorem State.onVd_queues (s : State) (v : Nat) (f : VD → VD) : (s.onVd v f).queues = s.queues := rfl
@[simp] theorem State.onVd_pools (s : State) (v : Nat) (f : VD → VD) : (s.onVd v f).pools = s.pools := rfl
@[simp] theorem State.onVd_hqt (s : State) (v : Nat) (f : VD → VD) : (s.onVd v f).hqt = s.hqt := rfl
@[simp] theorem State.onVd_cmds (s : State) (v : Nat) (f : VD → VD) : (s.onVd v f).cmds = s.cmds := rfl
@[simp] theorem State.onVd_colls (s : State) (v : Nat) (f : VD → VD) : (s.onVd v f).colls = s.colls := rfl
@[simp] theorem State.onVd_bankOps (s : State) (v : Nat) (f : VD → VD) : (s.onVd v f).bankOps = s.bankOps := rfl
@[simp] theorem State.onVd_quads (s : State) (v : Nat) (f : VD → VD) : (s.onVd v f).quads = s.quads := rfl
@[simp] theorem State.onVd_points (s : State) (v : Nat) (f : VD → VD) : (s.onVd v f).points = s.points := rfl
@[simp] theorem State.onVd_rate (s : State) (v : Nat) (f : VD → VD) : (s.onVd v f).rate = s.rate := rfl
@[simp] theorem State.onVd_cstore (s : State) (v : Nat) (f : VD → VD) : (s.onVd v f).cstore = s.cstore := rfl
@[simp] theorem State.onVd_hbm (s : State) (v : Nat) (f : VD → VD) : (s.onVd v f).hbm = s.hbm := rfl
@[simp] theorem State.onVd_mend (s : State) (v : Nat) (f : VD → VD) : (s.onVd v f).mend = s.mend := rfl
@[simp] theorem State.onVd_miss (s : State) (v : Nat) (f : VD → VD) : (s.onVd v f).miss = s.miss := rfl
@[simp] theorem State.onVd_rows (s : State) (v : Nat) (f : VD → VD) : (s.onVd v f).rows = s.rows := rfl
@[simp] theorem State.onVd_badLines (s : State) (v : Nat) (f : VD → VD) : (s.onVd v f).badLines = s.badLines := rfl
@[simp] theorem State.onVd_repairs (s : State) (v : Nat) (f : VD → VD) : (s.onVd v f).repairs = s.repairs := rfl
@[simp] theorem State.onVd_spares (s : State) (v : Nat) (f : VD → VD) : (s.onVd v f).spares = s.spares := rfl
@[simp] theorem State.onVd_lostCores (s : State) (v : Nat) (f : VD → VD) : (s.onVd v f).lostCores = s.lostCores := rfl
@[simp] theorem State.onVd_tier2Gone (s : State) (v : Nat) (f : VD → VD) : (s.onVd v f).tier2Gone = s.tier2Gone := rfl
@[simp] theorem State.onVd_link (s : State) (v : Nat) (f : VD → VD) : (s.onVd v f).link = s.link := rfl
@[simp] theorem State.onVd_deviceId (s : State) (v : Nat) (f : VD → VD) : (s.onVd v f).deviceId = s.deviceId := rfl
@[simp] theorem State.onVd_peersOn (s : State) (v : Nat) (f : VD → VD) : (s.onVd v f).peersOn = s.peersOn := rfl
@[simp] theorem State.onVd_fabric (s : State) (v : Nat) (f : VD → VD) : (s.onVd v f).fabric = s.fabric := rfl
@[simp] theorem State.onVd_ingress (s : State) (v : Nat) (f : VD → VD) : (s.onVd v f).ingress = s.ingress := rfl
@[simp] theorem State.onVd_tcm (s : State) (v : Nat) (f : VD → VD) : (s.onVd v f).tcm = s.tcm := rfl
@[simp] theorem State.onVd_worrid (s : State) (v : Nat) (f : VD → VD) : (s.onVd v f).worrid = s.worrid := rfl
@[simp] theorem State.onVd_dbg (s : State) (v : Nat) (f : VD → VD) : (s.onVd v f).dbg = s.dbg := rfl
@[simp] theorem State.onVd_devLog (s : State) (v : Nat) (f : VD → VD) : (s.onVd v f).devLog = s.devLog := rfl
@[simp] theorem State.onVd_uc (s : State) (v : Nat) (f : VD → VD) : (s.onVd v f).uc = s.uc := rfl
@[simp] theorem State.onVd_sec (s : State) (v : Nat) (f : VD → VD) : (s.onVd v f).sec = s.sec := rfl
@[simp] theorem State.onVd_ns (s : State) (v : Nat) (f : VD → VD) : (s.onVd v f).ns = s.ns := rfl
@[simp] theorem State.onVd_msgs (s : State) (v : Nat) (f : VD → VD) : (s.onVd v f).msgs = s.msgs := rfl

/-! ### onQueue -/
@[simp] theorem State.onQueue_variant (s : State) (q : Nat) (f : Queue → Queue) : (s.onQueue q f).variant = s.variant := rfl
@[simp] theorem State.onQueue_agenda (s : State) (q : Nat) (f : Queue → Queue) : (s.onQueue q f).agenda = s.agenda := rfl
@[simp] theorem State.onQueue_turn (s : State) (q : Nat) (f : Queue → Queue) : (s.onQueue q f).turn = s.turn := rfl
@[simp] theorem State.onQueue_ports (s : State) (q : Nat) (f : Queue → Queue) : (s.onQueue q f).ports = s.ports := rfl
@[simp] theorem State.onQueue_joining (s : State) (q : Nat) (f : Queue → Queue) : (s.onQueue q f).joining = s.joining := rfl
@[simp] theorem State.onQueue_arrivals (s : State) (q : Nat) (f : Queue → Queue) : (s.onQueue q f).arrivals = s.arrivals := rfl
@[simp] theorem State.onQueue_again (s : State) (q : Nat) (f : Queue → Queue) : (s.onQueue q f).again = s.again := rfl
@[simp] theorem State.onQueue_waits (s : State) (q : Nat) (f : Queue → Queue) : (s.onQueue q f).waits = s.waits := rfl
@[simp] theorem State.onQueue_nextId (s : State) (q : Nat) (f : Queue → Queue) : (s.onQueue q f).nextId = s.nextId := rfl
@[simp] theorem State.onQueue_freeCount (s : State) (q : Nat) (f : Queue → Queue) : (s.onQueue q f).freeCount = s.freeCount := rfl
@[simp] theorem State.onQueue_halted (s : State) (q : Nat) (f : Queue → Queue) : (s.onQueue q f).halted = s.halted := rfl
@[simp] theorem State.onQueue_issues (s : State) (q : Nat) (f : Queue → Queue) : (s.onQueue q f).issues = s.issues := rfl
@[simp] theorem State.onQueue_mem (s : State) (q : Nat) (f : Queue → Queue) : (s.onQueue q f).mem = s.mem := rfl
@[simp] theorem State.onQueue_sealed (s : State) (q : Nat) (f : Queue → Queue) : (s.onQueue q f).sealed = s.sealed := rfl
@[simp] theorem State.onQueue_sealing (s : State) (q : Nat) (f : Queue → Queue) : (s.onQueue q f).sealing = s.sealing := rfl
@[simp] theorem State.onQueue_reqs (s : State) (q : Nat) (f : Queue → Queue) : (s.onQueue q f).reqs = s.reqs := rfl
@[simp] theorem State.onQueue_gangs (s : State) (q : Nat) (f : Queue → Queue) : (s.onQueue q f).gangs = s.gangs := rfl
@[simp] theorem State.onQueue_teams (s : State) (q : Nat) (f : Queue → Queue) : (s.onQueue q f).teams = s.teams := rfl
@[simp] theorem State.onQueue_grids (s : State) (q : Nat) (f : Queue → Queue) : (s.onQueue q f).grids = s.grids := rfl
@[simp] theorem State.onQueue_contexts (s : State) (q : Nat) (f : Queue → Queue) : (s.onQueue q f).contexts = s.contexts := rfl
@[simp] theorem State.onQueue_vds (s : State) (q : Nat) (f : Queue → Queue) : (s.onQueue q f).vds = s.vds := rfl
@[simp] theorem State.onQueue_queues (s : State) (q : Nat) (f : Queue → Queue) : (s.onQueue q f).queues = s.queues.map (fun x => if x.q == q then f x else x) := rfl
@[simp] theorem State.onQueue_pools (s : State) (q : Nat) (f : Queue → Queue) : (s.onQueue q f).pools = s.pools := rfl
@[simp] theorem State.onQueue_hqt (s : State) (q : Nat) (f : Queue → Queue) : (s.onQueue q f).hqt = s.hqt := rfl
@[simp] theorem State.onQueue_cmds (s : State) (q : Nat) (f : Queue → Queue) : (s.onQueue q f).cmds = s.cmds := rfl
@[simp] theorem State.onQueue_colls (s : State) (q : Nat) (f : Queue → Queue) : (s.onQueue q f).colls = s.colls := rfl
@[simp] theorem State.onQueue_bankOps (s : State) (q : Nat) (f : Queue → Queue) : (s.onQueue q f).bankOps = s.bankOps := rfl
@[simp] theorem State.onQueue_quads (s : State) (q : Nat) (f : Queue → Queue) : (s.onQueue q f).quads = s.quads := rfl
@[simp] theorem State.onQueue_points (s : State) (q : Nat) (f : Queue → Queue) : (s.onQueue q f).points = s.points := rfl
@[simp] theorem State.onQueue_rate (s : State) (q : Nat) (f : Queue → Queue) : (s.onQueue q f).rate = s.rate := rfl
@[simp] theorem State.onQueue_cstore (s : State) (q : Nat) (f : Queue → Queue) : (s.onQueue q f).cstore = s.cstore := rfl
@[simp] theorem State.onQueue_hbm (s : State) (q : Nat) (f : Queue → Queue) : (s.onQueue q f).hbm = s.hbm := rfl
@[simp] theorem State.onQueue_mend (s : State) (q : Nat) (f : Queue → Queue) : (s.onQueue q f).mend = s.mend := rfl
@[simp] theorem State.onQueue_miss (s : State) (q : Nat) (f : Queue → Queue) : (s.onQueue q f).miss = s.miss := rfl
@[simp] theorem State.onQueue_rows (s : State) (q : Nat) (f : Queue → Queue) : (s.onQueue q f).rows = s.rows := rfl
@[simp] theorem State.onQueue_badLines (s : State) (q : Nat) (f : Queue → Queue) : (s.onQueue q f).badLines = s.badLines := rfl
@[simp] theorem State.onQueue_repairs (s : State) (q : Nat) (f : Queue → Queue) : (s.onQueue q f).repairs = s.repairs := rfl
@[simp] theorem State.onQueue_spares (s : State) (q : Nat) (f : Queue → Queue) : (s.onQueue q f).spares = s.spares := rfl
@[simp] theorem State.onQueue_lostCores (s : State) (q : Nat) (f : Queue → Queue) : (s.onQueue q f).lostCores = s.lostCores := rfl
@[simp] theorem State.onQueue_tier2Gone (s : State) (q : Nat) (f : Queue → Queue) : (s.onQueue q f).tier2Gone = s.tier2Gone := rfl
@[simp] theorem State.onQueue_link (s : State) (q : Nat) (f : Queue → Queue) : (s.onQueue q f).link = s.link := rfl
@[simp] theorem State.onQueue_deviceId (s : State) (q : Nat) (f : Queue → Queue) : (s.onQueue q f).deviceId = s.deviceId := rfl
@[simp] theorem State.onQueue_peersOn (s : State) (q : Nat) (f : Queue → Queue) : (s.onQueue q f).peersOn = s.peersOn := rfl
@[simp] theorem State.onQueue_fabric (s : State) (q : Nat) (f : Queue → Queue) : (s.onQueue q f).fabric = s.fabric := rfl
@[simp] theorem State.onQueue_ingress (s : State) (q : Nat) (f : Queue → Queue) : (s.onQueue q f).ingress = s.ingress := rfl
@[simp] theorem State.onQueue_tcm (s : State) (q : Nat) (f : Queue → Queue) : (s.onQueue q f).tcm = s.tcm := rfl
@[simp] theorem State.onQueue_worrid (s : State) (q : Nat) (f : Queue → Queue) : (s.onQueue q f).worrid = s.worrid := rfl
@[simp] theorem State.onQueue_dbg (s : State) (q : Nat) (f : Queue → Queue) : (s.onQueue q f).dbg = s.dbg := rfl
@[simp] theorem State.onQueue_devLog (s : State) (q : Nat) (f : Queue → Queue) : (s.onQueue q f).devLog = s.devLog := rfl
@[simp] theorem State.onQueue_uc (s : State) (q : Nat) (f : Queue → Queue) : (s.onQueue q f).uc = s.uc := rfl
@[simp] theorem State.onQueue_sec (s : State) (q : Nat) (f : Queue → Queue) : (s.onQueue q f).sec = s.sec := rfl
@[simp] theorem State.onQueue_ns (s : State) (q : Nat) (f : Queue → Queue) : (s.onQueue q f).ns = s.ns := rfl
@[simp] theorem State.onQueue_msgs (s : State) (q : Nat) (f : Queue → Queue) : (s.onQueue q f).msgs = s.msgs := rfl

/-! ### onCmd -/
@[simp] theorem State.onCmd_variant (s : State) (id : Nat) (f : Cmd → Cmd) : (s.onCmd id f).variant = s.variant := rfl
@[simp] theorem State.onCmd_agenda (s : State) (id : Nat) (f : Cmd → Cmd) : (s.onCmd id f).agenda = s.agenda := rfl
@[simp] theorem State.onCmd_turn (s : State) (id : Nat) (f : Cmd → Cmd) : (s.onCmd id f).turn = s.turn := rfl
@[simp] theorem State.onCmd_ports (s : State) (id : Nat) (f : Cmd → Cmd) : (s.onCmd id f).ports = s.ports := rfl
@[simp] theorem State.onCmd_joining (s : State) (id : Nat) (f : Cmd → Cmd) : (s.onCmd id f).joining = s.joining := rfl
@[simp] theorem State.onCmd_arrivals (s : State) (id : Nat) (f : Cmd → Cmd) : (s.onCmd id f).arrivals = s.arrivals := rfl
@[simp] theorem State.onCmd_again (s : State) (id : Nat) (f : Cmd → Cmd) : (s.onCmd id f).again = s.again := rfl
@[simp] theorem State.onCmd_waits (s : State) (id : Nat) (f : Cmd → Cmd) : (s.onCmd id f).waits = s.waits := rfl
@[simp] theorem State.onCmd_nextId (s : State) (id : Nat) (f : Cmd → Cmd) : (s.onCmd id f).nextId = s.nextId := rfl
@[simp] theorem State.onCmd_freeCount (s : State) (id : Nat) (f : Cmd → Cmd) : (s.onCmd id f).freeCount = s.freeCount := rfl
@[simp] theorem State.onCmd_halted (s : State) (id : Nat) (f : Cmd → Cmd) : (s.onCmd id f).halted = s.halted := rfl
@[simp] theorem State.onCmd_issues (s : State) (id : Nat) (f : Cmd → Cmd) : (s.onCmd id f).issues = s.issues := rfl
@[simp] theorem State.onCmd_mem (s : State) (id : Nat) (f : Cmd → Cmd) : (s.onCmd id f).mem = s.mem := rfl
@[simp] theorem State.onCmd_sealed (s : State) (id : Nat) (f : Cmd → Cmd) : (s.onCmd id f).sealed = s.sealed := rfl
@[simp] theorem State.onCmd_sealing (s : State) (id : Nat) (f : Cmd → Cmd) : (s.onCmd id f).sealing = s.sealing := rfl
@[simp] theorem State.onCmd_reqs (s : State) (id : Nat) (f : Cmd → Cmd) : (s.onCmd id f).reqs = s.reqs := rfl
@[simp] theorem State.onCmd_gangs (s : State) (id : Nat) (f : Cmd → Cmd) : (s.onCmd id f).gangs = s.gangs := rfl
@[simp] theorem State.onCmd_teams (s : State) (id : Nat) (f : Cmd → Cmd) : (s.onCmd id f).teams = s.teams := rfl
@[simp] theorem State.onCmd_grids (s : State) (id : Nat) (f : Cmd → Cmd) : (s.onCmd id f).grids = s.grids := rfl
@[simp] theorem State.onCmd_contexts (s : State) (id : Nat) (f : Cmd → Cmd) : (s.onCmd id f).contexts = s.contexts := rfl
@[simp] theorem State.onCmd_vds (s : State) (id : Nat) (f : Cmd → Cmd) : (s.onCmd id f).vds = s.vds := rfl
@[simp] theorem State.onCmd_queues (s : State) (id : Nat) (f : Cmd → Cmd) : (s.onCmd id f).queues = s.queues := rfl
@[simp] theorem State.onCmd_pools (s : State) (id : Nat) (f : Cmd → Cmd) : (s.onCmd id f).pools = s.pools := rfl
@[simp] theorem State.onCmd_hqt (s : State) (id : Nat) (f : Cmd → Cmd) : (s.onCmd id f).hqt = s.hqt := rfl
@[simp] theorem State.onCmd_cmds (s : State) (id : Nat) (f : Cmd → Cmd) : (s.onCmd id f).cmds = s.cmds.map (fun c => if c.id == id then f c else c) := rfl
@[simp] theorem State.onCmd_colls (s : State) (id : Nat) (f : Cmd → Cmd) : (s.onCmd id f).colls = s.colls := rfl
@[simp] theorem State.onCmd_bankOps (s : State) (id : Nat) (f : Cmd → Cmd) : (s.onCmd id f).bankOps = s.bankOps := rfl
@[simp] theorem State.onCmd_quads (s : State) (id : Nat) (f : Cmd → Cmd) : (s.onCmd id f).quads = s.quads := rfl
@[simp] theorem State.onCmd_points (s : State) (id : Nat) (f : Cmd → Cmd) : (s.onCmd id f).points = s.points := rfl
@[simp] theorem State.onCmd_rate (s : State) (id : Nat) (f : Cmd → Cmd) : (s.onCmd id f).rate = s.rate := rfl
@[simp] theorem State.onCmd_cstore (s : State) (id : Nat) (f : Cmd → Cmd) : (s.onCmd id f).cstore = s.cstore := rfl
@[simp] theorem State.onCmd_hbm (s : State) (id : Nat) (f : Cmd → Cmd) : (s.onCmd id f).hbm = s.hbm := rfl
@[simp] theorem State.onCmd_mend (s : State) (id : Nat) (f : Cmd → Cmd) : (s.onCmd id f).mend = s.mend := rfl
@[simp] theorem State.onCmd_miss (s : State) (id : Nat) (f : Cmd → Cmd) : (s.onCmd id f).miss = s.miss := rfl
@[simp] theorem State.onCmd_rows (s : State) (id : Nat) (f : Cmd → Cmd) : (s.onCmd id f).rows = s.rows := rfl
@[simp] theorem State.onCmd_badLines (s : State) (id : Nat) (f : Cmd → Cmd) : (s.onCmd id f).badLines = s.badLines := rfl
@[simp] theorem State.onCmd_repairs (s : State) (id : Nat) (f : Cmd → Cmd) : (s.onCmd id f).repairs = s.repairs := rfl
@[simp] theorem State.onCmd_spares (s : State) (id : Nat) (f : Cmd → Cmd) : (s.onCmd id f).spares = s.spares := rfl
@[simp] theorem State.onCmd_lostCores (s : State) (id : Nat) (f : Cmd → Cmd) : (s.onCmd id f).lostCores = s.lostCores := rfl
@[simp] theorem State.onCmd_tier2Gone (s : State) (id : Nat) (f : Cmd → Cmd) : (s.onCmd id f).tier2Gone = s.tier2Gone := rfl
@[simp] theorem State.onCmd_link (s : State) (id : Nat) (f : Cmd → Cmd) : (s.onCmd id f).link = s.link := rfl
@[simp] theorem State.onCmd_deviceId (s : State) (id : Nat) (f : Cmd → Cmd) : (s.onCmd id f).deviceId = s.deviceId := rfl
@[simp] theorem State.onCmd_peersOn (s : State) (id : Nat) (f : Cmd → Cmd) : (s.onCmd id f).peersOn = s.peersOn := rfl
@[simp] theorem State.onCmd_fabric (s : State) (id : Nat) (f : Cmd → Cmd) : (s.onCmd id f).fabric = s.fabric := rfl
@[simp] theorem State.onCmd_ingress (s : State) (id : Nat) (f : Cmd → Cmd) : (s.onCmd id f).ingress = s.ingress := rfl
@[simp] theorem State.onCmd_tcm (s : State) (id : Nat) (f : Cmd → Cmd) : (s.onCmd id f).tcm = s.tcm := rfl
@[simp] theorem State.onCmd_worrid (s : State) (id : Nat) (f : Cmd → Cmd) : (s.onCmd id f).worrid = s.worrid := rfl
@[simp] theorem State.onCmd_dbg (s : State) (id : Nat) (f : Cmd → Cmd) : (s.onCmd id f).dbg = s.dbg := rfl
@[simp] theorem State.onCmd_devLog (s : State) (id : Nat) (f : Cmd → Cmd) : (s.onCmd id f).devLog = s.devLog := rfl
@[simp] theorem State.onCmd_uc (s : State) (id : Nat) (f : Cmd → Cmd) : (s.onCmd id f).uc = s.uc := rfl
@[simp] theorem State.onCmd_sec (s : State) (id : Nat) (f : Cmd → Cmd) : (s.onCmd id f).sec = s.sec := rfl
@[simp] theorem State.onCmd_ns (s : State) (id : Nat) (f : Cmd → Cmd) : (s.onCmd id f).ns = s.ns := rfl
@[simp] theorem State.onCmd_msgs (s : State) (id : Nat) (f : Cmd → Cmd) : (s.onCmd id f).msgs = s.msgs := rfl

/-! ### onIngress -/
@[simp] theorem State.onIngress_variant (s : State) (c : Nat) (f : Ingress → Ingress) : (s.onIngress c f).variant = s.variant := rfl
@[simp] theorem State.onIngress_agenda (s : State) (c : Nat) (f : Ingress → Ingress) : (s.onIngress c f).agenda = s.agenda := rfl
@[simp] theorem State.onIngress_turn (s : State) (c : Nat) (f : Ingress → Ingress) : (s.onIngress c f).turn = s.turn := rfl
@[simp] theorem State.onIngress_ports (s : State) (c : Nat) (f : Ingress → Ingress) : (s.onIngress c f).ports = s.ports := rfl
@[simp] theorem State.onIngress_joining (s : State) (c : Nat) (f : Ingress → Ingress) : (s.onIngress c f).joining = s.joining := rfl
@[simp] theorem State.onIngress_arrivals (s : State) (c : Nat) (f : Ingress → Ingress) : (s.onIngress c f).arrivals = s.arrivals := rfl
@[simp] theorem State.onIngress_again (s : State) (c : Nat) (f : Ingress → Ingress) : (s.onIngress c f).again = s.again := rfl
@[simp] theorem State.onIngress_waits (s : State) (c : Nat) (f : Ingress → Ingress) : (s.onIngress c f).waits = s.waits := rfl
@[simp] theorem State.onIngress_nextId (s : State) (c : Nat) (f : Ingress → Ingress) : (s.onIngress c f).nextId = s.nextId := rfl
@[simp] theorem State.onIngress_freeCount (s : State) (c : Nat) (f : Ingress → Ingress) : (s.onIngress c f).freeCount = s.freeCount := rfl
@[simp] theorem State.onIngress_halted (s : State) (c : Nat) (f : Ingress → Ingress) : (s.onIngress c f).halted = s.halted := rfl
@[simp] theorem State.onIngress_issues (s : State) (c : Nat) (f : Ingress → Ingress) : (s.onIngress c f).issues = s.issues := rfl
@[simp] theorem State.onIngress_mem (s : State) (c : Nat) (f : Ingress → Ingress) : (s.onIngress c f).mem = s.mem := rfl
@[simp] theorem State.onIngress_sealed (s : State) (c : Nat) (f : Ingress → Ingress) : (s.onIngress c f).sealed = s.sealed := rfl
@[simp] theorem State.onIngress_sealing (s : State) (c : Nat) (f : Ingress → Ingress) : (s.onIngress c f).sealing = s.sealing := rfl
@[simp] theorem State.onIngress_reqs (s : State) (c : Nat) (f : Ingress → Ingress) : (s.onIngress c f).reqs = s.reqs := rfl
@[simp] theorem State.onIngress_gangs (s : State) (c : Nat) (f : Ingress → Ingress) : (s.onIngress c f).gangs = s.gangs := rfl
@[simp] theorem State.onIngress_teams (s : State) (c : Nat) (f : Ingress → Ingress) : (s.onIngress c f).teams = s.teams := rfl
@[simp] theorem State.onIngress_grids (s : State) (c : Nat) (f : Ingress → Ingress) : (s.onIngress c f).grids = s.grids := rfl
@[simp] theorem State.onIngress_contexts (s : State) (c : Nat) (f : Ingress → Ingress) : (s.onIngress c f).contexts = s.contexts := rfl
@[simp] theorem State.onIngress_vds (s : State) (c : Nat) (f : Ingress → Ingress) : (s.onIngress c f).vds = s.vds := rfl
@[simp] theorem State.onIngress_queues (s : State) (c : Nat) (f : Ingress → Ingress) : (s.onIngress c f).queues = s.queues := rfl
@[simp] theorem State.onIngress_pools (s : State) (c : Nat) (f : Ingress → Ingress) : (s.onIngress c f).pools = s.pools := rfl
@[simp] theorem State.onIngress_hqt (s : State) (c : Nat) (f : Ingress → Ingress) : (s.onIngress c f).hqt = s.hqt := rfl
@[simp] theorem State.onIngress_cmds (s : State) (c : Nat) (f : Ingress → Ingress) : (s.onIngress c f).cmds = s.cmds := rfl
@[simp] theorem State.onIngress_colls (s : State) (c : Nat) (f : Ingress → Ingress) : (s.onIngress c f).colls = s.colls := rfl
@[simp] theorem State.onIngress_bankOps (s : State) (c : Nat) (f : Ingress → Ingress) : (s.onIngress c f).bankOps = s.bankOps := rfl
@[simp] theorem State.onIngress_quads (s : State) (c : Nat) (f : Ingress → Ingress) : (s.onIngress c f).quads = s.quads := rfl
@[simp] theorem State.onIngress_points (s : State) (c : Nat) (f : Ingress → Ingress) : (s.onIngress c f).points = s.points := rfl
@[simp] theorem State.onIngress_rate (s : State) (c : Nat) (f : Ingress → Ingress) : (s.onIngress c f).rate = s.rate := rfl
@[simp] theorem State.onIngress_cstore (s : State) (c : Nat) (f : Ingress → Ingress) : (s.onIngress c f).cstore = s.cstore := rfl
@[simp] theorem State.onIngress_hbm (s : State) (c : Nat) (f : Ingress → Ingress) : (s.onIngress c f).hbm = s.hbm := rfl
@[simp] theorem State.onIngress_mend (s : State) (c : Nat) (f : Ingress → Ingress) : (s.onIngress c f).mend = s.mend := rfl
@[simp] theorem State.onIngress_miss (s : State) (c : Nat) (f : Ingress → Ingress) : (s.onIngress c f).miss = s.miss := rfl
@[simp] theorem State.onIngress_rows (s : State) (c : Nat) (f : Ingress → Ingress) : (s.onIngress c f).rows = s.rows := rfl
@[simp] theorem State.onIngress_badLines (s : State) (c : Nat) (f : Ingress → Ingress) : (s.onIngress c f).badLines = s.badLines := rfl
@[simp] theorem State.onIngress_repairs (s : State) (c : Nat) (f : Ingress → Ingress) : (s.onIngress c f).repairs = s.repairs := rfl
@[simp] theorem State.onIngress_spares (s : State) (c : Nat) (f : Ingress → Ingress) : (s.onIngress c f).spares = s.spares := rfl
@[simp] theorem State.onIngress_lostCores (s : State) (c : Nat) (f : Ingress → Ingress) : (s.onIngress c f).lostCores = s.lostCores := rfl
@[simp] theorem State.onIngress_tier2Gone (s : State) (c : Nat) (f : Ingress → Ingress) : (s.onIngress c f).tier2Gone = s.tier2Gone := rfl
@[simp] theorem State.onIngress_link (s : State) (c : Nat) (f : Ingress → Ingress) : (s.onIngress c f).link = s.link := rfl
@[simp] theorem State.onIngress_deviceId (s : State) (c : Nat) (f : Ingress → Ingress) : (s.onIngress c f).deviceId = s.deviceId := rfl
@[simp] theorem State.onIngress_peersOn (s : State) (c : Nat) (f : Ingress → Ingress) : (s.onIngress c f).peersOn = s.peersOn := rfl
@[simp] theorem State.onIngress_fabric (s : State) (c : Nat) (f : Ingress → Ingress) : (s.onIngress c f).fabric = s.fabric := rfl
@[simp] theorem State.onIngress_ingress (s : State) (c : Nat) (f : Ingress → Ingress) : (s.onIngress c f).ingress = modifyAt s.ingress c f := rfl
@[simp] theorem State.onIngress_tcm (s : State) (c : Nat) (f : Ingress → Ingress) : (s.onIngress c f).tcm = s.tcm := rfl
@[simp] theorem State.onIngress_worrid (s : State) (c : Nat) (f : Ingress → Ingress) : (s.onIngress c f).worrid = s.worrid := rfl
@[simp] theorem State.onIngress_dbg (s : State) (c : Nat) (f : Ingress → Ingress) : (s.onIngress c f).dbg = s.dbg := rfl
@[simp] theorem State.onIngress_devLog (s : State) (c : Nat) (f : Ingress → Ingress) : (s.onIngress c f).devLog = s.devLog := rfl
@[simp] theorem State.onIngress_uc (s : State) (c : Nat) (f : Ingress → Ingress) : (s.onIngress c f).uc = s.uc := rfl
@[simp] theorem State.onIngress_sec (s : State) (c : Nat) (f : Ingress → Ingress) : (s.onIngress c f).sec = s.sec := rfl
@[simp] theorem State.onIngress_ns (s : State) (c : Nat) (f : Ingress → Ingress) : (s.onIngress c f).ns = s.ns := rfl
@[simp] theorem State.onIngress_msgs (s : State) (c : Nat) (f : Ingress → Ingress) : (s.onIngress c f).msgs = s.msgs := rfl

/-! ### tell -/
@[simp] theorem State.tell_variant (s : State) (m : Msg) : (s.tell m).variant = s.variant := rfl
@[simp] theorem State.tell_agenda (s : State) (m : Msg) : (s.tell m).agenda = s.agenda := rfl
@[simp] theorem State.tell_turn (s : State) (m : Msg) : (s.tell m).turn = s.turn := rfl
@[simp] theorem State.tell_ports (s : State) (m : Msg) : (s.tell m).ports = s.ports := rfl
@[simp] theorem State.tell_joining (s : State) (m : Msg) : (s.tell m).joining = s.joining := rfl
@[simp] theorem State.tell_arrivals (s : State) (m : Msg) : (s.tell m).arrivals = s.arrivals := rfl
@[simp] theorem State.tell_again (s : State) (m : Msg) : (s.tell m).again = s.again := rfl
@[simp] theorem State.tell_waits (s : State) (m : Msg) : (s.tell m).waits = s.waits := rfl
@[simp] theorem State.tell_nextId (s : State) (m : Msg) : (s.tell m).nextId = s.nextId := rfl
@[simp] theorem State.tell_freeCount (s : State) (m : Msg) : (s.tell m).freeCount = s.freeCount := rfl
@[simp] theorem State.tell_halted (s : State) (m : Msg) : (s.tell m).halted = s.halted := rfl
@[simp] theorem State.tell_issues (s : State) (m : Msg) : (s.tell m).issues = s.issues := rfl
@[simp] theorem State.tell_mem (s : State) (m : Msg) : (s.tell m).mem = s.mem := rfl
@[simp] theorem State.tell_sealed (s : State) (m : Msg) : (s.tell m).sealed = s.sealed := rfl
@[simp] theorem State.tell_sealing (s : State) (m : Msg) : (s.tell m).sealing = s.sealing := rfl
@[simp] theorem State.tell_reqs (s : State) (m : Msg) : (s.tell m).reqs = s.reqs := rfl
@[simp] theorem State.tell_gangs (s : State) (m : Msg) : (s.tell m).gangs = s.gangs := rfl
@[simp] theorem State.tell_teams (s : State) (m : Msg) : (s.tell m).teams = s.teams := rfl
@[simp] theorem State.tell_grids (s : State) (m : Msg) : (s.tell m).grids = s.grids := rfl
@[simp] theorem State.tell_contexts (s : State) (m : Msg) : (s.tell m).contexts = s.contexts := rfl
@[simp] theorem State.tell_vds (s : State) (m : Msg) : (s.tell m).vds = s.vds := rfl
@[simp] theorem State.tell_queues (s : State) (m : Msg) : (s.tell m).queues = s.queues := rfl
@[simp] theorem State.tell_pools (s : State) (m : Msg) : (s.tell m).pools = s.pools := rfl
@[simp] theorem State.tell_hqt (s : State) (m : Msg) : (s.tell m).hqt = s.hqt := rfl
@[simp] theorem State.tell_cmds (s : State) (m : Msg) : (s.tell m).cmds = s.cmds := rfl
@[simp] theorem State.tell_colls (s : State) (m : Msg) : (s.tell m).colls = s.colls := rfl
@[simp] theorem State.tell_bankOps (s : State) (m : Msg) : (s.tell m).bankOps = s.bankOps := rfl
@[simp] theorem State.tell_quads (s : State) (m : Msg) : (s.tell m).quads = s.quads := rfl
@[simp] theorem State.tell_points (s : State) (m : Msg) : (s.tell m).points = s.points := rfl
@[simp] theorem State.tell_rate (s : State) (m : Msg) : (s.tell m).rate = s.rate := rfl
@[simp] theorem State.tell_cstore (s : State) (m : Msg) : (s.tell m).cstore = s.cstore := rfl
@[simp] theorem State.tell_hbm (s : State) (m : Msg) : (s.tell m).hbm = s.hbm := rfl
@[simp] theorem State.tell_mend (s : State) (m : Msg) : (s.tell m).mend = s.mend := rfl
@[simp] theorem State.tell_miss (s : State) (m : Msg) : (s.tell m).miss = s.miss := rfl
@[simp] theorem State.tell_rows (s : State) (m : Msg) : (s.tell m).rows = s.rows := rfl
@[simp] theorem State.tell_badLines (s : State) (m : Msg) : (s.tell m).badLines = s.badLines := rfl
@[simp] theorem State.tell_repairs (s : State) (m : Msg) : (s.tell m).repairs = s.repairs := rfl
@[simp] theorem State.tell_spares (s : State) (m : Msg) : (s.tell m).spares = s.spares := rfl
@[simp] theorem State.tell_lostCores (s : State) (m : Msg) : (s.tell m).lostCores = s.lostCores := rfl
@[simp] theorem State.tell_tier2Gone (s : State) (m : Msg) : (s.tell m).tier2Gone = s.tier2Gone := rfl
@[simp] theorem State.tell_link (s : State) (m : Msg) : (s.tell m).link = s.link := rfl
@[simp] theorem State.tell_deviceId (s : State) (m : Msg) : (s.tell m).deviceId = s.deviceId := rfl
@[simp] theorem State.tell_peersOn (s : State) (m : Msg) : (s.tell m).peersOn = s.peersOn := rfl
@[simp] theorem State.tell_fabric (s : State) (m : Msg) : (s.tell m).fabric = s.fabric := rfl
@[simp] theorem State.tell_ingress (s : State) (m : Msg) : (s.tell m).ingress = s.ingress := rfl
@[simp] theorem State.tell_tcm (s : State) (m : Msg) : (s.tell m).tcm = s.tcm := rfl
@[simp] theorem State.tell_worrid (s : State) (m : Msg) : (s.tell m).worrid = s.worrid := rfl
@[simp] theorem State.tell_dbg (s : State) (m : Msg) : (s.tell m).dbg = s.dbg := rfl
@[simp] theorem State.tell_devLog (s : State) (m : Msg) : (s.tell m).devLog = s.devLog := rfl
@[simp] theorem State.tell_uc (s : State) (m : Msg) : (s.tell m).uc = s.uc := rfl
@[simp] theorem State.tell_sec (s : State) (m : Msg) : (s.tell m).sec = s.sec := rfl
@[simp] theorem State.tell_ns (s : State) (m : Msg) : (s.tell m).ns = s.ns := rfl
@[simp] theorem State.tell_msgs (s : State) (m : Msg) : (s.tell m).msgs = s.msgs ++ [m] := rfl

/-! ### later -/
@[simp] theorem State.later_variant (s : State) (work : List Instr) : (s.later work).variant = s.variant := rfl
@[simp] theorem State.later_agenda (s : State) (work : List Instr) : (s.later work).agenda = s.agenda ++ work := rfl
@[simp] theorem State.later_turn (s : State) (work : List Instr) : (s.later work).turn = s.turn := rfl
@[simp] theorem State.later_ports (s : State) (work : List Instr) : (s.later work).ports = s.ports := rfl
@[simp] theorem State.later_joining (s : State) (work : List Instr) : (s.later work).joining = s.joining := rfl
@[simp] theorem State.later_arrivals (s : State) (work : List Instr) : (s.later work).arrivals = s.arrivals := rfl
@[simp] theorem State.later_again (s : State) (work : List Instr) : (s.later work).again = s.again := rfl
@[simp] theorem State.later_waits (s : State) (work : List Instr) : (s.later work).waits = s.waits := rfl
@[simp] theorem State.later_nextId (s : State) (work : List Instr) : (s.later work).nextId = s.nextId := rfl
@[simp] theorem State.later_freeCount (s : State) (work : List Instr) : (s.later work).freeCount = s.freeCount := rfl
@[simp] theorem State.later_halted (s : State) (work : List Instr) : (s.later work).halted = s.halted := rfl
@[simp] theorem State.later_issues (s : State) (work : List Instr) : (s.later work).issues = s.issues := rfl
@[simp] theorem State.later_mem (s : State) (work : List Instr) : (s.later work).mem = s.mem := rfl
@[simp] theorem State.later_sealed (s : State) (work : List Instr) : (s.later work).sealed = s.sealed := rfl
@[simp] theorem State.later_sealing (s : State) (work : List Instr) : (s.later work).sealing = s.sealing := rfl
@[simp] theorem State.later_reqs (s : State) (work : List Instr) : (s.later work).reqs = s.reqs := rfl
@[simp] theorem State.later_gangs (s : State) (work : List Instr) : (s.later work).gangs = s.gangs := rfl
@[simp] theorem State.later_teams (s : State) (work : List Instr) : (s.later work).teams = s.teams := rfl
@[simp] theorem State.later_grids (s : State) (work : List Instr) : (s.later work).grids = s.grids := rfl
@[simp] theorem State.later_contexts (s : State) (work : List Instr) : (s.later work).contexts = s.contexts := rfl
@[simp] theorem State.later_vds (s : State) (work : List Instr) : (s.later work).vds = s.vds := rfl
@[simp] theorem State.later_queues (s : State) (work : List Instr) : (s.later work).queues = s.queues := rfl
@[simp] theorem State.later_pools (s : State) (work : List Instr) : (s.later work).pools = s.pools := rfl
@[simp] theorem State.later_hqt (s : State) (work : List Instr) : (s.later work).hqt = s.hqt := rfl
@[simp] theorem State.later_cmds (s : State) (work : List Instr) : (s.later work).cmds = s.cmds := rfl
@[simp] theorem State.later_colls (s : State) (work : List Instr) : (s.later work).colls = s.colls := rfl
@[simp] theorem State.later_bankOps (s : State) (work : List Instr) : (s.later work).bankOps = s.bankOps := rfl
@[simp] theorem State.later_quads (s : State) (work : List Instr) : (s.later work).quads = s.quads := rfl
@[simp] theorem State.later_points (s : State) (work : List Instr) : (s.later work).points = s.points := rfl
@[simp] theorem State.later_rate (s : State) (work : List Instr) : (s.later work).rate = s.rate := rfl
@[simp] theorem State.later_cstore (s : State) (work : List Instr) : (s.later work).cstore = s.cstore := rfl
@[simp] theorem State.later_hbm (s : State) (work : List Instr) : (s.later work).hbm = s.hbm := rfl
@[simp] theorem State.later_mend (s : State) (work : List Instr) : (s.later work).mend = s.mend := rfl
@[simp] theorem State.later_miss (s : State) (work : List Instr) : (s.later work).miss = s.miss := rfl
@[simp] theorem State.later_rows (s : State) (work : List Instr) : (s.later work).rows = s.rows := rfl
@[simp] theorem State.later_badLines (s : State) (work : List Instr) : (s.later work).badLines = s.badLines := rfl
@[simp] theorem State.later_repairs (s : State) (work : List Instr) : (s.later work).repairs = s.repairs := rfl
@[simp] theorem State.later_spares (s : State) (work : List Instr) : (s.later work).spares = s.spares := rfl
@[simp] theorem State.later_lostCores (s : State) (work : List Instr) : (s.later work).lostCores = s.lostCores := rfl
@[simp] theorem State.later_tier2Gone (s : State) (work : List Instr) : (s.later work).tier2Gone = s.tier2Gone := rfl
@[simp] theorem State.later_link (s : State) (work : List Instr) : (s.later work).link = s.link := rfl
@[simp] theorem State.later_deviceId (s : State) (work : List Instr) : (s.later work).deviceId = s.deviceId := rfl
@[simp] theorem State.later_peersOn (s : State) (work : List Instr) : (s.later work).peersOn = s.peersOn := rfl
@[simp] theorem State.later_fabric (s : State) (work : List Instr) : (s.later work).fabric = s.fabric := rfl
@[simp] theorem State.later_ingress (s : State) (work : List Instr) : (s.later work).ingress = s.ingress := rfl
@[simp] theorem State.later_tcm (s : State) (work : List Instr) : (s.later work).tcm = s.tcm := rfl
@[simp] theorem State.later_worrid (s : State) (work : List Instr) : (s.later work).worrid = s.worrid := rfl
@[simp] theorem State.later_dbg (s : State) (work : List Instr) : (s.later work).dbg = s.dbg := rfl
@[simp] theorem State.later_devLog (s : State) (work : List Instr) : (s.later work).devLog = s.devLog := rfl
@[simp] theorem State.later_uc (s : State) (work : List Instr) : (s.later work).uc = s.uc := rfl
@[simp] theorem State.later_sec (s : State) (work : List Instr) : (s.later work).sec = s.sec := rfl
@[simp] theorem State.later_ns (s : State) (work : List Instr) : (s.later work).ns = s.ns := rfl
@[simp] theorem State.later_msgs (s : State) (work : List Instr) : (s.later work).msgs = s.msgs := rfl

/-! ### charge -/
@[simp] theorem State.charge_variant (s : State) (v pj : Nat) : (s.charge v pj).variant = s.variant := rfl
@[simp] theorem State.charge_agenda (s : State) (v pj : Nat) : (s.charge v pj).agenda = s.agenda := rfl
@[simp] theorem State.charge_turn (s : State) (v pj : Nat) : (s.charge v pj).turn = s.turn := rfl
@[simp] theorem State.charge_ports (s : State) (v pj : Nat) : (s.charge v pj).ports = s.ports := rfl
@[simp] theorem State.charge_joining (s : State) (v pj : Nat) : (s.charge v pj).joining = s.joining := rfl
@[simp] theorem State.charge_arrivals (s : State) (v pj : Nat) : (s.charge v pj).arrivals = s.arrivals := rfl
@[simp] theorem State.charge_again (s : State) (v pj : Nat) : (s.charge v pj).again = s.again := rfl
@[simp] theorem State.charge_waits (s : State) (v pj : Nat) : (s.charge v pj).waits = s.waits := rfl
@[simp] theorem State.charge_nextId (s : State) (v pj : Nat) : (s.charge v pj).nextId = s.nextId := rfl
@[simp] theorem State.charge_freeCount (s : State) (v pj : Nat) : (s.charge v pj).freeCount = s.freeCount := rfl
@[simp] theorem State.charge_halted (s : State) (v pj : Nat) : (s.charge v pj).halted = s.halted := rfl
@[simp] theorem State.charge_issues (s : State) (v pj : Nat) : (s.charge v pj).issues = s.issues := rfl
@[simp] theorem State.charge_mem (s : State) (v pj : Nat) : (s.charge v pj).mem = s.mem := rfl
@[simp] theorem State.charge_sealed (s : State) (v pj : Nat) : (s.charge v pj).sealed = s.sealed := rfl
@[simp] theorem State.charge_sealing (s : State) (v pj : Nat) : (s.charge v pj).sealing = s.sealing := rfl
@[simp] theorem State.charge_reqs (s : State) (v pj : Nat) : (s.charge v pj).reqs = s.reqs := rfl
@[simp] theorem State.charge_gangs (s : State) (v pj : Nat) : (s.charge v pj).gangs = s.gangs := rfl
@[simp] theorem State.charge_teams (s : State) (v pj : Nat) : (s.charge v pj).teams = s.teams := rfl
@[simp] theorem State.charge_grids (s : State) (v pj : Nat) : (s.charge v pj).grids = s.grids := rfl
@[simp] theorem State.charge_contexts (s : State) (v pj : Nat) : (s.charge v pj).contexts = s.contexts := rfl
@[simp] theorem State.charge_vds (s : State) (v pj : Nat) : (s.charge v pj).vds = modifyAt s.vds v (fun d => { d with energy := d.energy + pj }) := rfl
@[simp] theorem State.charge_queues (s : State) (v pj : Nat) : (s.charge v pj).queues = s.queues := rfl
@[simp] theorem State.charge_pools (s : State) (v pj : Nat) : (s.charge v pj).pools = s.pools := rfl
@[simp] theorem State.charge_hqt (s : State) (v pj : Nat) : (s.charge v pj).hqt = s.hqt := rfl
@[simp] theorem State.charge_cmds (s : State) (v pj : Nat) : (s.charge v pj).cmds = s.cmds := rfl
@[simp] theorem State.charge_colls (s : State) (v pj : Nat) : (s.charge v pj).colls = s.colls := rfl
@[simp] theorem State.charge_bankOps (s : State) (v pj : Nat) : (s.charge v pj).bankOps = s.bankOps := rfl
@[simp] theorem State.charge_quads (s : State) (v pj : Nat) : (s.charge v pj).quads = s.quads := rfl
@[simp] theorem State.charge_points (s : State) (v pj : Nat) : (s.charge v pj).points = s.points := rfl
@[simp] theorem State.charge_rate (s : State) (v pj : Nat) : (s.charge v pj).rate = s.rate := rfl
@[simp] theorem State.charge_cstore (s : State) (v pj : Nat) : (s.charge v pj).cstore = s.cstore := rfl
@[simp] theorem State.charge_hbm (s : State) (v pj : Nat) : (s.charge v pj).hbm = s.hbm := rfl
@[simp] theorem State.charge_mend (s : State) (v pj : Nat) : (s.charge v pj).mend = s.mend := rfl
@[simp] theorem State.charge_miss (s : State) (v pj : Nat) : (s.charge v pj).miss = s.miss := rfl
@[simp] theorem State.charge_rows (s : State) (v pj : Nat) : (s.charge v pj).rows = s.rows := rfl
@[simp] theorem State.charge_badLines (s : State) (v pj : Nat) : (s.charge v pj).badLines = s.badLines := rfl
@[simp] theorem State.charge_repairs (s : State) (v pj : Nat) : (s.charge v pj).repairs = s.repairs := rfl
@[simp] theorem State.charge_spares (s : State) (v pj : Nat) : (s.charge v pj).spares = s.spares := rfl
@[simp] theorem State.charge_lostCores (s : State) (v pj : Nat) : (s.charge v pj).lostCores = s.lostCores := rfl
@[simp] theorem State.charge_tier2Gone (s : State) (v pj : Nat) : (s.charge v pj).tier2Gone = s.tier2Gone := rfl
@[simp] theorem State.charge_link (s : State) (v pj : Nat) : (s.charge v pj).link = s.link := rfl
@[simp] theorem State.charge_deviceId (s : State) (v pj : Nat) : (s.charge v pj).deviceId = s.deviceId := rfl
@[simp] theorem State.charge_peersOn (s : State) (v pj : Nat) : (s.charge v pj).peersOn = s.peersOn := rfl
@[simp] theorem State.charge_fabric (s : State) (v pj : Nat) : (s.charge v pj).fabric = s.fabric := rfl
@[simp] theorem State.charge_ingress (s : State) (v pj : Nat) : (s.charge v pj).ingress = s.ingress := rfl
@[simp] theorem State.charge_tcm (s : State) (v pj : Nat) : (s.charge v pj).tcm = s.tcm := rfl
@[simp] theorem State.charge_worrid (s : State) (v pj : Nat) : (s.charge v pj).worrid = s.worrid := rfl
@[simp] theorem State.charge_dbg (s : State) (v pj : Nat) : (s.charge v pj).dbg = s.dbg := rfl
@[simp] theorem State.charge_devLog (s : State) (v pj : Nat) : (s.charge v pj).devLog = s.devLog := rfl
@[simp] theorem State.charge_uc (s : State) (v pj : Nat) : (s.charge v pj).uc = s.uc := rfl
@[simp] theorem State.charge_sec (s : State) (v pj : Nat) : (s.charge v pj).sec = s.sec := rfl
@[simp] theorem State.charge_ns (s : State) (v pj : Nat) : (s.charge v pj).ns = s.ns := rfl
@[simp] theorem State.charge_msgs (s : State) (v pj : Nat) : (s.charge v pj).msgs = s.msgs := rfl

/-! ### store -/
@[simp] theorem State.store_variant (s : State) (key n x : Nat) : (s.store key n x).variant = s.variant := rfl
@[simp] theorem State.store_agenda (s : State) (key n x : Nat) : (s.store key n x).agenda = s.agenda := rfl
@[simp] theorem State.store_turn (s : State) (key n x : Nat) : (s.store key n x).turn = s.turn := rfl
@[simp] theorem State.store_ports (s : State) (key n x : Nat) : (s.store key n x).ports = s.ports := rfl
@[simp] theorem State.store_joining (s : State) (key n x : Nat) : (s.store key n x).joining = s.joining := rfl
@[simp] theorem State.store_arrivals (s : State) (key n x : Nat) : (s.store key n x).arrivals = s.arrivals := rfl
@[simp] theorem State.store_again (s : State) (key n x : Nat) : (s.store key n x).again = s.again := rfl
@[simp] theorem State.store_waits (s : State) (key n x : Nat) : (s.store key n x).waits = s.waits := rfl
@[simp] theorem State.store_nextId (s : State) (key n x : Nat) : (s.store key n x).nextId = s.nextId := rfl
@[simp] theorem State.store_freeCount (s : State) (key n x : Nat) : (s.store key n x).freeCount = s.freeCount := rfl
@[simp] theorem State.store_halted (s : State) (key n x : Nat) : (s.store key n x).halted = s.halted := rfl
@[simp] theorem State.store_issues (s : State) (key n x : Nat) : (s.store key n x).issues = s.issues := rfl
@[simp] theorem State.store_mem (s : State) (key n x : Nat) : (s.store key n x).mem = memStore s.mem key n x := rfl
@[simp] theorem State.store_sealed (s : State) (key n x : Nat) : (s.store key n x).sealed = s.sealed := rfl
@[simp] theorem State.store_sealing (s : State) (key n x : Nat) : (s.store key n x).sealing = s.sealing := rfl
@[simp] theorem State.store_reqs (s : State) (key n x : Nat) : (s.store key n x).reqs = s.reqs := rfl
@[simp] theorem State.store_gangs (s : State) (key n x : Nat) : (s.store key n x).gangs = s.gangs := rfl
@[simp] theorem State.store_teams (s : State) (key n x : Nat) : (s.store key n x).teams = s.teams := rfl
@[simp] theorem State.store_grids (s : State) (key n x : Nat) : (s.store key n x).grids = s.grids := rfl
@[simp] theorem State.store_contexts (s : State) (key n x : Nat) : (s.store key n x).contexts = s.contexts := rfl
@[simp] theorem State.store_vds (s : State) (key n x : Nat) : (s.store key n x).vds = s.vds := rfl
@[simp] theorem State.store_queues (s : State) (key n x : Nat) : (s.store key n x).queues = s.queues := rfl
@[simp] theorem State.store_pools (s : State) (key n x : Nat) : (s.store key n x).pools = s.pools := rfl
@[simp] theorem State.store_hqt (s : State) (key n x : Nat) : (s.store key n x).hqt = s.hqt := rfl
@[simp] theorem State.store_cmds (s : State) (key n x : Nat) : (s.store key n x).cmds = s.cmds := rfl
@[simp] theorem State.store_colls (s : State) (key n x : Nat) : (s.store key n x).colls = s.colls := rfl
@[simp] theorem State.store_bankOps (s : State) (key n x : Nat) : (s.store key n x).bankOps = s.bankOps := rfl
@[simp] theorem State.store_quads (s : State) (key n x : Nat) : (s.store key n x).quads = s.quads := rfl
@[simp] theorem State.store_points (s : State) (key n x : Nat) : (s.store key n x).points = s.points := rfl
@[simp] theorem State.store_rate (s : State) (key n x : Nat) : (s.store key n x).rate = s.rate := rfl
@[simp] theorem State.store_cstore (s : State) (key n x : Nat) : (s.store key n x).cstore = s.cstore := rfl
@[simp] theorem State.store_hbm (s : State) (key n x : Nat) : (s.store key n x).hbm = s.hbm := rfl
@[simp] theorem State.store_mend (s : State) (key n x : Nat) : (s.store key n x).mend = s.mend := rfl
@[simp] theorem State.store_miss (s : State) (key n x : Nat) : (s.store key n x).miss = s.miss := rfl
@[simp] theorem State.store_rows (s : State) (key n x : Nat) : (s.store key n x).rows = s.rows := rfl
@[simp] theorem State.store_badLines (s : State) (key n x : Nat) : (s.store key n x).badLines = s.badLines := rfl
@[simp] theorem State.store_repairs (s : State) (key n x : Nat) : (s.store key n x).repairs = s.repairs := rfl
@[simp] theorem State.store_spares (s : State) (key n x : Nat) : (s.store key n x).spares = s.spares := rfl
@[simp] theorem State.store_lostCores (s : State) (key n x : Nat) : (s.store key n x).lostCores = s.lostCores := rfl
@[simp] theorem State.store_tier2Gone (s : State) (key n x : Nat) : (s.store key n x).tier2Gone = s.tier2Gone := rfl
@[simp] theorem State.store_link (s : State) (key n x : Nat) : (s.store key n x).link = s.link := rfl
@[simp] theorem State.store_deviceId (s : State) (key n x : Nat) : (s.store key n x).deviceId = s.deviceId := rfl
@[simp] theorem State.store_peersOn (s : State) (key n x : Nat) : (s.store key n x).peersOn = s.peersOn := rfl
@[simp] theorem State.store_fabric (s : State) (key n x : Nat) : (s.store key n x).fabric = s.fabric := rfl
@[simp] theorem State.store_ingress (s : State) (key n x : Nat) : (s.store key n x).ingress = s.ingress := rfl
@[simp] theorem State.store_tcm (s : State) (key n x : Nat) : (s.store key n x).tcm = s.tcm := rfl
@[simp] theorem State.store_worrid (s : State) (key n x : Nat) : (s.store key n x).worrid = s.worrid := rfl
@[simp] theorem State.store_dbg (s : State) (key n x : Nat) : (s.store key n x).dbg = s.dbg := rfl
@[simp] theorem State.store_devLog (s : State) (key n x : Nat) : (s.store key n x).devLog = s.devLog := rfl
@[simp] theorem State.store_uc (s : State) (key n x : Nat) : (s.store key n x).uc = s.uc := rfl
@[simp] theorem State.store_sec (s : State) (key n x : Nat) : (s.store key n x).sec = s.sec := rfl
@[simp] theorem State.store_ns (s : State) (key n x : Nat) : (s.store key n x).ns = s.ns := rfl
@[simp] theorem State.store_msgs (s : State) (key n x : Nat) : (s.store key n x).msgs = s.msgs := rfl

/-! ### storeBytes -/
@[simp] theorem State.storeBytes_variant (s : State) (key : Nat) (bs : List Byte) : (s.storeBytes key bs).variant = s.variant := rfl
@[simp] theorem State.storeBytes_agenda (s : State) (key : Nat) (bs : List Byte) : (s.storeBytes key bs).agenda = s.agenda := rfl
@[simp] theorem State.storeBytes_turn (s : State) (key : Nat) (bs : List Byte) : (s.storeBytes key bs).turn = s.turn := rfl
@[simp] theorem State.storeBytes_ports (s : State) (key : Nat) (bs : List Byte) : (s.storeBytes key bs).ports = s.ports := rfl
@[simp] theorem State.storeBytes_joining (s : State) (key : Nat) (bs : List Byte) : (s.storeBytes key bs).joining = s.joining := rfl
@[simp] theorem State.storeBytes_arrivals (s : State) (key : Nat) (bs : List Byte) : (s.storeBytes key bs).arrivals = s.arrivals := rfl
@[simp] theorem State.storeBytes_again (s : State) (key : Nat) (bs : List Byte) : (s.storeBytes key bs).again = s.again := rfl
@[simp] theorem State.storeBytes_waits (s : State) (key : Nat) (bs : List Byte) : (s.storeBytes key bs).waits = s.waits := rfl
@[simp] theorem State.storeBytes_nextId (s : State) (key : Nat) (bs : List Byte) : (s.storeBytes key bs).nextId = s.nextId := rfl
@[simp] theorem State.storeBytes_freeCount (s : State) (key : Nat) (bs : List Byte) : (s.storeBytes key bs).freeCount = s.freeCount := rfl
@[simp] theorem State.storeBytes_halted (s : State) (key : Nat) (bs : List Byte) : (s.storeBytes key bs).halted = s.halted := rfl
@[simp] theorem State.storeBytes_issues (s : State) (key : Nat) (bs : List Byte) : (s.storeBytes key bs).issues = s.issues := rfl
@[simp] theorem State.storeBytes_mem (s : State) (key : Nat) (bs : List Byte) : (s.storeBytes key bs).mem = memStoreBytes s.mem key bs := rfl
@[simp] theorem State.storeBytes_sealed (s : State) (key : Nat) (bs : List Byte) : (s.storeBytes key bs).sealed = s.sealed := rfl
@[simp] theorem State.storeBytes_sealing (s : State) (key : Nat) (bs : List Byte) : (s.storeBytes key bs).sealing = s.sealing := rfl
@[simp] theorem State.storeBytes_reqs (s : State) (key : Nat) (bs : List Byte) : (s.storeBytes key bs).reqs = s.reqs := rfl
@[simp] theorem State.storeBytes_gangs (s : State) (key : Nat) (bs : List Byte) : (s.storeBytes key bs).gangs = s.gangs := rfl
@[simp] theorem State.storeBytes_teams (s : State) (key : Nat) (bs : List Byte) : (s.storeBytes key bs).teams = s.teams := rfl
@[simp] theorem State.storeBytes_grids (s : State) (key : Nat) (bs : List Byte) : (s.storeBytes key bs).grids = s.grids := rfl
@[simp] theorem State.storeBytes_contexts (s : State) (key : Nat) (bs : List Byte) : (s.storeBytes key bs).contexts = s.contexts := rfl
@[simp] theorem State.storeBytes_vds (s : State) (key : Nat) (bs : List Byte) : (s.storeBytes key bs).vds = s.vds := rfl
@[simp] theorem State.storeBytes_queues (s : State) (key : Nat) (bs : List Byte) : (s.storeBytes key bs).queues = s.queues := rfl
@[simp] theorem State.storeBytes_pools (s : State) (key : Nat) (bs : List Byte) : (s.storeBytes key bs).pools = s.pools := rfl
@[simp] theorem State.storeBytes_hqt (s : State) (key : Nat) (bs : List Byte) : (s.storeBytes key bs).hqt = s.hqt := rfl
@[simp] theorem State.storeBytes_cmds (s : State) (key : Nat) (bs : List Byte) : (s.storeBytes key bs).cmds = s.cmds := rfl
@[simp] theorem State.storeBytes_colls (s : State) (key : Nat) (bs : List Byte) : (s.storeBytes key bs).colls = s.colls := rfl
@[simp] theorem State.storeBytes_bankOps (s : State) (key : Nat) (bs : List Byte) : (s.storeBytes key bs).bankOps = s.bankOps := rfl
@[simp] theorem State.storeBytes_quads (s : State) (key : Nat) (bs : List Byte) : (s.storeBytes key bs).quads = s.quads := rfl
@[simp] theorem State.storeBytes_points (s : State) (key : Nat) (bs : List Byte) : (s.storeBytes key bs).points = s.points := rfl
@[simp] theorem State.storeBytes_rate (s : State) (key : Nat) (bs : List Byte) : (s.storeBytes key bs).rate = s.rate := rfl
@[simp] theorem State.storeBytes_cstore (s : State) (key : Nat) (bs : List Byte) : (s.storeBytes key bs).cstore = s.cstore := rfl
@[simp] theorem State.storeBytes_hbm (s : State) (key : Nat) (bs : List Byte) : (s.storeBytes key bs).hbm = s.hbm := rfl
@[simp] theorem State.storeBytes_mend (s : State) (key : Nat) (bs : List Byte) : (s.storeBytes key bs).mend = s.mend := rfl
@[simp] theorem State.storeBytes_miss (s : State) (key : Nat) (bs : List Byte) : (s.storeBytes key bs).miss = s.miss := rfl
@[simp] theorem State.storeBytes_rows (s : State) (key : Nat) (bs : List Byte) : (s.storeBytes key bs).rows = s.rows := rfl
@[simp] theorem State.storeBytes_badLines (s : State) (key : Nat) (bs : List Byte) : (s.storeBytes key bs).badLines = s.badLines := rfl
@[simp] theorem State.storeBytes_repairs (s : State) (key : Nat) (bs : List Byte) : (s.storeBytes key bs).repairs = s.repairs := rfl
@[simp] theorem State.storeBytes_spares (s : State) (key : Nat) (bs : List Byte) : (s.storeBytes key bs).spares = s.spares := rfl
@[simp] theorem State.storeBytes_lostCores (s : State) (key : Nat) (bs : List Byte) : (s.storeBytes key bs).lostCores = s.lostCores := rfl
@[simp] theorem State.storeBytes_tier2Gone (s : State) (key : Nat) (bs : List Byte) : (s.storeBytes key bs).tier2Gone = s.tier2Gone := rfl
@[simp] theorem State.storeBytes_link (s : State) (key : Nat) (bs : List Byte) : (s.storeBytes key bs).link = s.link := rfl
@[simp] theorem State.storeBytes_deviceId (s : State) (key : Nat) (bs : List Byte) : (s.storeBytes key bs).deviceId = s.deviceId := rfl
@[simp] theorem State.storeBytes_peersOn (s : State) (key : Nat) (bs : List Byte) : (s.storeBytes key bs).peersOn = s.peersOn := rfl
@[simp] theorem State.storeBytes_fabric (s : State) (key : Nat) (bs : List Byte) : (s.storeBytes key bs).fabric = s.fabric := rfl
@[simp] theorem State.storeBytes_ingress (s : State) (key : Nat) (bs : List Byte) : (s.storeBytes key bs).ingress = s.ingress := rfl
@[simp] theorem State.storeBytes_tcm (s : State) (key : Nat) (bs : List Byte) : (s.storeBytes key bs).tcm = s.tcm := rfl
@[simp] theorem State.storeBytes_worrid (s : State) (key : Nat) (bs : List Byte) : (s.storeBytes key bs).worrid = s.worrid := rfl
@[simp] theorem State.storeBytes_dbg (s : State) (key : Nat) (bs : List Byte) : (s.storeBytes key bs).dbg = s.dbg := rfl
@[simp] theorem State.storeBytes_devLog (s : State) (key : Nat) (bs : List Byte) : (s.storeBytes key bs).devLog = s.devLog := rfl
@[simp] theorem State.storeBytes_uc (s : State) (key : Nat) (bs : List Byte) : (s.storeBytes key bs).uc = s.uc := rfl
@[simp] theorem State.storeBytes_sec (s : State) (key : Nat) (bs : List Byte) : (s.storeBytes key bs).sec = s.sec := rfl
@[simp] theorem State.storeBytes_ns (s : State) (key : Nat) (bs : List Byte) : (s.storeBytes key bs).ns = s.ns := rfl
@[simp] theorem State.storeBytes_msgs (s : State) (key : Nat) (bs : List Byte) : (s.storeBytes key bs).msgs = s.msgs := rfl

/-! ### setUnit -/
@[simp] theorem State.setUnit_variant (s : State) (p : UnitPt) : (s.setUnit p).variant = s.variant := rfl
@[simp] theorem State.setUnit_agenda (s : State) (p : UnitPt) : (s.setUnit p).agenda = s.agenda := rfl
@[simp] theorem State.setUnit_turn (s : State) (p : UnitPt) : (s.setUnit p).turn = s.turn := rfl
@[simp] theorem State.setUnit_ports (s : State) (p : UnitPt) : (s.setUnit p).ports = s.ports := rfl
@[simp] theorem State.setUnit_joining (s : State) (p : UnitPt) : (s.setUnit p).joining = s.joining := rfl
@[simp] theorem State.setUnit_arrivals (s : State) (p : UnitPt) : (s.setUnit p).arrivals = s.arrivals := rfl
@[simp] theorem State.setUnit_again (s : State) (p : UnitPt) : (s.setUnit p).again = s.again := rfl
@[simp] theorem State.setUnit_waits (s : State) (p : UnitPt) : (s.setUnit p).waits = s.waits := rfl
@[simp] theorem State.setUnit_nextId (s : State) (p : UnitPt) : (s.setUnit p).nextId = s.nextId := rfl
@[simp] theorem State.setUnit_freeCount (s : State) (p : UnitPt) : (s.setUnit p).freeCount = s.freeCount := rfl
@[simp] theorem State.setUnit_halted (s : State) (p : UnitPt) : (s.setUnit p).halted = s.halted := rfl
@[simp] theorem State.setUnit_issues (s : State) (p : UnitPt) : (s.setUnit p).issues = s.issues := rfl
@[simp] theorem State.setUnit_mem (s : State) (p : UnitPt) : (s.setUnit p).mem = s.mem := rfl
@[simp] theorem State.setUnit_sealed (s : State) (p : UnitPt) : (s.setUnit p).sealed = s.sealed := rfl
@[simp] theorem State.setUnit_sealing (s : State) (p : UnitPt) : (s.setUnit p).sealing = s.sealing := rfl
@[simp] theorem State.setUnit_reqs (s : State) (p : UnitPt) : (s.setUnit p).reqs = s.reqs := rfl
@[simp] theorem State.setUnit_gangs (s : State) (p : UnitPt) : (s.setUnit p).gangs = s.gangs := rfl
@[simp] theorem State.setUnit_teams (s : State) (p : UnitPt) : (s.setUnit p).teams = s.teams := rfl
@[simp] theorem State.setUnit_grids (s : State) (p : UnitPt) : (s.setUnit p).grids = s.grids := rfl
@[simp] theorem State.setUnit_contexts (s : State) (p : UnitPt) : (s.setUnit p).contexts = s.contexts := rfl
@[simp] theorem State.setUnit_vds (s : State) (p : UnitPt) : (s.setUnit p).vds = s.vds := rfl
@[simp] theorem State.setUnit_queues (s : State) (p : UnitPt) : (s.setUnit p).queues = s.queues := rfl
@[simp] theorem State.setUnit_pools (s : State) (p : UnitPt) : (s.setUnit p).pools = s.pools := rfl
@[simp] theorem State.setUnit_hqt (s : State) (p : UnitPt) : (s.setUnit p).hqt = s.hqt := rfl
@[simp] theorem State.setUnit_cmds (s : State) (p : UnitPt) : (s.setUnit p).cmds = s.cmds := rfl
@[simp] theorem State.setUnit_colls (s : State) (p : UnitPt) : (s.setUnit p).colls = s.colls := rfl
@[simp] theorem State.setUnit_bankOps (s : State) (p : UnitPt) : (s.setUnit p).bankOps = s.bankOps := rfl
@[simp] theorem State.setUnit_quads (s : State) (p : UnitPt) : (s.setUnit p).quads = s.quads := rfl
@[simp] theorem State.setUnit_rate (s : State) (p : UnitPt) : (s.setUnit p).rate = s.rate := rfl
@[simp] theorem State.setUnit_cstore (s : State) (p : UnitPt) : (s.setUnit p).cstore = s.cstore := rfl
@[simp] theorem State.setUnit_hbm (s : State) (p : UnitPt) : (s.setUnit p).hbm = s.hbm := rfl
@[simp] theorem State.setUnit_mend (s : State) (p : UnitPt) : (s.setUnit p).mend = s.mend := rfl
@[simp] theorem State.setUnit_miss (s : State) (p : UnitPt) : (s.setUnit p).miss = s.miss := rfl
@[simp] theorem State.setUnit_rows (s : State) (p : UnitPt) : (s.setUnit p).rows = s.rows := rfl
@[simp] theorem State.setUnit_badLines (s : State) (p : UnitPt) : (s.setUnit p).badLines = s.badLines := rfl
@[simp] theorem State.setUnit_repairs (s : State) (p : UnitPt) : (s.setUnit p).repairs = s.repairs := rfl
@[simp] theorem State.setUnit_spares (s : State) (p : UnitPt) : (s.setUnit p).spares = s.spares := rfl
@[simp] theorem State.setUnit_lostCores (s : State) (p : UnitPt) : (s.setUnit p).lostCores = s.lostCores := rfl
@[simp] theorem State.setUnit_tier2Gone (s : State) (p : UnitPt) : (s.setUnit p).tier2Gone = s.tier2Gone := rfl
@[simp] theorem State.setUnit_link (s : State) (p : UnitPt) : (s.setUnit p).link = s.link := rfl
@[simp] theorem State.setUnit_deviceId (s : State) (p : UnitPt) : (s.setUnit p).deviceId = s.deviceId := rfl
@[simp] theorem State.setUnit_peersOn (s : State) (p : UnitPt) : (s.setUnit p).peersOn = s.peersOn := rfl
@[simp] theorem State.setUnit_fabric (s : State) (p : UnitPt) : (s.setUnit p).fabric = s.fabric := rfl
@[simp] theorem State.setUnit_ingress (s : State) (p : UnitPt) : (s.setUnit p).ingress = s.ingress := rfl
@[simp] theorem State.setUnit_tcm (s : State) (p : UnitPt) : (s.setUnit p).tcm = s.tcm := rfl
@[simp] theorem State.setUnit_worrid (s : State) (p : UnitPt) : (s.setUnit p).worrid = s.worrid := rfl
@[simp] theorem State.setUnit_dbg (s : State) (p : UnitPt) : (s.setUnit p).dbg = s.dbg := rfl
@[simp] theorem State.setUnit_devLog (s : State) (p : UnitPt) : (s.setUnit p).devLog = s.devLog := rfl
@[simp] theorem State.setUnit_uc (s : State) (p : UnitPt) : (s.setUnit p).uc = s.uc := rfl
@[simp] theorem State.setUnit_sec (s : State) (p : UnitPt) : (s.setUnit p).sec = s.sec := rfl
@[simp] theorem State.setUnit_ns (s : State) (p : UnitPt) : (s.setUnit p).ns = s.ns := rfl
@[simp] theorem State.setUnit_msgs (s : State) (p : UnitPt) : (s.setUnit p).msgs = s.msgs := rfl

/-! ### writeReg -/
@[simp] theorem Gang.writeReg_gid (g : Gang) (w : RegWrite) : (g.writeReg w).gid = g.gid := rfl
@[simp] theorem Gang.writeReg_team (g : Gang) (w : RegWrite) : (g.writeReg w).team = g.team := rfl
@[simp] theorem Gang.writeReg_gidx (g : Gang) (w : RegWrite) : (g.writeReg w).gidx = g.gidx := rfl
@[simp] theorem Gang.writeReg_quad (g : Gang) (w : RegWrite) : (g.writeReg w).quad = g.quad := rfl
@[simp] theorem Gang.writeReg_slot (g : Gang) (w : RegWrite) : (g.writeReg w).slot = g.slot := rfl
@[simp] theorem Gang.writeReg_life (g : Gang) (w : RegWrite) : (g.writeReg w).life = g.life := rfl
@[simp] theorem Gang.writeReg_lanes (g : Gang) (w : RegWrite) : (g.writeReg w).lanes = g.lanes := rfl
@[simp] theorem Gang.writeReg_serial (g : Gang) (w : RegWrite) : (g.writeReg w).serial = g.serial := rfl
@[simp] theorem Gang.writeReg_gmax (g : Gang) (w : RegWrite) : (g.writeReg w).gmax = g.gmax := rfl
@[simp] theorem Gang.writeReg_preds (g : Gang) (w : RegWrite) : (g.writeReg w).preds = g.preds := rfl
@[simp] theorem Gang.writeReg_kregs (g : Gang) (w : RegWrite) : (g.writeReg w).kregs = g.kregs := rfl
@[simp] theorem Gang.writeReg_mods (g : Gang) (w : RegWrite) : (g.writeReg w).mods = g.mods := rfl
@[simp] theorem Gang.writeReg_latch (g : Gang) (w : RegWrite) : (g.writeReg w).latch = g.latch := rfl
@[simp] theorem Gang.writeReg_status (g : Gang) (w : RegWrite) : (g.writeReg w).status = g.status := rfl
@[simp] theorem Gang.writeReg_clears (g : Gang) (w : RegWrite) : (g.writeReg w).clears = g.clears := rfl
@[simp] theorem Gang.writeReg_cause (g : Gang) (w : RegWrite) : (g.writeReg w).cause = g.cause := rfl
@[simp] theorem Gang.writeReg_epc (g : Gang) (w : RegWrite) : (g.writeReg w).epc = g.epc := rfl
@[simp] theorem Gang.writeReg_tval (g : Gang) (w : RegWrite) : (g.writeReg w).tval = g.tval := rfl
@[simp] theorem Gang.writeReg_tmask (g : Gang) (w : RegWrite) : (g.writeReg w).tmask = g.tmask := rfl
@[simp] theorem Gang.writeReg_hnd (g : Gang) (w : RegWrite) : (g.writeReg w).hnd = g.hnd := rfl
@[simp] theorem Gang.writeReg_shadow (g : Gang) (w : RegWrite) : (g.writeReg w).shadow = g.shadow := rfl
@[simp] theorem Gang.writeReg_ck (g : Gang) (w : RegWrite) : (g.writeReg w).ck = g.ck := rfl
@[simp] theorem Gang.writeReg_override (g : Gang) (w : RegWrite) : (g.writeReg w).override = g.override := rfl
@[simp] theorem Gang.writeReg_results (g : Gang) (w : RegWrite) : (g.writeReg w).results = g.results := rfl
@[simp] theorem Gang.writeReg_nextIssue (g : Gang) (w : RegWrite) : (g.writeReg w).nextIssue = g.nextIssue := rfl
@[simp] theorem Gang.writeReg_lastIssue (g : Gang) (w : RegWrite) : (g.writeReg w).lastIssue = g.lastIssue := rfl
@[simp] theorem Gang.writeReg_issued (g : Gang) (w : RegWrite) : (g.writeReg w).issued = g.issued := rfl
@[simp] theorem Gang.writeReg_holds (g : Gang) (w : RegWrite) : (g.writeReg w).holds = g.holds := rfl
@[simp] theorem Gang.writeReg_marker (g : Gang) (w : RegWrite) : (g.writeReg w).marker = g.marker := rfl
@[simp] theorem Gang.writeReg_preempt (g : Gang) (w : RegWrite) : (g.writeReg w).preempt = g.preempt := rfl
@[simp] theorem Gang.writeReg_preempted (g : Gang) (w : RegWrite) : (g.writeReg w).preempted = g.preempted := rfl
@[simp] theorem Gang.writeReg_fromRestore (g : Gang) (w : RegWrite) : (g.writeReg w).fromRestore = g.fromRestore := rfl
@[simp] theorem Gang.writeReg_frame (g : Gang) (w : RegWrite) : (g.writeReg w).frame = g.frame := rfl
@[simp] theorem Gang.writeReg_moff (g : Gang) (w : RegWrite) : (g.writeReg w).moff = g.moff := rfl
@[simp] theorem Gang.writeReg_entry (g : Gang) (w : RegWrite) : (g.writeReg w).entry = g.entry := rfl
@[simp] theorem Gang.writeReg_stopped (g : Gang) (w : RegWrite) : (g.writeReg w).stopped = g.stopped := rfl
@[simp] theorem Gang.writeReg_withdrawn (g : Gang) (w : RegWrite) : (g.writeReg w).withdrawn = g.withdrawn := rfl
@[simp] theorem Gang.writeReg_admitted (g : Gang) (w : RegWrite) : (g.writeReg w).admitted = g.admitted := rfl
@[simp] theorem Gang.writeReg_lastRate (g : Gang) (w : RegWrite) : (g.writeReg w).lastRate = g.lastRate := rfl
@[simp] theorem Gang.writeReg_formed (g : Gang) (w : RegWrite) : (g.writeReg w).formed = g.formed := rfl

/-! ### writePred -/
@[simp] theorem Gang.writePred_gid (g : Gang) (w : PredWrite) : (g.writePred w).gid = g.gid := rfl
@[simp] theorem Gang.writePred_team (g : Gang) (w : PredWrite) : (g.writePred w).team = g.team := rfl
@[simp] theorem Gang.writePred_gidx (g : Gang) (w : PredWrite) : (g.writePred w).gidx = g.gidx := rfl
@[simp] theorem Gang.writePred_quad (g : Gang) (w : PredWrite) : (g.writePred w).quad = g.quad := rfl
@[simp] theorem Gang.writePred_slot (g : Gang) (w : PredWrite) : (g.writePred w).slot = g.slot := rfl
@[simp] theorem Gang.writePred_life (g : Gang) (w : PredWrite) : (g.writePred w).life = g.life := rfl
@[simp] theorem Gang.writePred_lanes (g : Gang) (w : PredWrite) : (g.writePred w).lanes = g.lanes := rfl
@[simp] theorem Gang.writePred_serial (g : Gang) (w : PredWrite) : (g.writePred w).serial = g.serial := rfl
@[simp] theorem Gang.writePred_gmax (g : Gang) (w : PredWrite) : (g.writePred w).gmax = g.gmax := rfl
@[simp] theorem Gang.writePred_regs (g : Gang) (w : PredWrite) : (g.writePred w).regs = g.regs := rfl
@[simp] theorem Gang.writePred_kregs (g : Gang) (w : PredWrite) : (g.writePred w).kregs = g.kregs := rfl
@[simp] theorem Gang.writePred_mods (g : Gang) (w : PredWrite) : (g.writePred w).mods = g.mods := rfl
@[simp] theorem Gang.writePred_latch (g : Gang) (w : PredWrite) : (g.writePred w).latch = g.latch := rfl
@[simp] theorem Gang.writePred_status (g : Gang) (w : PredWrite) : (g.writePred w).status = g.status := rfl
@[simp] theorem Gang.writePred_clears (g : Gang) (w : PredWrite) : (g.writePred w).clears = g.clears := rfl
@[simp] theorem Gang.writePred_cause (g : Gang) (w : PredWrite) : (g.writePred w).cause = g.cause := rfl
@[simp] theorem Gang.writePred_epc (g : Gang) (w : PredWrite) : (g.writePred w).epc = g.epc := rfl
@[simp] theorem Gang.writePred_tval (g : Gang) (w : PredWrite) : (g.writePred w).tval = g.tval := rfl
@[simp] theorem Gang.writePred_tmask (g : Gang) (w : PredWrite) : (g.writePred w).tmask = g.tmask := rfl
@[simp] theorem Gang.writePred_hnd (g : Gang) (w : PredWrite) : (g.writePred w).hnd = g.hnd := rfl
@[simp] theorem Gang.writePred_shadow (g : Gang) (w : PredWrite) : (g.writePred w).shadow = g.shadow := rfl
@[simp] theorem Gang.writePred_ck (g : Gang) (w : PredWrite) : (g.writePred w).ck = g.ck := rfl
@[simp] theorem Gang.writePred_override (g : Gang) (w : PredWrite) : (g.writePred w).override = g.override := rfl
@[simp] theorem Gang.writePred_results (g : Gang) (w : PredWrite) : (g.writePred w).results = g.results := rfl
@[simp] theorem Gang.writePred_nextIssue (g : Gang) (w : PredWrite) : (g.writePred w).nextIssue = g.nextIssue := rfl
@[simp] theorem Gang.writePred_lastIssue (g : Gang) (w : PredWrite) : (g.writePred w).lastIssue = g.lastIssue := rfl
@[simp] theorem Gang.writePred_issued (g : Gang) (w : PredWrite) : (g.writePred w).issued = g.issued := rfl
@[simp] theorem Gang.writePred_holds (g : Gang) (w : PredWrite) : (g.writePred w).holds = g.holds := rfl
@[simp] theorem Gang.writePred_marker (g : Gang) (w : PredWrite) : (g.writePred w).marker = g.marker := rfl
@[simp] theorem Gang.writePred_preempt (g : Gang) (w : PredWrite) : (g.writePred w).preempt = g.preempt := rfl
@[simp] theorem Gang.writePred_preempted (g : Gang) (w : PredWrite) : (g.writePred w).preempted = g.preempted := rfl
@[simp] theorem Gang.writePred_fromRestore (g : Gang) (w : PredWrite) : (g.writePred w).fromRestore = g.fromRestore := rfl
@[simp] theorem Gang.writePred_frame (g : Gang) (w : PredWrite) : (g.writePred w).frame = g.frame := rfl
@[simp] theorem Gang.writePred_moff (g : Gang) (w : PredWrite) : (g.writePred w).moff = g.moff := rfl
@[simp] theorem Gang.writePred_entry (g : Gang) (w : PredWrite) : (g.writePred w).entry = g.entry := rfl
@[simp] theorem Gang.writePred_stopped (g : Gang) (w : PredWrite) : (g.writePred w).stopped = g.stopped := rfl
@[simp] theorem Gang.writePred_withdrawn (g : Gang) (w : PredWrite) : (g.writePred w).withdrawn = g.withdrawn := rfl
@[simp] theorem Gang.writePred_admitted (g : Gang) (w : PredWrite) : (g.writePred w).admitted = g.admitted := rfl
@[simp] theorem Gang.writePred_lastRate (g : Gang) (w : PredWrite) : (g.writePred w).lastRate = g.lastRate := rfl
@[simp] theorem Gang.writePred_formed (g : Gang) (w : PredWrite) : (g.writePred w).formed = g.formed := rfl

/-! ### writeMod -/
@[simp] theorem Gang.writeMod_gid (g : Gang) (w : Nat × ModReg) : (g.writeMod w).gid = g.gid := rfl
@[simp] theorem Gang.writeMod_team (g : Gang) (w : Nat × ModReg) : (g.writeMod w).team = g.team := rfl
@[simp] theorem Gang.writeMod_gidx (g : Gang) (w : Nat × ModReg) : (g.writeMod w).gidx = g.gidx := rfl
@[simp] theorem Gang.writeMod_quad (g : Gang) (w : Nat × ModReg) : (g.writeMod w).quad = g.quad := rfl
@[simp] theorem Gang.writeMod_slot (g : Gang) (w : Nat × ModReg) : (g.writeMod w).slot = g.slot := rfl
@[simp] theorem Gang.writeMod_life (g : Gang) (w : Nat × ModReg) : (g.writeMod w).life = g.life := rfl
@[simp] theorem Gang.writeMod_lanes (g : Gang) (w : Nat × ModReg) : (g.writeMod w).lanes = g.lanes := rfl
@[simp] theorem Gang.writeMod_serial (g : Gang) (w : Nat × ModReg) : (g.writeMod w).serial = g.serial := rfl
@[simp] theorem Gang.writeMod_gmax (g : Gang) (w : Nat × ModReg) : (g.writeMod w).gmax = g.gmax := rfl
@[simp] theorem Gang.writeMod_regs (g : Gang) (w : Nat × ModReg) : (g.writeMod w).regs = g.regs := rfl
@[simp] theorem Gang.writeMod_preds (g : Gang) (w : Nat × ModReg) : (g.writeMod w).preds = g.preds := rfl
@[simp] theorem Gang.writeMod_kregs (g : Gang) (w : Nat × ModReg) : (g.writeMod w).kregs = g.kregs := rfl
@[simp] theorem Gang.writeMod_latch (g : Gang) (w : Nat × ModReg) : (g.writeMod w).latch = g.latch := rfl
@[simp] theorem Gang.writeMod_status (g : Gang) (w : Nat × ModReg) : (g.writeMod w).status = g.status := rfl
@[simp] theorem Gang.writeMod_clears (g : Gang) (w : Nat × ModReg) : (g.writeMod w).clears = g.clears := rfl
@[simp] theorem Gang.writeMod_cause (g : Gang) (w : Nat × ModReg) : (g.writeMod w).cause = g.cause := rfl
@[simp] theorem Gang.writeMod_epc (g : Gang) (w : Nat × ModReg) : (g.writeMod w).epc = g.epc := rfl
@[simp] theorem Gang.writeMod_tval (g : Gang) (w : Nat × ModReg) : (g.writeMod w).tval = g.tval := rfl
@[simp] theorem Gang.writeMod_tmask (g : Gang) (w : Nat × ModReg) : (g.writeMod w).tmask = g.tmask := rfl
@[simp] theorem Gang.writeMod_hnd (g : Gang) (w : Nat × ModReg) : (g.writeMod w).hnd = g.hnd := rfl
@[simp] theorem Gang.writeMod_shadow (g : Gang) (w : Nat × ModReg) : (g.writeMod w).shadow = g.shadow := rfl
@[simp] theorem Gang.writeMod_ck (g : Gang) (w : Nat × ModReg) : (g.writeMod w).ck = g.ck := rfl
@[simp] theorem Gang.writeMod_override (g : Gang) (w : Nat × ModReg) : (g.writeMod w).override = g.override := rfl
@[simp] theorem Gang.writeMod_results (g : Gang) (w : Nat × ModReg) : (g.writeMod w).results = g.results := rfl
@[simp] theorem Gang.writeMod_nextIssue (g : Gang) (w : Nat × ModReg) : (g.writeMod w).nextIssue = g.nextIssue := rfl
@[simp] theorem Gang.writeMod_lastIssue (g : Gang) (w : Nat × ModReg) : (g.writeMod w).lastIssue = g.lastIssue := rfl
@[simp] theorem Gang.writeMod_issued (g : Gang) (w : Nat × ModReg) : (g.writeMod w).issued = g.issued := rfl
@[simp] theorem Gang.writeMod_holds (g : Gang) (w : Nat × ModReg) : (g.writeMod w).holds = g.holds := rfl
@[simp] theorem Gang.writeMod_marker (g : Gang) (w : Nat × ModReg) : (g.writeMod w).marker = g.marker := rfl
@[simp] theorem Gang.writeMod_preempt (g : Gang) (w : Nat × ModReg) : (g.writeMod w).preempt = g.preempt := rfl
@[simp] theorem Gang.writeMod_preempted (g : Gang) (w : Nat × ModReg) : (g.writeMod w).preempted = g.preempted := rfl
@[simp] theorem Gang.writeMod_fromRestore (g : Gang) (w : Nat × ModReg) : (g.writeMod w).fromRestore = g.fromRestore := rfl
@[simp] theorem Gang.writeMod_frame (g : Gang) (w : Nat × ModReg) : (g.writeMod w).frame = g.frame := rfl
@[simp] theorem Gang.writeMod_moff (g : Gang) (w : Nat × ModReg) : (g.writeMod w).moff = g.moff := rfl
@[simp] theorem Gang.writeMod_entry (g : Gang) (w : Nat × ModReg) : (g.writeMod w).entry = g.entry := rfl
@[simp] theorem Gang.writeMod_stopped (g : Gang) (w : Nat × ModReg) : (g.writeMod w).stopped = g.stopped := rfl
@[simp] theorem Gang.writeMod_withdrawn (g : Gang) (w : Nat × ModReg) : (g.writeMod w).withdrawn = g.withdrawn := rfl
@[simp] theorem Gang.writeMod_admitted (g : Gang) (w : Nat × ModReg) : (g.writeMod w).admitted = g.admitted := rfl
@[simp] theorem Gang.writeMod_lastRate (g : Gang) (w : Nat × ModReg) : (g.writeMod w).lastRate = g.lastRate := rfl
@[simp] theorem Gang.writeMod_formed (g : Gang) (w : Nat × ModReg) : (g.writeMod w).formed = g.formed := rfl

/-! ### markReg -/
@[simp] theorem Gang.markReg_gid (g : Gang) (n : Nat) (m : ErrMark) : (g.markReg n m).gid = g.gid := rfl
@[simp] theorem Gang.markReg_team (g : Gang) (n : Nat) (m : ErrMark) : (g.markReg n m).team = g.team := rfl
@[simp] theorem Gang.markReg_gidx (g : Gang) (n : Nat) (m : ErrMark) : (g.markReg n m).gidx = g.gidx := rfl
@[simp] theorem Gang.markReg_quad (g : Gang) (n : Nat) (m : ErrMark) : (g.markReg n m).quad = g.quad := rfl
@[simp] theorem Gang.markReg_slot (g : Gang) (n : Nat) (m : ErrMark) : (g.markReg n m).slot = g.slot := rfl
@[simp] theorem Gang.markReg_life (g : Gang) (n : Nat) (m : ErrMark) : (g.markReg n m).life = g.life := rfl
@[simp] theorem Gang.markReg_lanes (g : Gang) (n : Nat) (m : ErrMark) : (g.markReg n m).lanes = g.lanes := rfl
@[simp] theorem Gang.markReg_serial (g : Gang) (n : Nat) (m : ErrMark) : (g.markReg n m).serial = g.serial := rfl
@[simp] theorem Gang.markReg_gmax (g : Gang) (n : Nat) (m : ErrMark) : (g.markReg n m).gmax = g.gmax := rfl
@[simp] theorem Gang.markReg_preds (g : Gang) (n : Nat) (m : ErrMark) : (g.markReg n m).preds = g.preds := rfl
@[simp] theorem Gang.markReg_kregs (g : Gang) (n : Nat) (m : ErrMark) : (g.markReg n m).kregs = g.kregs := rfl
@[simp] theorem Gang.markReg_mods (g : Gang) (n : Nat) (m : ErrMark) : (g.markReg n m).mods = g.mods := rfl
@[simp] theorem Gang.markReg_latch (g : Gang) (n : Nat) (m : ErrMark) : (g.markReg n m).latch = g.latch := rfl
@[simp] theorem Gang.markReg_status (g : Gang) (n : Nat) (m : ErrMark) : (g.markReg n m).status = g.status := rfl
@[simp] theorem Gang.markReg_clears (g : Gang) (n : Nat) (m : ErrMark) : (g.markReg n m).clears = g.clears := rfl
@[simp] theorem Gang.markReg_cause (g : Gang) (n : Nat) (m : ErrMark) : (g.markReg n m).cause = g.cause := rfl
@[simp] theorem Gang.markReg_epc (g : Gang) (n : Nat) (m : ErrMark) : (g.markReg n m).epc = g.epc := rfl
@[simp] theorem Gang.markReg_tval (g : Gang) (n : Nat) (m : ErrMark) : (g.markReg n m).tval = g.tval := rfl
@[simp] theorem Gang.markReg_tmask (g : Gang) (n : Nat) (m : ErrMark) : (g.markReg n m).tmask = g.tmask := rfl
@[simp] theorem Gang.markReg_hnd (g : Gang) (n : Nat) (m : ErrMark) : (g.markReg n m).hnd = g.hnd := rfl
@[simp] theorem Gang.markReg_shadow (g : Gang) (n : Nat) (m : ErrMark) : (g.markReg n m).shadow = g.shadow := rfl
@[simp] theorem Gang.markReg_ck (g : Gang) (n : Nat) (m : ErrMark) : (g.markReg n m).ck = g.ck := rfl
@[simp] theorem Gang.markReg_override (g : Gang) (n : Nat) (m : ErrMark) : (g.markReg n m).override = g.override := rfl
@[simp] theorem Gang.markReg_results (g : Gang) (n : Nat) (m : ErrMark) : (g.markReg n m).results = g.results := rfl
@[simp] theorem Gang.markReg_nextIssue (g : Gang) (n : Nat) (m : ErrMark) : (g.markReg n m).nextIssue = g.nextIssue := rfl
@[simp] theorem Gang.markReg_lastIssue (g : Gang) (n : Nat) (m : ErrMark) : (g.markReg n m).lastIssue = g.lastIssue := rfl
@[simp] theorem Gang.markReg_issued (g : Gang) (n : Nat) (m : ErrMark) : (g.markReg n m).issued = g.issued := rfl
@[simp] theorem Gang.markReg_holds (g : Gang) (n : Nat) (m : ErrMark) : (g.markReg n m).holds = g.holds := rfl
@[simp] theorem Gang.markReg_marker (g : Gang) (n : Nat) (m : ErrMark) : (g.markReg n m).marker = g.marker := rfl
@[simp] theorem Gang.markReg_preempt (g : Gang) (n : Nat) (m : ErrMark) : (g.markReg n m).preempt = g.preempt := rfl
@[simp] theorem Gang.markReg_preempted (g : Gang) (n : Nat) (m : ErrMark) : (g.markReg n m).preempted = g.preempted := rfl
@[simp] theorem Gang.markReg_fromRestore (g : Gang) (n : Nat) (m : ErrMark) : (g.markReg n m).fromRestore = g.fromRestore := rfl
@[simp] theorem Gang.markReg_frame (g : Gang) (n : Nat) (m : ErrMark) : (g.markReg n m).frame = g.frame := rfl
@[simp] theorem Gang.markReg_moff (g : Gang) (n : Nat) (m : ErrMark) : (g.markReg n m).moff = g.moff := rfl
@[simp] theorem Gang.markReg_entry (g : Gang) (n : Nat) (m : ErrMark) : (g.markReg n m).entry = g.entry := rfl
@[simp] theorem Gang.markReg_stopped (g : Gang) (n : Nat) (m : ErrMark) : (g.markReg n m).stopped = g.stopped := rfl
@[simp] theorem Gang.markReg_withdrawn (g : Gang) (n : Nat) (m : ErrMark) : (g.markReg n m).withdrawn = g.withdrawn := rfl
@[simp] theorem Gang.markReg_admitted (g : Gang) (n : Nat) (m : ErrMark) : (g.markReg n m).admitted = g.admitted := rfl
@[simp] theorem Gang.markReg_lastRate (g : Gang) (n : Nat) (m : ErrMark) : (g.markReg n m).lastRate = g.lastRate := rfl
@[simp] theorem Gang.markReg_formed (g : Gang) (n : Nat) (m : ErrMark) : (g.markReg n m).formed = g.formed := rfl

end Sys2Proof.Machine
end

