-- ==== Sys2Proof/Laws/Memory.lean ====
section
/-!
SUPPORT. Memory: every operation keeps the canonical form, a read after a write, and that a canonical memory is determined by
what it reads as (log 4, log 5).
-/
namespace Sys2Proof.Machine
open Sys2Proof

/-! ### The canonical form -/

theorem memWfFrom_mono {m : List Host.Cell} {i j : Nat} (h : i ≤ j) (hw : memWfFrom j m = true) : memWfFrom i m = true := by
  cases m with
  | nil => rfl
  | cons c m => grind [memWfFrom]

/-- A canonical memory reads blank below its lower bound. -/
theorem memRead_below {m : List Host.Cell} {low a : Nat} (hw : memWfFrom low m = true) (h : a < low) : memRead m a = memBlank := by
  cases m with
  | nil => rfl
  | cons c m => simp [memWfFrom] at hw; grind [memRead]

/-- A write keeps the canonical form. -/
theorem memWfFrom_memWrite {m : List Host.Cell} {low a : Nat} (b : Byte) (hw : memWfFrom low m = true) (h : low ≤ a) :
    memWfFrom low (memWrite m a b) = true := by
  induction m generalizing low with
  | nil => grind [memWrite, memWfFrom]
  | cons c m ih =>
    obtain ⟨k, x⟩ := c
    simp only [memWfFrom, Bool.and_eq_true, decide_eq_true_eq] at hw
    simp only [memWrite]
    split
    · grind [memWfFrom]
    · split
      · split
        · exact memWfFrom_mono (by omega) hw.2
        · grind [memWfFrom]
      · simp only [memWfFrom, Bool.and_eq_true, decide_eq_true_eq]
        exact ⟨hw.1, ih hw.2 (by omega)⟩

/-- A write keeps the canonical form. -/
theorem memWrite_wf {m : List Host.Cell} (a : Nat) (b : Byte) (hw : Memory.wf m = true) : Memory.wf (memWrite m a b) = true :=
  memWfFrom_memWrite b hw (Nat.zero_le a)

/-- Storing a number keeps the canonical form. -/
theorem memStore_wf {m : List Host.Cell} (a n x : Nat) (hw : Memory.wf m = true) : Memory.wf (memStore m a n x) = true := by
  induction n generalizing m a x with
  | zero => exact hw
  | succ n ih => exact ih _ _ (memWrite_wf _ _ hw)

/-- Storing bytes keeps the canonical form. -/
theorem memStoreBytes_wf {m : List Host.Cell} (a : Nat) (bs : List Byte) (hw : Memory.wf m = true) :
    Memory.wf (memStoreBytes m a bs) = true := by
  induction bs generalizing m a with
  | nil => exact hw
  | cons b bs ih => exact ih _ (memWrite_wf _ _ hw)

/-- Forgetting cells keeps the canonical form. -/
theorem memWfFrom_filter {m : List Host.Cell} {low : Nat} (p : Host.Cell → Bool) (hw : memWfFrom low m = true) :
    memWfFrom low (m.filter p) = true := by
  induction m generalizing low with
  | nil => rfl
  | cons c m ih =>
    obtain ⟨k, x⟩ := c
    simp only [memWfFrom, Bool.and_eq_true, decide_eq_true_eq] at hw
    simp only [List.filter_cons]
    split
    · simp only [memWfFrom, Bool.and_eq_true, decide_eq_true_eq]
      exact ⟨hw.1, ih hw.2⟩
    · exact memWfFrom_mono (by omega) (ih hw.2)

/-- Forgetting cells keeps the canonical form. -/
theorem filter_wf {m : List Host.Cell} (p : Host.Cell → Bool) (hw : Memory.wf m = true) : Memory.wf (m.filter p) = true :=
  memWfFrom_filter p hw

/-- Nothing written is canonical. -/
@[simp] theorem nil_wf : Memory.wf [] = true := rfl

/-! ### Reading after writing -/

/-- A byte reads as it was last written. -/
@[simp] theorem memRead_memWrite_same {m : List Host.Cell} {low : Nat} (a : Nat) (b : Byte) (hw : memWfFrom low m = true) :
    memRead (memWrite m a b) a = b := by
  induction m generalizing low with
  | nil => grind [memWrite, memRead]
  | cons c m ih =>
    obtain ⟨k, x⟩ := c
    simp only [memWfFrom, Bool.and_eq_true, decide_eq_true_eq] at hw
    simp only [memWrite]
    split
    · grind [memRead]
    · split
      · split
        · next h1 h2 h3 => subst h2; rw [memRead_below hw.2 (by omega), h3]
        · grind [memRead]
      · next h1 h2 => rw [memRead, if_neg h2, if_neg h1]; exact ih hw.2

/-- A write leaves every other byte alone. -/
theorem memRead_memWrite_other {m : List Host.Cell} {low a c : Nat} (b : Byte) (hw : memWfFrom low m = true) (h : c ≠ a) :
    memRead (memWrite m a b) c = memRead m c := by
  induction m generalizing low with
  | nil => grind [memWrite, memRead]
  | cons e m ih =>
    obtain ⟨k, x⟩ := e
    simp only [memWfFrom, Bool.and_eq_true, decide_eq_true_eq] at hw
    simp only [memWrite]
    split
    · grind [memRead]
    · split
      · split
        · next h1 h2 h3 =>
          subst h2
          rw [memRead, if_neg h]
          split
          · exact memRead_below hw.2 (by omega)
          · rfl
        · grind [memRead]
      · simp only [memRead]; rw [ih hw.2]

/-- Storing n bytes leaves every byte outside them alone. -/
theorem memRead_memStore_outside {m : List Host.Cell} {a n c : Nat} (x : Nat) (hw : Memory.wf m = true) (h : c < a ∨ a + n ≤ c) :
    memRead (memStore m a n x) c = memRead m c := by
  induction n generalizing m a x with
  | zero => rfl
  | succ n ih =>
    rw [memStore, ih _ (memWrite_wf _ _ hw) (by omega)]
    exact memRead_memWrite_other _ hw (by omega)

/-- Storing bytes leaves every byte outside them alone. -/
theorem memRead_memStoreBytes_outside {m : List Host.Cell} {a c : Nat} (bs : List Byte) (hw : Memory.wf m = true)
    (h : c < a ∨ a + bs.length ≤ c) : memRead (memStoreBytes m a bs) c = memRead m c := by
  induction bs generalizing m a with
  | nil => rfl
  | cons b bs ih =>
    simp only [List.length_cons] at h
    rw [memStoreBytes, ih (memWrite_wf _ _ hw) (by omega)]
    exact memRead_memWrite_other _ hw (by omega)

/-- A load depends on the bytes it reads alone. -/
theorem memLoad_congr {m m' : List Host.Cell} {a n : Nat} (h : ∀ i < n, memRead m (a + i) = memRead m' (a + i)) :
    memLoad m a n = memLoad m' a n := by
  induction n generalizing a with
  | zero => rfl
  | succ n ih =>
    have h0 := h 0 (by omega)
    simp only [Nat.add_zero] at h0
    rw [memLoad, memLoad, h0, ih (fun i hi => by have := h (i + 1) (by omega); rwa [show a + (i + 1) = a + 1 + i by omega] at this)]

/-- A number of n bytes that was stored is loaded back modulo 256^n (R63). -/
theorem memLoad_memStore {m : List Host.Cell} (a n x : Nat) (hw : Memory.wf m = true) :
    memLoad (memStore m a n x) a n = x % 256 ^ n := by
  induction n generalizing m a x with
  | zero => simp [memLoad, Nat.mod_one]
  | succ n ih =>
    rw [memStore, memLoad, ih _ _ (memWrite_wf _ _ hw), memRead_memStore_outside _ (memWrite_wf _ _ hw) (by omega),
      memRead_memWrite_same _ _ hw]
    simp only [BitVec.toNat_ofNat]
    rw [show (2 : Nat) ^ 8 = 256 by rfl, Nat.pow_succ', Nat.mod_mul]

/-- The n-th of the bytes that were stored reads back. -/
theorem memRead_memStoreBytes {m : List Host.Cell} (a : Nat) (bs : List Byte) (i : Nat) (h : i < bs.length)
    (hw : Memory.wf m = true) : memRead (memStoreBytes m a bs) (a + i) = bs[i] := by
  induction bs generalizing m a i with
  | nil => simp at h
  | cons b bs ih =>
    rw [memStoreBytes]
    cases i with
    | zero =>
      rw [memRead_memStoreBytes_outside _ (memWrite_wf _ _ hw) (by omega)]
      simpa using memRead_memWrite_same a b hw
    | succ i =>
      have := ih (a + 1) i (by simpa using h) (memWrite_wf a b hw)
      rw [show a + (i + 1) = a + 1 + i by omega, this]
      rfl

/-- Two canonical memories that read the same are the same. -/
theorem mem_ext {m m' : List Host.Cell} {low : Nat} (h : memWfFrom low m = true) (h' : memWfFrom low m' = true)
    (e : ∀ a, memRead m a = memRead m' a) : m = m' := by
  induction m generalizing low m' with
  | nil =>
    cases m' with
    | nil => rfl
    | cons c m' =>
      obtain ⟨k, x⟩ := c
      simp only [memWfFrom, Bool.and_eq_true, decide_eq_true_eq] at h'
      have := e k
      simp [memRead] at this
      exact absurd this.symm h'.1.2
  | cons c m ih =>
    obtain ⟨k, x⟩ := c
    have hk := h
    simp only [memWfFrom, Bool.and_eq_true, decide_eq_true_eq] at hk
    cases m' with
    | nil =>
      have := e k
      simp [memRead] at this
      exact absurd this hk.1.2
    | cons c' m' =>
      obtain ⟨k', x'⟩ := c'
      have hk' := h'
      simp only [memWfFrom, Bool.and_eq_true, decide_eq_true_eq] at hk'
      have e1 := e k
      have e2 := e k'
      simp only [memRead, if_true] at e1 e2
      have hkk : k = k' := by grind
      subst hkk
      simp only [if_true] at e1
      subst e1
      congr 1
      refine ih hk.2 hk'.2 fun a => ?_
      have ea := e a
      simp only [memRead] at ea
      by_cases h1 : a ≤ k
      · rw [memRead_below hk.2 (by omega), memRead_below hk'.2 (by omega)]
      · rwa [if_neg (by omega), if_neg (by omega), if_neg (by omega), if_neg (by omega)] at ea

/-! ### The state's operations -/

theorem State.store_wf {s : State} (key n x : Nat) (hw : Memory.wf s.mem = true) : Memory.wf (s.store key n x).mem = true :=
  memStore_wf _ _ _ hw
theorem State.storeBytes_wf {s : State} (key : Nat) (bs : List Byte) (hw : Memory.wf s.mem = true) :
    Memory.wf (s.storeBytes key bs).mem = true := memStoreBytes_wf _ _ hw

/-- The reset memory is canonical. -/
theorem reset_wf : Memory.wf State.reset.mem = true := rfl

end Sys2Proof.Machine
end

