-- ==== Sys2Proof/Laws/Access.lean ====
section
/-!
SUPPORT. What performing requests ahead of their turn can change: memory, the charges, the requests, the results and the agenda; and
that it changes nothing where a gang has nothing in flight.
-/
namespace Sys2Proof.Machine

/-- Two states that differ in memory, charges, requests, gangs and agenda only. -/
def SameUnits (s t : State) : Prop :=
  t = { s with mem := t.mem, vds := t.vds, reqs := t.reqs, gangs := t.gangs, agenda := t.agenda }

theorem SameUnits.refl (s : State) : SameUnits s s := rfl
theorem SameUnits.trans {s t u : State} (h : SameUnits s t) (k : SameUnits t u) : SameUnits s u := by
  unfold SameUnits at *
  rw [k, h]

theorem State.chargeCtx_units (s : State) (ctx pj : Nat) : SameUnits s (s.chargeCtx ctx pj) := by
  unfold State.chargeCtx
  split <;> rfl
theorem State.perform_units (s : State) (r : Req) : SameUnits s (s.perform r) :=
  ((show SameUnits s { s with mem := (performReq s.mem r).mem } from rfl).trans (State.chargeCtx_units _ _ _)).trans rfl

theorem State.performEarly_units (s : State) (r : Req) : SameUnits s (s.performEarly r) := by
  unfold State.performEarly
  dsimp only
  repeat' split
  all_goals first | exact .refl s | exact (s.perform_units r).trans rfl

theorem performList_units (l : List Req) (s : State) : SameUnits s (l.foldl State.performEarly s) := by
  induction l generalizing s with
  | nil => exact .refl s
  | cons r l ih => exact (s.performEarly_units r).trans (ih _)

/-- A release performs requests; no unit changes. -/
theorem State.release_units (s : State) (gid : Nat) : SameUnits s (s.release gid) := performList_units _ s
theorem State.performAll_units (s : State) : SameUnits s s.performAll := performList_units _ s

/-- A gang with no request has nothing to perform. -/
theorem State.release_none {s : State} {gid : Nat} (h : ∀ r ∈ s.reqs, r.gid ≠ gid) : s.release gid = s := by
  have : (s.reqs.filter fun r => r.gid == gid) = [] := List.filter_eq_nil_iff.2 fun r hr => by simpa using h r hr
  simp [State.release, this]
theorem State.performAll_none {s : State} (h : s.reqs = []) : s.performAll = s := by simp [State.performAll, h]

/-- An instruction that reads memory as it issues, of a gang with nothing in flight. -/
theorem Ictx.settle_none {c : Ictx} (h : ∀ r ∈ c.s.reqs, r.gid ≠ c.g.gid) (hg : c.s.gang? c.g.gid = some c.g) : c.settle = c := by
  simp [Ictx.settle, State.release_none h, hg]
theorem Ictx.fenced_none {c : Ictx} (h : c.g.holds = []) : c.fenced = c := by simp [Ictx.fenced, h]

end Sys2Proof.Machine
end

