-- ==== Sys2Proof/Laws/Encode.lean ====
section
/-!
SUPPORT. The word and its fields are two ways to write one thing (R147), field by field: what the round trip of an
instruction rests on.
-/
namespace Sys2Proof

/-- Bit i of the word of some fields lies in the field that R147 gives it. -/
theorem Raw.getLsbD_word (r : Raw) (i : Nat) : r.word.getLsbD i =
    if i < 10 then r.opc.getLsbD i else if i < 14 then r.grd.getLsbD (i - 10) else if i < 24 then r.d.getLsbD (i - 14)
    else if i < 34 then r.a.getLsbD (i - 24) else if i < 44 then r.b.getLsbD (i - 34) else if i < 50 then r.ty.getLsbD (i - 44)
    else if i < 58 then r.mod.getLsbD (i - 50) else if i < 90 then r.imm.getLsbD (i - 58)
    else if i < 95 then r.sched.getLsbD (i - 90) else r.rsv.getLsbD (i - 95) := by
  have h : r.word.getLsbD i = BitVec.getLsbD (w := 1+5+32+8+6+10+10+10+4+10)
    (r.rsv ++ r.sched ++ r.imm ++ r.mod ++ r.ty ++ r.b ++ r.a ++ r.d ++ r.grd ++ r.opc) i := rfl
  rw [h]
  simp only [BitVec.getLsbD_append]
  grind

/-- The fields of the word of some fields are those fields (R147). -/
@[simp] theorem Raw.ofWord_word (r : Raw) : Raw.ofWord r.word = r := by
  obtain ⟨rsv, sched, imm, mod, ty, b, a, d, grd, opc⟩ := r
  simp only [Raw.ofWord, Raw.mk.injEq]
  refine ⟨?_, ?_, ?_, ?_, ?_, ?_, ?_, ?_, ?_, ?_⟩ <;>
  · ext i hi
    simp only [BitVec.getElem_extractLsb', Raw.getLsbD_word]
    rw [← BitVec.getLsbD_eq_getElem]
    grind

/-- A type is the type of its code (R155). -/
@[simp] theorem Ty.ofCode_code (t : Ty) : Ty.ofCode t.code = some t := by cases t <;> decide

/-- A guard is read back from its bits (R150). -/
@[simp] theorem Guard.ofBits_bits (g : Guard) : Guard.ofBits g.bits = g := by
  obtain ⟨n, p⟩ := g
  revert n p; decide

/-- Hints are read back from their bits (R121). -/
@[simp] theorem Sched.ofBits_bits (s : Sched) : Sched.ofBits s.bits = s := by
  obtain ⟨a, b, c, d, e⟩ := s
  revert a b c d e; decide

/-- The operand of a well-formed operand's code is the operand (R151). -/
theorem Operand.ofCode_code {o : Operand} (h : o.wellFormed = true) : Operand.ofCode o.code = o := by
  simpa [Operand.wellFormed] using h

/-- The MOD bits (sat, SEL, RND) are read back (R157). -/
theorem mod_fields (sat : Bool) (sel : BitVec 4) (rnd : BitVec 3) :
    (BitVec.ofBool sat ++ sel ++ rnd).getLsbD 7 = sat ∧ (BitVec.ofBool sat ++ sel ++ rnd).extractLsb' 3 4 = sel ∧
      (BitVec.ofBool sat ++ sel ++ rnd).extractLsb' 0 3 = rnd := by
  revert sat sel rnd; decide

/-- SAT is bit 7 of MOD (R157). -/
theorem mod_sat (sat : Bool) (sel : BitVec 4) (rnd : BitVec 3) : (BitVec.ofBool sat ++ sel ++ rnd)[7] = sat := by
  revert sat sel rnd; decide

/-- The MOD bits (AOP, ORD, SCOPE) are read back (R157). -/
theorem order_fields (aop : BitVec 3) (ord : BitVec 2) (scope : BitVec 3) :
    (aop ++ ord ++ scope).extractLsb' 5 3 = aop ∧ (aop ++ ord ++ scope).extractLsb' 3 2 = ord ∧
      (aop ++ ord ++ scope).extractLsb' 0 3 = scope := by
  revert aop ord scope; decide

/-- The two parts of IMM of a four-source instruction are read back (R161). -/
theorem imm_fields (imm : BitVec 22) (c : BitVec 10) :
    (imm ++ c).extractLsb' 0 10 = c ∧ (imm ++ c).extractLsb' 10 22 = imm := by
  refine ⟨?_, ?_⟩ <;>
  · ext i hi
    simp only [BitVec.getElem_extractLsb', BitVec.getLsbD_append]
    rw [← BitVec.getLsbD_eq_getElem]
    grind

/-- The parts of IMM of a handle form are read back (R162). -/
theorem handle_fields (top : BitVec 3) (jnt : BitVec 5) (x3 x2 x1 : BitVec 8) :
    (top ++ jnt ++ x3 ++ x2 ++ x1).extractLsb' 29 3 = top ∧ (top ++ jnt ++ x3 ++ x2 ++ x1).extractLsb' 24 5 = jnt ∧
      (top ++ jnt ++ x3 ++ x2 ++ x1).extractLsb' 16 8 = x3 ∧ (top ++ jnt ++ x3 ++ x2 ++ x1).extractLsb' 8 8 = x2 ∧
      (top ++ jnt ++ x3 ++ x2 ++ x1).extractLsb' 0 8 = x1 := by
  refine ⟨?_, ?_, ?_, ?_, ?_⟩ <;>
  · ext i hi
    simp only [BitVec.getElem_extractLsb', BitVec.getLsbD_append]
    rw [← BitVec.getLsbD_eq_getElem]
    grind

/-- The fields of a three-field instruction are read back. -/
theorem Raw.args_ofArgs (o : BitVec 10) {x : Args} (h : x.wellFormed = true) : (Raw.ofArgs o x).args x.ty = x := by
  obtain ⟨⟨g, s⟩, ty, sat, sel, rnd, d, a, b, imm⟩ := x
  simp only [Args.wellFormed, Bool.and_eq_true] at h
  simp [Raw.args, Raw.ofArgs, Raw.head, mod_fields, mod_sat, Operand.ofCode_code, h]

/-- The fields of a four-source instruction are read back. -/
theorem Raw.args4_ofArgs4 (o : BitVec 10) {x : Args4} (h : x.wellFormed = true) : (Raw.ofArgs4 o x).args4 x.ty = x := by
  obtain ⟨⟨g, s⟩, ty, sat, sel, rnd, d, a, b, c, imm⟩ := x
  simp only [Args4.wellFormed, Bool.and_eq_true] at h
  simp [Raw.args4, Raw.ofArgs4, Raw.head, mod_fields, mod_sat, imm_fields, Operand.ofCode_code, h]

/-- The fields of a load or store are read back. -/
theorem Raw.memArgs_ofMem (o : BitVec 10) {x : MemArgs} (h : x.wellFormed = true) : (Raw.ofMem o x).memArgs x.ty = x := by
  obtain ⟨⟨g, s⟩, ty, aop, ord, scope, d, a, b, off⟩ := x
  simp only [MemArgs.wellFormed, Bool.and_eq_true] at h
  simp [Raw.memArgs, Raw.ofMem, Raw.head, order_fields, Operand.ofCode_code, h]

/-- The fields of an atomic are read back. -/
theorem Raw.atomArgs_ofAtom (o : BitVec 10) {x : AtomArgs} (h : x.wellFormed = true) : (Raw.ofAtom o x).atomArgs x.ty = x := by
  obtain ⟨⟨g, s⟩, ty, aop, ord, scope, d, a, b, c, off⟩ := x
  simp only [AtomArgs.wellFormed, Bool.and_eq_true] at h
  simp [Raw.atomArgs, Raw.ofAtom, Raw.head, order_fields, imm_fields, Operand.ofCode_code, h]

/-- The fields of a handle form are read back. -/
theorem Raw.handleArgs_ofHandle (o : BitVec 10) {x : HandleArgs} (h : x.wellFormed = true) :
    (Raw.ofHandle o x).handleArgs x.ty = x := by
  obtain ⟨⟨g, s⟩, ty, sat, sel, rnd, d, a, b, top, jnt, x3, x2, x1⟩ := x
  simp only [HandleArgs.wellFormed, Bool.and_eq_true] at h
  simp [Raw.handleArgs, Raw.ofHandle, Raw.head, mod_fields, mod_sat, handle_fields, Operand.ofCode_code, h]

/-- What the decoder answers for the word of some fields: bit 95 clear, the opcode listed, the type known, the instruction
built from the fields, and no reason of R169. -/
theorem decode_word {r : Raw} {t : Ty} {i : Instr} (ho : opcodeListed r.opc = true) (hr : r.rsv = 0#1)
    (ht : Ty.ofCode r.ty = some t) (hb : build r.opc.toNat t r = some i) (hl : (legality i).isNone = true) :
    decode r.word = .ok i := by
  simp only [Option.isNone_iff_eq_none] at hl
  simp [decode, ho, hr, ht, hb, hl]

end Sys2Proof
end

