-- ==== Sys2Proof/Laws/Ops.lean ====
section
/-!
SUPPORT. What finding and replacing a part of the state answers, what a lane vector and a pressed shape hold in a lane, what a
register, predicate or modulo write changes (R129, R130, R132, R135), and what taking a trap and leaving one do (R267, R271).
-/
namespace Sys2Proof.Machine
open Sys2Proof

/-! ### Gangs -/

/-- The gang that is found has the identifier. -/
theorem State.gid_of_gang? {s : State} {gid : Nat} {g : Gang} (h : s.gang? gid = some g) : g.gid = gid := by
  simpa using List.find?_some h

theorem find?_map_same {α : Type} {l : List α} {p : α → Bool} {f : α → α} {x : α} (h : l.find? p = some x)
    (hf : ∀ y, p (f y) = p y) : (l.map f).find? p = some (f x) := by
  rw [List.find?_map, show (p ∘ f) = p from funext hf, h]; rfl

/-- A gang that replaces one of its identifier is found under it. -/
theorem State.gang?_putGang_same {s : State} {g g0 : Gang} (h : s.gang? g.gid = some g0) :
    (s.putGang g).gang? g.gid = some g := by
  have h0 := State.gid_of_gang? h
  have := find?_map_same (f := fun x => if x.gid == g.gid then g else x) h (fun y => by split <;> simp_all)
  simpa [State.gang?, State.putGang, h0] using this

/-- Replacing a gang leaves every other. -/
theorem State.gang?_putGang_other {s : State} {g : Gang} {gid : Nat} (h : gid ≠ g.gid) : (s.putGang g).gang? gid = s.gang? gid := by
  simp only [State.gang?, State.putGang]
  induction s.gangs with
  | nil => rfl
  | cons a l ih => simp only [List.map_cons, List.find?_cons]; grind

/-- A changed gang is found under its identifier. -/
theorem State.gang?_onGang_same {s : State} {gid : Nat} {g : Gang} {f : Gang → Gang} (h : s.gang? gid = some g)
    (hf : ∀ x, (f x).gid = x.gid) : (s.onGang gid f).gang? gid = some (f g) := by
  have h0 := State.gid_of_gang? h
  have := find?_map_same (f := fun x => if x.gid == gid then f x else x) h (fun y => by split <;> simp_all)
  simpa [State.gang?, State.onGang, h0] using this

/-- Changing a gang leaves every other. -/
theorem State.gang?_onGang_other {s : State} {gid h : Nat} {f : Gang → Gang} (hf : ∀ x, (f x).gid = x.gid) (hne : h ≠ gid) :
    (s.onGang gid f).gang? h = s.gang? h := by
  simp only [State.gang?, State.onGang]
  induction s.gangs with
  | nil => rfl
  | cons a l ih => simp only [List.map_cons, List.find?_cons]; grind

/-- A changed VD. -/
theorem State.vd?_onVd_same {s : State} {v : Nat} {d : VD} {f : VD → VD} (h : s.vd? v = some d) : (s.onVd v f).vd? v = some (f d) := by
  simp only [State.vd?, State.onVd, modifyAt] at *
  simp [h]

/-- Changing a VD leaves every other. -/
theorem State.vd?_onVd_other {s : State} {v w : Nat} {f : VD → VD} (h : w ≠ v) : (s.onVd v f).vd? w = s.vd? w := by
  simp [State.vd?, State.onVd, modifyAt, h.symm]

/-- A changed quadrant. -/
theorem State.quad_onQuad_same {s : State} {q : Nat} {f : Quad → Quad} (h : q < s.quads.length) :
    (s.onQuad q f).quad q = f (s.quad q) := by
  simp [State.quad, State.onQuad, modifyAt, List.getD_eq_getElem?_getD, h]

/-- Changing a quadrant leaves every other. -/
theorem State.quad_onQuad_other {s : State} {q r : Nat} {f : Quad → Quad} (h : r ≠ q) : (s.onQuad q f).quad r = s.quad r := by
  simp [State.quad, State.onQuad, modifyAt, List.getD_eq_getElem?_getD, h.symm]

/-- A changed channel. -/
theorem State.ingress_onIngress_same {s : State} {c : Nat} {x : Ingress} {f : Ingress → Ingress} (h : s.ingress[c]? = some x) :
    (s.onIngress c f).ingress[c]? = some (f x) := by
  simp [State.onIngress, modifyAt, h]

/-! ### Lanes -/

@[simp] theorem LaneVec.lane_of (f : Nat → Word) {l : Nat} (h : l < 32) : LaneVec.lane (LaneVec.of f) l = f l := by
  simp [LaneVec.lane, LaneVec.of, laneIds, List.getD_eq_getElem?_getD, h]

@[simp] theorem Shape.lane_lanes (x : Shape) {l : Nat} (h : l < 32) : LaneVec.lane x.lanes l = x.lane l := by
  simp [Shape.lanes, h]

/-- A merge takes the new value in the lanes of the mask and keeps the old one in the others (R135). -/
@[simp] theorem LaneVec.lane_merge (m : Lanes) (new old : LaneVec) {l : Nat} (h : l < 32) :
    LaneVec.lane (LaneVec.merge m new old) l = if m.getLsbD l then LaneVec.lane new l else LaneVec.lane old l := by
  simp [LaneVec.merge, h]

/-- Pressing changes no lane (R135). -/
@[simp] theorem lane_press (v : LaneVec) {l : Nat} (h : l < 32) : (press v).lane l = LaneVec.lane v l := by
  simp only [press]
  have hl : l ∈ laneIds := by simp [laneIds, h]
  split
  · next h1 => simpa [Shape.lane] using (List.all_eq_true.mp h1 l hl |> fun e => (beq_iff_eq.mp e).symm)
  · split
    · next h1 => simpa [Shape.lane] using (List.all_eq_true.mp h1 l hl |> fun e => (beq_iff_eq.mp e).symm)
    · simp [Shape.lane, h]

/-- A full-width mask holds every lane. -/
theorem getLsbD_of_fullWidth {m : Lanes} (h : fullWidth m = true) {l : Nat} (hl : l < 32) : m.getLsbD l = true := by
  simp only [fullWidth, beq_iff_eq] at h
  subst h
  revert l
  decide

/-- A register write changes the lanes of its mask and no other (R135). -/
theorem Reg.lane_write (r : Reg) (m : Lanes) (v : LaneVec) {l : Nat} (h : l < 32) :
    (r.write m v).shape.lane l = if m.getLsbD l then LaneVec.lane v l else r.shape.lane l := by
  unfold Reg.write
  split
  · next hm => simp [h, getLsbD_of_fullWidth hm h]
  · show LaneVec.lane (LaneVec.merge m v r.shape.lanes) l = _
    simp [h]

/-- A full-width write leaves no error mark; a partial one leaves the mark that was there (R220). -/
theorem Reg.mark_write (r : Reg) (m : Lanes) (v : LaneVec) :
    (r.write m v).mark = if fullWidth m then none else r.mark := by
  unfold Reg.write; split <;> rfl

/-! ### Register, predicate and modulo writes -/

/-- A write to a register leaves every other register. -/
theorem Gang.reg_writeReg_other (g : Gang) (w : RegWrite) {n : Nat} (h : n ≠ w.n) : (g.writeReg w).reg n = g.reg n := by
  simp [Gang.reg, Gang.writeReg, modifyAt, List.getD_eq_getElem?_getD, h.symm]

/-- A write to a register of the gang, lane by lane (R135). -/
theorem Gang.lane_writeReg_same (g : Gang) (w : RegWrite) (hx : w.exact = none) (hn : w.n < g.r) {l : Nat} (hl : l < 32) :
    ((g.writeReg w).reg w.n).shape.lane l = if w.mask.getLsbD l then LaneVec.lane w.vals l else (g.reg w.n).shape.lane l := by
  have : (g.writeReg w).reg w.n = (g.reg w.n).write w.mask w.vals := by
    simp only [Gang.r] at hn
    simp [Gang.reg, Gang.writeReg, modifyAt, List.getD_eq_getElem?_getD, hn, hx]
  rw [this, Reg.lane_write _ _ _ hl]

/-- A register write keeps the number of registers. -/
@[simp] theorem Gang.r_writeReg (g : Gang) (w : RegWrite) : (g.writeReg w).r = g.r := by
  simp [Gang.r, Gang.writeReg, modifyAt]
@[simp] theorem Gang.r_writePred (g : Gang) (w : PredWrite) : (g.writePred w).r = g.r := rfl
@[simp] theorem Gang.r_writeMod (g : Gang) (w : Nat × ModReg) : (g.writeMod w).r = g.r := rfl
@[simp] theorem Gang.r_markReg (g : Gang) (n : Nat) (m : ErrMark) : (g.markReg n m).r = g.r := by
  simp [Gang.r, Gang.markReg, modifyAt]
@[simp] theorem Gang.reg_writePred (g : Gang) (w : PredWrite) (n : Nat) : (g.writePred w).reg n = g.reg n := rfl
@[simp] theorem Gang.reg_writeMod (g : Gang) (w : Nat × ModReg) (n : Nat) : (g.writeMod w).reg n = g.reg n := rfl
@[simp] theorem Gang.pred_writeReg (g : Gang) (w : RegWrite) (n : Nat) : (g.writeReg w).pred n = g.pred n := rfl
@[simp] theorem Gang.pred_writeMod (g : Gang) (w : Nat × ModReg) (n : Nat) : (g.writeMod w).pred n = g.pred n := rfl
@[simp] theorem Gang.pred_markReg (g : Gang) (n : Nat) (m : ErrMark) (k : Nat) : (g.markReg n m).pred k = g.pred k := rfl

/-- p7 is true in every lane, whatever is written (R129). -/
@[simp] theorem Gang.pred_seven (g : Gang) : g.pred 7 = 0xFFFFFFFF#32 := rfl

/-- A predicate write changes the lanes of its mask and no other (R129). -/
theorem Gang.pred_writePred_same (g : Gang) (w : PredWrite) (hn : w.n < g.preds.length) (h7 : w.n ≠ 7) :
    (g.writePred w).pred w.n = (g.pred w.n &&& ~~~w.mask) ||| (w.vals &&& w.mask) := by
  simp [Gang.pred, Gang.writePred, modifyAt, List.getD_eq_getElem?_getD, hn, h7]

/-- A predicate write leaves every other predicate. -/
theorem Gang.pred_writePred_other (g : Gang) (w : PredWrite) {n : Nat} (h : n ≠ w.n) : (g.writePred w).pred n = g.pred n := by
  simp [Gang.pred, Gang.writePred, modifyAt, List.getD_eq_getElem?_getD, h.symm]

/-- A modulo register as it was written (R130). -/
theorem Gang.modreg_writeMod_same (g : Gang) (w : Nat × ModReg) (hn : w.1 < g.mods.length) : (g.writeMod w).modreg w.1 = w.2 := by
  simp [Gang.modreg, Gang.writeMod, setAt, List.getD_eq_getElem?_getD, hn]

/-! ### Results -/

theorem foldl_keeps {α β γ : Type} (f : α → β → α) (v : α → γ) (h : ∀ a b, v (f a b) = v a) (l : List β) (a : α) :
    v (l.foldl f a) = v a := by
  induction l generalizing a with
  | nil => rfl
  | cons b l ih => rw [List.foldl_cons, ih, h]

/-- Everything a result writes leaves what is neither register, predicate nor modulo register. -/
theorem Gang.applyResult_keeps {γ : Type} (v : Gang → γ) (h1 : ∀ g w, v (Gang.writeReg g w) = v g)
    (h2 : ∀ g w, v (Gang.writePred g w) = v g) (h3 : ∀ g w, v (Gang.writeMod g w) = v g)
    (h4 : ∀ g n m, v (Gang.markReg g n m) = v g) (g : Gang) (r : Result) : v (g.applyResult r) = v g := by
  unfold Gang.applyResult
  split
  · simp only [foldl_keeps _ v h1, foldl_keeps _ v h2, foldl_keeps _ v h3]
  · next m _ => rw [foldl_keeps (fun g (w : RegWrite) => g.markReg w.n m) v (fun g w => h4 g w.n m), foldl_keeps _ v h3,
      foldl_keeps _ v h2, foldl_keeps _ v h1]

@[simp] theorem Gang.applyResult_gid (g : Gang) (r : Result) : (g.applyResult r).gid = g.gid :=
  Gang.applyResult_keeps Gang.gid (fun _ _ => rfl) (fun _ _ => rfl) (fun _ _ => rfl) (fun _ _ _ => rfl) g r
@[simp] theorem Gang.applyResult_lanes (g : Gang) (r : Result) : (g.applyResult r).lanes = g.lanes :=
  Gang.applyResult_keeps Gang.lanes (fun _ _ => rfl) (fun _ _ => rfl) (fun _ _ => rfl) (fun _ _ _ => rfl) g r
@[simp] theorem Gang.applyResult_r (g : Gang) (r : Result) : (g.applyResult r).r = g.r :=
  Gang.applyResult_keeps Gang.r (by simp) (by simp) (by simp) (by simp) g r

/-- A result that names a register not leaves it. -/
theorem Gang.reg_applyResult_other (g : Gang) (r : Result) {n : Nat} (h : ∀ w ∈ r.regs, w.n ≠ n) :
    (g.applyResult r).reg n = g.reg n := by
  have hw : ∀ (l : List RegWrite) (g : Gang), (∀ w ∈ l, w.n ≠ n) → (l.foldl Gang.writeReg g).reg n = g.reg n := by
    intro l
    induction l with
    | nil => intro g _; rfl
    | cons w l ih =>
      intro g hl
      rw [List.foldl_cons, ih _ fun x hx => hl x (List.mem_cons_of_mem _ hx)]
      exact Gang.reg_writeReg_other g w (hl w (List.mem_cons_self ..)).symm
  have hm : ∀ (m : ErrMark) (l : List RegWrite) (g : Gang), (∀ w ∈ l, w.n ≠ n) →
      (l.foldl (fun g w => g.markReg w.n m) g).reg n = g.reg n := by
    intro m l
    induction l with
    | nil => intro g _; rfl
    | cons w l ih =>
      intro g hl
      rw [List.foldl_cons, ih _ fun x hx => hl x (List.mem_cons_of_mem _ hx)]
      have := hl w (List.mem_cons_self ..)
      simp [Gang.reg, Gang.markReg, modifyAt, List.getD_eq_getElem?_getD, this]
  unfold Gang.applyResult
  split
  · simp only [foldl_keeps _ (fun g => Gang.reg g n) (fun g w => Gang.reg_writeMod g w n),
      foldl_keeps _ (fun g => Gang.reg g n) (fun g w => Gang.reg_writePred g w n), hw _ _ h]
  · rw [hm _ _ _ h]
    simp only [foldl_keeps _ (fun g => Gang.reg g n) (fun g w => Gang.reg_writeMod g w n),
      foldl_keeps _ (fun g => Gang.reg g n) (fun g w => Gang.reg_writePred g w n), hw _ _ h]

/-! ### Traps -/

/-- Taking a trap outside a handler, with a vector (R267). -/
theorem State.takeTrap_enters {s : State} {gid : Nat} {g : Gang} (hg : s.gang? gid = some g) (hh : g.hnd = false)
    {t : Trap} (hv : s.vectorOf g t.cause ≠ 0#64) (iset : Lanes) (sec : Bool) (epc : DWord) (k : Nat) :
    s.takeTrap gid iset sec epc t k = s.putGang (g.enterTrap (s.vectorOf g t.cause) iset sec epc t k) := by
  simp [State.takeTrap, hg, hh, hv]

/-- Taking a trap inside a handler is a context fault NESTED (R266). -/
theorem State.takeTrap_nested {s : State} {gid : Nat} {g : Gang} {c : Context} (hg : s.gang? gid = some g) (hh : g.hnd = true)
    (hc : s.contextOf g = some c) (t : Trap) (iset : Lanes) (sec : Bool) (epc : DWord) (k : Nat) :
    s.takeTrap gid iset sec epc t k = s.contextFault c.id faultNested g.minPc := by
  simp [State.takeTrap, State.ctxOf, hg, hh, hc]

/-- Entering a trap leaves the registers. -/
@[simp] theorem Gang.enterTrap_regs (g : Gang) (v : DWord) (i : Lanes) (sec : Bool) (e : DWord) (t : Trap) (k : Nat) :
    (g.enterTrap v i sec e t k).regs = g.regs := rfl
@[simp] theorem Gang.enterTrap_gid (g : Gang) (v : DWord) (i : Lanes) (sec : Bool) (e : DWord) (t : Trap) (k : Nat) :
    (g.enterTrap v i sec e t k).gid = g.gid := rfl
@[simp] theorem Gang.enterTrap_preds (g : Gang) (v : DWord) (i : Lanes) (sec : Bool) (e : DWord) (t : Trap) (k : Nat) :
    (g.enterTrap v i sec e t k).preds = g.preds := rfl
@[simp] theorem Gang.leaveTrap_regs (g : Gang) (k : Nat) : (g.leaveTrap k).regs = g.regs := rfl
@[simp] theorem Gang.leaveTrap_gid (g : Gang) (k : Nat) : (g.leaveTrap k).gid = g.gid := rfl
@[simp] theorem Gang.leaveTrap_preds (g : Gang) (k : Nat) : (g.leaveTrap k).preds = g.preds := rfl

end Sys2Proof.Machine
end

