-- ==== Sys2Proof/Laws/Issue.lean ====
section
/-!
SUPPORT. The issue of an instruction, said once: every instruction of the opcode table is performed through `issue`; what `issue`
answers when the instruction is performed and when something comes before it; and what a plan comes to.
-/
namespace Sys2Proof.Machine
open Sys2Proof Safety

/-! ### The head of an instruction -/

@[simp] theorem Raw.head_ofArgs (o : BitVec 10) (x : Args) : (Raw.ofArgs o x).head = x.head := by simp [Raw.head, Raw.ofArgs]
@[simp] theorem Raw.head_ofArgs4 (o : BitVec 10) (x : Args4) : (Raw.ofArgs4 o x).head = x.head := by simp [Raw.head, Raw.ofArgs4]
@[simp] theorem Raw.head_ofMem (o : BitVec 10) (x : MemArgs) : (Raw.ofMem o x).head = x.head := by simp [Raw.head, Raw.ofMem]
@[simp] theorem Raw.head_ofAtom (o : BitVec 10) (x : AtomArgs) : (Raw.ofAtom o x).head = x.head := by simp [Raw.head, Raw.ofAtom]
@[simp] theorem Raw.head_ofHandle (o : BitVec 10) (x : HandleArgs) : (Raw.ofHandle o x).head = x.head := by
  simp [Raw.head, Raw.ofHandle]

/-- Every instruction that has a word is performed by `issue`, with its own head. -/
theorem exec_issue (i : Instr) (h : i.fields.isSome = true) :
    ∃ imm body, ∀ s, exec i s = issue i (instrHead i) imm body s := by
  cases i <;> first
    | exact absurd (show false = true from h) Bool.false_ne_true
    | exact ⟨_, _, fun s => by simp only [instrHead, Instr.fields, Raw.head_ofArgs, Raw.head_ofArgs4, Raw.head_ofMem,
        Raw.head_ofAtom, Raw.head_ofHandle]; rfl⟩

/-! ### What `issue` answers -/

theorem issue_at {s : State} {p : Port} {g : Gang} (h : AtPort s p g) (i : Instr) (hd : Head) (imm : Word) (body : Ictx → Body) :
    issue i hd imm body s = .next (issueOn i hd imm body p g s) := by
  obtain ⟨hp, hg⟩ := h
  unfold issue
  cases hs : s.ports with
  | nil => simp [hs] at hp
  | cons q r => simp only [hs, List.head?_cons, Option.some.injEq] at hp; subst hp; simp [hg]

/-- Nothing comes before the meaning of an instruction that is performed. -/
theorem beforeBody_performs {i : Instr} {s : State} {p : Port} {g : Gang} (h : Performs i s p g) (imm : Word) :
    beforeBody i (instrHead i) imm (ctx i s p g) = none := by
  obtain ⟨⟨_, _⟩, hd, hm, hr, hl, hi⟩ := h
  have hl' : ((ctx i s p g).mask != 0#32) = true := by simpa using hl
  unfold beforeBody
  simp only [hl']
  simp only [ctx, ictxOf] at hd hm hr hl hi ⊢
  simpa [hd, hm, hl, hi] using hr

/-- An instruction that is performed does what its meaning answers. -/
theorem issue_performs {i : Instr} {s : State} {p : Port} {g : Gang} (h : Performs i s p g) (imm : Word) (body : Ictx → Body) :
    issue i (instrHead i) imm body s = .next (afterBody i (instrHead i) imm (ctx i s p g) (body (ctx i s p g))) := by
  rw [issue_at h.toAtPort]
  simp only [issueOn, ← show ctx i s p g = ictxOf (instrHead i) p g s from rfl, beforeBody_performs h]

/-- A plan that passes the budget, that the secondary port need not withdraw, and whose park raises no load error, is committed. -/
theorem afterBody_go {i : Instr} {h : Head} {imm : Word} {c : Ictx} {pl : Plan} (hs : (c.port.secondary && pl.park.isSome) = false)
    (he : pl.park.isSome = true → c.parkErr = none) (hb : shapeOvf c.g pl.regs pl.late = none) :
    afterBody i h imm c (.go pl) = commitPlan i h imm c pl := by
  cases hp : pl.park.isSome
  · simp [afterBody, hp, hb]
  · simp only [hp, Bool.and_true] at hs
    simp [afterBody, hs, hp, he hp, hb]

/-- A plan comes to an effect. -/
structure Plan.Gives (pl : Plan) (c : Ictx) (e : Effect) : Prop where
  state : pl.s = e.s
  gang : { unfoldNow pl.g pl with lanes := pl.lanes.getD (advance (unfoldNow pl.g pl) c.iset c.pc) } = e.g
  flags : pl.flags = e.flags
  result : (pl.result c).toList = e.rs
  next : pl.next = e.next
  park : pl.park = e.park
  work : pl.returns c = e.work

/-- A plan that comes to an effect is committed as that effect. -/
theorem commitPlan_gives {i : Instr} {imm : Word} {s : State} {p : Port} {g : Gang} {pl : Plan} {e : Effect}
    (hg : pl.Gives (ctx i s p g) e) : commitPlan i (instrHead i) imm (ctx i s p g) pl = finish i imm s p g e := by
  have hm : commitGang (instrHead i) (usesOf i) imm (ctx i s p g) pl =
      ending (switches i p e.g) e.park (after p e (latchAfter (instrHead i) ((ctx i s p g).src imm) (usesOf i) e.g)) := by
    obtain ⟨es, eg, ef, er, en, ep, ew⟩ := e
    obtain ⟨_, hgg, hf, hr, hn, hp, _⟩ := hg
    dsimp only at hgg hf hr hn hp ⊢
    subst hgg hf hr hn hp
    unfold commitGang
    generalize unfoldNow pl.g pl = gu
    cases pl.lanes <;> cases pl.result (ctx i s p g) <;> cases pl.park <;>
      simp only [ending, after, parkOf, switches, Option.getD, Option.toList, List.append_nil] <;> rfl
  unfold commitPlan finish
  simp only [hm, hg.state, hg.work]

/-- The instruction of a meaning that plans an effect (within the budget, and on the primary port where it parks) does it. -/
theorem does {i : Instr} {imm : Word} {body : Ictx → Body} (hx : ∀ s, exec i s = issue i (instrHead i) imm body s)
    {pre : Ictx → Prop} {e : Ictx → Effect}
    (hb : ∀ s p g, Performs i s p g → pre (ctx i s p g) → ∃ pl : Plan, body (ctx i s p g) = .go pl ∧
      pl.Gives (ctx i s p g) (e (ctx i s p g)) ∧ (p.secondary && pl.park.isSome) = false ∧
      (pl.park.isSome = true → (ctx i s p g).parkErr = none) ∧ shapeOvf g pl.regs pl.late = none) : Does i imm pre e := by
  intro s p g h hp
  obtain ⟨pl, hb, hg, hk, he, ho⟩ := hb s p g h hp
  have h1 := afterBody_go (i := i) (h := instrHead i) (imm := imm) (c := ctx i s p g) hk he ho
  rw [hx, issue_performs h, hb, h1, commitPlan_gives hg]

/-! ### The budget (R137) -/

theorem eraseDups_length_le (n : Nat) : ∀ l : List Nat, l.length ≤ n → l.eraseDups.length ≤ l.length := by
  induction n with
  | zero => intro l h; cases l with | nil => simp | cons a l => simp at h
  | succ n ih =>
    intro l h
    cases l with
    | nil => simp
    | cons a l =>
      rw [List.eraseDups_cons]
      have h1 : (l.filter fun b => !b == a).length ≤ l.length := List.length_filter_le _ _
      have h2 := ih _ (show (l.filter fun b => !b == a).length ≤ n by simp at h; omega)
      simp only [List.length_cons]; omega

/-- A gang whose lines suffice for all the registers of a list takes its writes (R137). -/
theorem shapeOvf_room {g : Gang} {ws : List RegWrite} {late : Bool} (h : g.settled.gCount + g.settled.reserved + ws.length ≤ g.gmax) :
    shapeOvf g ws late = none := by
  unfold shapeOvf
  have h1 := eraseDups_length_le _ ((ws.filter (takesLine g.settled late)).map (·.n)) (Nat.le_refl _)
  have h2 : ((ws.filter (takesLine g.settled late)).map (·.n)).length ≤ ws.length := by
    rw [List.length_map]; exact List.length_filter_le _ _
  have h3 : ¬ g.gmax < g.settled.gCount + g.settled.reserved + (((ws.filter (takesLine g.settled late)).map (·.n)).eraseDups).length
      - (((ws.filter (freesLine g.settled late)).map (·.n)).eraseDups).length := by omega
  simp [h3]

end Sys2Proof.Machine
end

