-- ==== Sys2Proof/Laws/Lanes.lean ====
section
/-!
SUPPORT. What a plan comes to, by its shape: a result of fixed time, a result of variable time, none; and the instructions of the
shared lane form (R171).
-/
namespace Sys2Proof.Machine
open Sys2Proof Safety

/-- A plan of fixed time that keeps the state, the gang and the lanes. -/
structure Plan.Plain (pl : Plan) (c : Ictx) (lat : Nat) : Prop where
  state : pl.s = c.s
  gang : pl.g = c.g
  mods : pl.mods = []
  timing : pl.timing = .fixed lat
  err : pl.err = none
  reqs : pl.reqs = false
  status : pl.status = false
  lanes : pl.lanes = none
  next : pl.next = 0
  park : pl.park = none

/-- Such a plan comes to a fixed result. -/
theorem Plan.Plain.gives {pl : Plan} {c : Ictx} {lat : Nat} (h : pl.Plain c lat) :
    pl.Gives c (.fixed c lat pl.regs pl.preds pl.flags) := by
  obtain ⟨hs, hg, hm, ht, he, hr, hst, hl, hn, hp⟩ := h
  have hu : unfoldNow pl.g pl = c.g := by simp [unfoldNow, ht, hg]
  constructor
  · exact hs
  · rw [hu, hl]; rfl
  · rfl
  · unfold Plan.result Effect.fixed outstanding fixedResult
    simp only [ht, hm, he, hr, hst]
    cases pl.regs <;> cases pl.preds <;> simp
  · exact hn
  · exact hp
  · unfold Plan.returns; rw [ht]; rfl

/-- What such a plan leaves outstanding, where its result is of variable time. -/
theorem Plan.result_pending {pl : Plan} {c : Ictx} {lat : Nat} (ht : pl.timing = .variable lat) (he : pl.err = none)
    (hs : pl.status = false) :
    (pl.result c).toList = outstanding { pendingResult c lat pl.regs pl.preds pl.mods with waitsReqs := pl.reqs } := by
  unfold Plan.result outstanding pendingResult
  simp only [ht, he, hs]
  cases pl.regs <;> cases pl.preds <;> cases pl.mods <;> cases pl.reqs <;> simp

/-- The return of a result of variable time follows it. -/
theorem Plan.returns_pending {pl : Plan} {c : Ictx} {lat : Nat} (ht : pl.timing = .variable lat) (hq : pl.quiet = false) :
    pl.returns c = (pl.result c).toList.map fun r => .variableResultReturn pl.g.gid r.seq none := by
  unfold Plan.returns
  rw [ht, hq]
  cases pl.result c <;> rfl

/-- A plan of variable time that keeps the lanes: what it comes to. -/
theorem Plan.gives_pending {pl : Plan} {c : Ictx} {lat : Nat} {g : Gang} (ht : pl.timing = .variable lat) (he : pl.err = none)
    (hs : pl.status = false) (hl : pl.lanes = none) (hq : pl.quiet = false)
    (hg : { pl.g with lanes := advance pl.g c.iset c.pc } = g) :
    pl.Gives c { s := pl.s, g := unfolded g pl.regs, flags := pl.flags,
                 rs := outstanding { pendingResult c lat pl.regs pl.preds pl.mods with waitsReqs := pl.reqs }, next := pl.next,
                 park := pl.park,
                 work := (outstanding { pendingResult c lat pl.regs pl.preds pl.mods with waitsReqs := pl.reqs }).map fun r =>
                   .variableResultReturn pl.g.gid r.seq none } := by
  constructor
  · rfl
  · subst hg; simp only [unfoldNow, ht, hl]; rfl
  · rfl
  · exact Plan.result_pending ht he hs
  · rfl
  · rfl
  · rw [Plan.returns_pending ht hq, Plan.result_pending ht he hs]

/-- A lane form that writes a register (R171). -/
theorem writesLanes {i : Instr} {imm : Word} {body : Ictx → Body} (hx : ∀ s, exec i s = issue i (instrHead i) imm body s)
    {d : Operand} {wide : Bool} {cls : Nat} {f : Ictx → Nat → Res} {lat : Ictx → Nat} (hl : ∀ c, pathTime i imm cls c (lat c))
    (hb : ∀ c, body c = .go { c.plan with
      regs := destWrites c d (if wide then 2 else 1) c.mask fun l => (f c l).val
      flags := laneFlags c.mask fun l => (f c l).flags
      timing := .fixed (lat c) }) : WritesLanes i imm d wide cls f :=
  ⟨lat, hl, does hx fun s p g _ ho => ⟨_, hb (ctx i s p g),
    Plan.Plain.gives (pl := { (ctx i s p g).plan with
      regs := destWrites (ctx i s p g) d (if wide then 2 else 1) (ctx i s p g).mask fun l => (f (ctx i s p g) l).val
      flags := laneFlags (ctx i s p g).mask fun l => (f (ctx i s p g) l).flags
      timing := .fixed (lat (ctx i s p g)) }) (by constructor <;> rfl), by simp [Ictx.plan], by simp [Ictx.plan], ho⟩⟩

/-- A lane form that writes a predicate. -/
theorem writesPred {i : Instr} {imm : Word} {body : Ictx → Body} (hx : ∀ s, exec i s = issue i (instrHead i) imm body s)
    {d : Operand} {f : Ictx → Nat → Bool × Flags}
    (hb : ∀ c, body c = .go { c.plan with
      preds := predWrites d c.mask fun l => (f c l).1
      flags := laneFlags c.mask fun l => (f c l).2
      timing := .fixed 2 }) : WritesPred i imm d f :=
  does hx fun s p g _ _ => ⟨_, hb (ctx i s p g), Plan.Plain.gives (pl := { (ctx i s p g).plan with
      preds := predWrites d (ctx i s p g).mask fun l => (f (ctx i s p g) l).1
      flags := laneFlags (ctx i s p g).mask fun l => (f (ctx i s p g) l).2
      timing := .fixed 2 }) (by constructor <;> rfl), by simp [Ictx.plan], by simp [Ictx.plan], by simp [Ictx.plan, shapeOvf]⟩

/-- An absent source is uniform. -/
@[simp] theorem Src.isU_zero (c : Src) (n : Nat) : c.isU .zero n = true := rfl

/-- The time of the scalar path or of the class (R136, R142). -/
theorem pathTime_of {i : Instr} {imm : Word} {cls : Nat} {c : Ictx} {scalar : Bool}
    (hs : allUniform i imm c = true → scalar = true) : pathTime i imm cls c (if fullWidth c.mask && scalar then 2 else cls) := by
  unfold pathTime
  cases fullWidth c.mask <;> cases scalar <;> simp_all

/-- An instruction of a lane form writes what its operation gives in each lane. -/
theorem laneForm_writes {i : Instr} {f : LaneForm} {scalar : LaneForm → Src → Bool} {op : Nat → Nat → Nat → Res}
    (hx : ∀ s, exec i s = laneOpA i f scalar op s) (hh : instrHead i = f.head) {g : Ictx → Nat → Res}
    (hg : ∀ c l, g c l = laneResult f op (c.src f.imm) l)
    (hu : ∀ c, allUniform i f.imm c = true → scalar f (c.src f.imm) = true) : WritesLanes i f.imm f.d f.wd f.lat g :=
  writesLanes (body := laneBody f scalar op) (fun s => by rw [hx, hh]; rfl)
    (lat := fun c => pathLatency f c.mask (scalar f (c.src f.imm))) (fun c => pathTime_of (hu c)) (fun c => by
      simp only [hg]; rfl)

/-- An instruction of a lane form that writes a predicate. -/
theorem predForm_writes {i : Instr} {f : LaneForm} {op : Nat → Nat → Bool × Flags} (hx : ∀ s, exec i s = predOp i f op s)
    (hh : instrHead i = f.head) {g : Ictx → Nat → Bool × Flags}
    (hg : ∀ c l, g c l = op ((c.src f.imm).val f.a f.wa l) ((c.src f.imm).val f.b f.wb l)) : WritesPred i f.imm f.d g :=
  writesPred (body := predBody f op) (fun s => by rw [hx, hh]; rfl) (fun c => by simp only [hg]; rfl)

end Sys2Proof.Machine
end

