-- ==== Sys2Proof/Laws/PerInstr.lean ====
section
/-!
SUPPORT. The round trip of each instruction: the decoder reads a well-formed instruction back from its own word, whatever its
operands (R147 to R165). A step of the device has no word, and nothing is read back.
-/
namespace Sys2Proof.Laws
open Sys2Proof

/-- The word of the instruction, where it is well formed and has one, decodes to it. -/
def RoundTrip.Statement (i : Instr) : Prop := i.wellFormed = true → ∀ w, encode i = some w → decode w = .ok i

/-- A step of the device has no word. -/
theorem RoundTrip.of_no_word {i : Instr} (h : encode i = none) : RoundTrip.Statement i := fun _ w hw => by simp [h] at hw

/-- The round trip from the parts of the decoder (`decode_word`). -/
theorem RoundTrip.of_fields {i : Instr} {r : Raw} {t : Ty} (hf : i.fields = some r) (ho : opcodeListed r.opc = true) (hr : r.rsv = 0#1)
    (ht : Ty.ofCode r.ty = some t) (hb : i.operandsWellFormed = true → build r.opc.toNat t r = some i) : RoundTrip.Statement i := by
  intro hw w he
  simp only [Instr.wellFormed, Bool.and_eq_true] at hw
  simp only [encode, hf, Option.map_some, Option.some.injEq] at he
  exact he ▸ decode_word ho hr ht (hb hw.2) hw.1

theorem RoundTrip.iadd (x : Args) : RoundTrip.Statement (.iadd x) :=
  RoundTrip.of_fields rfl rfl rfl (Ty.ofCode_code x.ty) fun h => congrArg (some ∘ Instr.iadd) (Raw.args_ofArgs _ h)
theorem RoundTrip.isub (x : Args) : RoundTrip.Statement (.isub x) :=
  RoundTrip.of_fields rfl rfl rfl (Ty.ofCode_code x.ty) fun h => congrArg (some ∘ Instr.isub) (Raw.args_ofArgs _ h)
theorem RoundTrip.imul (x : Args) : RoundTrip.Statement (.imul x) :=
  RoundTrip.of_fields rfl rfl rfl (Ty.ofCode_code x.ty) fun h => congrArg (some ∘ Instr.imul) (Raw.args_ofArgs _ h)
theorem RoundTrip.imulh (x : Args) : RoundTrip.Statement (.imulh x) :=
  RoundTrip.of_fields rfl rfl rfl (Ty.ofCode_code x.ty) fun h => congrArg (some ∘ Instr.imulh) (Raw.args_ofArgs _ h)
theorem RoundTrip.imad (x : Args4) : RoundTrip.Statement (.imad x) :=
  RoundTrip.of_fields rfl rfl rfl (Ty.ofCode_code x.ty) fun h => congrArg (some ∘ Instr.imad) (Raw.args4_ofArgs4 _ h)
theorem RoundTrip.imadw (x : Args4) : RoundTrip.Statement (.imadw x) :=
  RoundTrip.of_fields rfl rfl rfl (Ty.ofCode_code x.ty) fun h => congrArg (some ∘ Instr.imadw) (Raw.args4_ofArgs4 _ h)
theorem RoundTrip.idiv (x : Args) : RoundTrip.Statement (.idiv x) :=
  RoundTrip.of_fields rfl rfl rfl (Ty.ofCode_code x.ty) fun h => congrArg (some ∘ Instr.idiv) (Raw.args_ofArgs _ h)
theorem RoundTrip.irem (x : Args) : RoundTrip.Statement (.irem x) :=
  RoundTrip.of_fields rfl rfl rfl (Ty.ofCode_code x.ty) fun h => congrArg (some ∘ Instr.irem) (Raw.args_ofArgs _ h)
theorem RoundTrip.imin (x : Args) : RoundTrip.Statement (.imin x) :=
  RoundTrip.of_fields rfl rfl rfl (Ty.ofCode_code x.ty) fun h => congrArg (some ∘ Instr.imin) (Raw.args_ofArgs _ h)
theorem RoundTrip.imax (x : Args) : RoundTrip.Statement (.imax x) :=
  RoundTrip.of_fields rfl rfl rfl (Ty.ofCode_code x.ty) fun h => congrArg (some ∘ Instr.imax) (Raw.args_ofArgs _ h)
theorem RoundTrip.iabs (x : Args) : RoundTrip.Statement (.iabs x) :=
  RoundTrip.of_fields rfl rfl rfl (Ty.ofCode_code x.ty) fun h => congrArg (some ∘ Instr.iabs) (Raw.args_ofArgs _ h)
theorem RoundTrip.ineg (x : Args) : RoundTrip.Statement (.ineg x) :=
  RoundTrip.of_fields rfl rfl rfl (Ty.ofCode_code x.ty) fun h => congrArg (some ∘ Instr.ineg) (Raw.args_ofArgs _ h)
theorem RoundTrip.isad (x : Args4) : RoundTrip.Statement (.isad x) :=
  RoundTrip.of_fields rfl rfl rfl (Ty.ofCode_code x.ty) fun h => congrArg (some ∘ Instr.isad) (Raw.args4_ofArgs4 _ h)
theorem RoundTrip.iadds (x : Args) : RoundTrip.Statement (.iadds x) :=
  RoundTrip.of_fields rfl rfl rfl (Ty.ofCode_code x.ty) fun h => congrArg (some ∘ Instr.iadds) (Raw.args_ofArgs _ h)
theorem RoundTrip.isubs (x : Args) : RoundTrip.Statement (.isubs x) :=
  RoundTrip.of_fields rfl rfl rfl (Ty.ofCode_code x.ty) fun h => congrArg (some ∘ Instr.isubs) (Raw.args_ofArgs _ h)
theorem RoundTrip.icmp (x : Args) : RoundTrip.Statement (.icmp x) :=
  RoundTrip.of_fields rfl rfl rfl (Ty.ofCode_code x.ty) fun h => congrArg (some ∘ Instr.icmp) (Raw.args_ofArgs _ h)
theorem RoundTrip.isel (x : Args4) : RoundTrip.Statement (.isel x) :=
  RoundTrip.of_fields rfl rfl rfl (Ty.ofCode_code x.ty) fun h => congrArg (some ∘ Instr.isel) (Raw.args4_ofArgs4 _ h)
theorem RoundTrip.shl (x : Args) : RoundTrip.Statement (.shl x) :=
  RoundTrip.of_fields rfl rfl rfl (Ty.ofCode_code x.ty) fun h => congrArg (some ∘ Instr.shl) (Raw.args_ofArgs _ h)
theorem RoundTrip.shr (x : Args) : RoundTrip.Statement (.shr x) :=
  RoundTrip.of_fields rfl rfl rfl (Ty.ofCode_code x.ty) fun h => congrArg (some ∘ Instr.shr) (Raw.args_ofArgs _ h)
theorem RoundTrip.sra (x : Args) : RoundTrip.Statement (.sra x) :=
  RoundTrip.of_fields rfl rfl rfl (Ty.ofCode_code x.ty) fun h => congrArg (some ∘ Instr.sra) (Raw.args_ofArgs _ h)
theorem RoundTrip.shrr (x : Args) : RoundTrip.Statement (.shrr x) :=
  RoundTrip.of_fields rfl rfl rfl (Ty.ofCode_code x.ty) fun h => congrArg (some ∘ Instr.shrr) (Raw.args_ofArgs _ h)
theorem RoundTrip.rotl (x : Args) : RoundTrip.Statement (.rotl x) :=
  RoundTrip.of_fields rfl rfl rfl (Ty.ofCode_code x.ty) fun h => congrArg (some ∘ Instr.rotl) (Raw.args_ofArgs _ h)
theorem RoundTrip.and (x : Args) : RoundTrip.Statement (.and x) :=
  RoundTrip.of_fields rfl rfl rfl (Ty.ofCode_code x.ty) fun h => congrArg (some ∘ Instr.and) (Raw.args_ofArgs _ h)
theorem RoundTrip.or (x : Args) : RoundTrip.Statement (.or x) :=
  RoundTrip.of_fields rfl rfl rfl (Ty.ofCode_code x.ty) fun h => congrArg (some ∘ Instr.or) (Raw.args_ofArgs _ h)
theorem RoundTrip.xor (x : Args) : RoundTrip.Statement (.xor x) :=
  RoundTrip.of_fields rfl rfl rfl (Ty.ofCode_code x.ty) fun h => congrArg (some ∘ Instr.xor) (Raw.args_ofArgs _ h)
theorem RoundTrip.andn (x : Args) : RoundTrip.Statement (.andn x) :=
  RoundTrip.of_fields rfl rfl rfl (Ty.ofCode_code x.ty) fun h => congrArg (some ∘ Instr.andn) (Raw.args_ofArgs _ h)
theorem RoundTrip.not (x : Args) : RoundTrip.Statement (.not x) :=
  RoundTrip.of_fields rfl rfl rfl (Ty.ofCode_code x.ty) fun h => congrArg (some ∘ Instr.not) (Raw.args_ofArgs _ h)
theorem RoundTrip.lop3 (x : Args4) : RoundTrip.Statement (.lop3 x) :=
  RoundTrip.of_fields rfl rfl rfl (Ty.ofCode_code x.ty) fun h => congrArg (some ∘ Instr.lop3) (Raw.args4_ofArgs4 _ h)
theorem RoundTrip.clz (x : Args) : RoundTrip.Statement (.clz x) :=
  RoundTrip.of_fields rfl rfl rfl (Ty.ofCode_code x.ty) fun h => congrArg (some ∘ Instr.clz) (Raw.args_ofArgs _ h)
theorem RoundTrip.popc (x : Args) : RoundTrip.Statement (.popc x) :=
  RoundTrip.of_fields rfl rfl rfl (Ty.ofCode_code x.ty) fun h => congrArg (some ∘ Instr.popc) (Raw.args_ofArgs _ h)
theorem RoundTrip.brev (x : Args) : RoundTrip.Statement (.brev x) :=
  RoundTrip.of_fields rfl rfl rfl (Ty.ofCode_code x.ty) fun h => congrArg (some ∘ Instr.brev) (Raw.args_ofArgs _ h)
theorem RoundTrip.bfx (x : Args4) : RoundTrip.Statement (.bfx x) :=
  RoundTrip.of_fields rfl rfl rfl (Ty.ofCode_code x.ty) fun h => congrArg (some ∘ Instr.bfx) (Raw.args4_ofArgs4 _ h)
theorem RoundTrip.bfi (x : Args4) : RoundTrip.Statement (.bfi x) :=
  RoundTrip.of_fields rfl rfl rfl (Ty.ofCode_code x.ty) fun h => congrArg (some ∘ Instr.bfi) (Raw.args4_ofArgs4 _ h)
theorem RoundTrip.prmt (x : Args4) : RoundTrip.Statement (.prmt x) :=
  RoundTrip.of_fields rfl rfl rfl (Ty.ofCode_code x.ty) fun h => congrArg (some ∘ Instr.prmt) (Raw.args4_ofArgs4 _ h)
theorem RoundTrip.mov (x : Args) : RoundTrip.Statement (.mov x) :=
  RoundTrip.of_fields rfl rfl rfl (Ty.ofCode_code x.ty) fun h => congrArg (some ∘ Instr.mov) (Raw.args_ofArgs _ h)
theorem RoundTrip.dot2 (x : Args4) : RoundTrip.Statement (.dot2 x) :=
  RoundTrip.of_fields rfl rfl rfl (Ty.ofCode_code x.ty) fun h => congrArg (some ∘ Instr.dot2) (Raw.args4_ofArgs4 _ h)
theorem RoundTrip.dot4 (x : Args4) : RoundTrip.Statement (.dot4 x) :=
  RoundTrip.of_fields rfl rfl rfl (Ty.ofCode_code x.ty) fun h => congrArg (some ∘ Instr.dot4) (Raw.args4_ofArgs4 _ h)
theorem RoundTrip.padd (x : Args) : RoundTrip.Statement (.padd x) :=
  RoundTrip.of_fields rfl rfl rfl (Ty.ofCode_code x.ty) fun h => congrArg (some ∘ Instr.padd) (Raw.args_ofArgs _ h)
theorem RoundTrip.psub (x : Args) : RoundTrip.Statement (.psub x) :=
  RoundTrip.of_fields rfl rfl rfl (Ty.ofCode_code x.ty) fun h => congrArg (some ∘ Instr.psub) (Raw.args_ofArgs _ h)
theorem RoundTrip.pmul (x : Args) : RoundTrip.Statement (.pmul x) :=
  RoundTrip.of_fields rfl rfl rfl (Ty.ofCode_code x.ty) fun h => congrArg (some ∘ Instr.pmul) (Raw.args_ofArgs _ h)
theorem RoundTrip.pmin (x : Args) : RoundTrip.Statement (.pmin x) :=
  RoundTrip.of_fields rfl rfl rfl (Ty.ofCode_code x.ty) fun h => congrArg (some ∘ Instr.pmin) (Raw.args_ofArgs _ h)
theorem RoundTrip.pmax (x : Args) : RoundTrip.Statement (.pmax x) :=
  RoundTrip.of_fields rfl rfl rfl (Ty.ofCode_code x.ty) fun h => congrArg (some ∘ Instr.pmax) (Raw.args_ofArgs _ h)
theorem RoundTrip.pshr (x : Args) : RoundTrip.Statement (.pshr x) :=
  RoundTrip.of_fields rfl rfl rfl (Ty.ofCode_code x.ty) fun h => congrArg (some ∘ Instr.pshr) (Raw.args_ofArgs _ h)
theorem RoundTrip.fadd (x : Args) : RoundTrip.Statement (.fadd x) :=
  RoundTrip.of_fields rfl rfl rfl (Ty.ofCode_code x.ty) fun h => congrArg (some ∘ Instr.fadd) (Raw.args_ofArgs _ h)
theorem RoundTrip.fsub (x : Args) : RoundTrip.Statement (.fsub x) :=
  RoundTrip.of_fields rfl rfl rfl (Ty.ofCode_code x.ty) fun h => congrArg (some ∘ Instr.fsub) (Raw.args_ofArgs _ h)
theorem RoundTrip.fmul (x : Args) : RoundTrip.Statement (.fmul x) :=
  RoundTrip.of_fields rfl rfl rfl (Ty.ofCode_code x.ty) fun h => congrArg (some ∘ Instr.fmul) (Raw.args_ofArgs _ h)
theorem RoundTrip.ffma (x : Args4) : RoundTrip.Statement (.ffma x) :=
  RoundTrip.of_fields rfl rfl rfl (Ty.ofCode_code x.ty) fun h => congrArg (some ∘ Instr.ffma) (Raw.args4_ofArgs4 _ h)
theorem RoundTrip.fmin (x : Args) : RoundTrip.Statement (.fmin x) :=
  RoundTrip.of_fields rfl rfl rfl (Ty.ofCode_code x.ty) fun h => congrArg (some ∘ Instr.fmin) (Raw.args_ofArgs _ h)
theorem RoundTrip.fmax (x : Args) : RoundTrip.Statement (.fmax x) :=
  RoundTrip.of_fields rfl rfl rfl (Ty.ofCode_code x.ty) fun h => congrArg (some ∘ Instr.fmax) (Raw.args_ofArgs _ h)
theorem RoundTrip.fcmp (x : Args) : RoundTrip.Statement (.fcmp x) :=
  RoundTrip.of_fields rfl rfl rfl (Ty.ofCode_code x.ty) fun h => congrArg (some ∘ Instr.fcmp) (Raw.args_ofArgs _ h)
theorem RoundTrip.frcp (x : Args) : RoundTrip.Statement (.frcp x) :=
  RoundTrip.of_fields rfl rfl rfl (Ty.ofCode_code x.ty) fun h => congrArg (some ∘ Instr.frcp) (Raw.args_ofArgs _ h)
theorem RoundTrip.frsq (x : Args) : RoundTrip.Statement (.frsq x) :=
  RoundTrip.of_fields rfl rfl rfl (Ty.ofCode_code x.ty) fun h => congrArg (some ∘ Instr.frsq) (Raw.args_ofArgs _ h)
theorem RoundTrip.fsqrt (x : Args) : RoundTrip.Statement (.fsqrt x) :=
  RoundTrip.of_fields rfl rfl rfl (Ty.ofCode_code x.ty) fun h => congrArg (some ∘ Instr.fsqrt) (Raw.args_ofArgs _ h)
theorem RoundTrip.fexp2 (x : Args) : RoundTrip.Statement (.fexp2 x) :=
  RoundTrip.of_fields rfl rfl rfl (Ty.ofCode_code x.ty) fun h => congrArg (some ∘ Instr.fexp2) (Raw.args_ofArgs _ h)
theorem RoundTrip.flog2 (x : Args) : RoundTrip.Statement (.flog2 x) :=
  RoundTrip.of_fields rfl rfl rfl (Ty.ofCode_code x.ty) fun h => congrArg (some ∘ Instr.flog2) (Raw.args_ofArgs _ h)
theorem RoundTrip.fsinp (x : Args) : RoundTrip.Statement (.fsinp x) :=
  RoundTrip.of_fields rfl rfl rfl (Ty.ofCode_code x.ty) fun h => congrArg (some ∘ Instr.fsinp) (Raw.args_ofArgs _ h)
theorem RoundTrip.fcosp (x : Args) : RoundTrip.Statement (.fcosp x) :=
  RoundTrip.of_fields rfl rfl rfl (Ty.ofCode_code x.ty) fun h => congrArg (some ∘ Instr.fcosp) (Raw.args_ofArgs _ h)
theorem RoundTrip.fclass (x : Args) : RoundTrip.Statement (.fclass x) :=
  RoundTrip.of_fields rfl rfl rfl (Ty.ofCode_code x.ty) fun h => congrArg (some ∘ Instr.fclass) (Raw.args_ofArgs _ h)
theorem RoundTrip.frnd (x : Args) : RoundTrip.Statement (.frnd x) :=
  RoundTrip.of_fields rfl rfl rfl (Ty.ofCode_code x.ty) fun h => congrArg (some ∘ Instr.frnd) (Raw.args_ofArgs _ h)
theorem RoundTrip.pfadd (x : Args) : RoundTrip.Statement (.pfadd x) :=
  RoundTrip.of_fields rfl rfl rfl (Ty.ofCode_code x.ty) fun h => congrArg (some ∘ Instr.pfadd) (Raw.args_ofArgs _ h)
theorem RoundTrip.pfmul (x : Args) : RoundTrip.Statement (.pfmul x) :=
  RoundTrip.of_fields rfl rfl rfl (Ty.ofCode_code x.ty) fun h => congrArg (some ∘ Instr.pfmul) (Raw.args_ofArgs _ h)
theorem RoundTrip.pffma (x : Args4) : RoundTrip.Statement (.pffma x) :=
  RoundTrip.of_fields rfl rfl rfl (Ty.ofCode_code x.ty) fun h => congrArg (some ∘ Instr.pffma) (Raw.args4_ofArgs4 _ h)
theorem RoundTrip.cvt (x : Args) : RoundTrip.Statement (.cvt x) :=
  RoundTrip.of_fields rfl rfl rfl (Ty.ofCode_code x.ty) fun h => congrArg (some ∘ Instr.cvt) (Raw.args_ofArgs _ h)
theorem RoundTrip.cvtn (x : Args) : RoundTrip.Statement (.cvtn x) :=
  RoundTrip.of_fields rfl rfl rfl (Ty.ofCode_code x.ty) fun h => congrArg (some ∘ Instr.cvtn) (Raw.args_ofArgs _ h)
theorem RoundTrip.cvtq (x : Args) : RoundTrip.Statement (.cvtq x) :=
  RoundTrip.of_fields rfl rfl rfl (Ty.ofCode_code x.ty) fun h => congrArg (some ∘ Instr.cvtq) (Raw.args_ofArgs _ h)
theorem RoundTrip.radd (x : Args) : RoundTrip.Statement (.radd x) :=
  RoundTrip.of_fields rfl rfl rfl (Ty.ofCode_code x.ty) fun h => congrArg (some ∘ Instr.radd) (Raw.args_ofArgs _ h)
theorem RoundTrip.rsub (x : Args) : RoundTrip.Statement (.rsub x) :=
  RoundTrip.of_fields rfl rfl rfl (Ty.ofCode_code x.ty) fun h => congrArg (some ∘ Instr.rsub) (Raw.args_ofArgs _ h)
theorem RoundTrip.rmul (x : Args) : RoundTrip.Statement (.rmul x) :=
  RoundTrip.of_fields rfl rfl rfl (Ty.ofCode_code x.ty) fun h => congrArg (some ∘ Instr.rmul) (Raw.args_ofArgs _ h)
theorem RoundTrip.rcvt (x : Args) : RoundTrip.Statement (.rcvt x) :=
  RoundTrip.of_fields rfl rfl rfl (Ty.ofCode_code x.ty) fun h => congrArg (some ∘ Instr.rcvt) (Raw.args_ofArgs _ h)
theorem RoundTrip.pand (x : Args) : RoundTrip.Statement (.pand x) :=
  RoundTrip.of_fields rfl rfl rfl (Ty.ofCode_code x.ty) fun h => congrArg (some ∘ Instr.pand) (Raw.args_ofArgs _ h)
theorem RoundTrip.por (x : Args) : RoundTrip.Statement (.por x) :=
  RoundTrip.of_fields rfl rfl rfl (Ty.ofCode_code x.ty) fun h => congrArg (some ∘ Instr.por) (Raw.args_ofArgs _ h)
theorem RoundTrip.pxor (x : Args) : RoundTrip.Statement (.pxor x) :=
  RoundTrip.of_fields rfl rfl rfl (Ty.ofCode_code x.ty) fun h => congrArg (some ∘ Instr.pxor) (Raw.args_ofArgs _ h)
theorem RoundTrip.pnot (x : Args) : RoundTrip.Statement (.pnot x) :=
  RoundTrip.of_fields rfl rfl rfl (Ty.ofCode_code x.ty) fun h => congrArg (some ∘ Instr.pnot) (Raw.args_ofArgs _ h)
theorem RoundTrip.pget (x : Args) : RoundTrip.Statement (.pget x) :=
  RoundTrip.of_fields rfl rfl rfl (Ty.ofCode_code x.ty) fun h => congrArg (some ∘ Instr.pget) (Raw.args_ofArgs _ h)
theorem RoundTrip.pset (x : Args) : RoundTrip.Statement (.pset x) :=
  RoundTrip.of_fields rfl rfl rfl (Ty.ofCode_code x.ty) fun h => congrArg (some ∘ Instr.pset) (Raw.args_ofArgs _ h)
theorem RoundTrip.slide (x : Args) : RoundTrip.Statement (.slide x) :=
  RoundTrip.of_fields rfl rfl rfl (Ty.ofCode_code x.ty) fun h => congrArg (some ∘ Instr.slide) (Raw.args_ofArgs _ h)
theorem RoundTrip.shfl (x : Args) : RoundTrip.Statement (.shfl x) :=
  RoundTrip.of_fields rfl rfl rfl (Ty.ofCode_code x.ty) fun h => congrArg (some ∘ Instr.shfl) (Raw.args_ofArgs _ h)
theorem RoundTrip.bcast (x : Args) : RoundTrip.Statement (.bcast x) :=
  RoundTrip.of_fields rfl rfl rfl (Ty.ofCode_code x.ty) fun h => congrArg (some ∘ Instr.bcast) (Raw.args_ofArgs _ h)
theorem RoundTrip.vote (x : Args) : RoundTrip.Statement (.vote x) :=
  RoundTrip.of_fields rfl rfl rfl (Ty.ofCode_code x.ty) fun h => congrArg (some ∘ Instr.vote) (Raw.args_ofArgs _ h)
theorem RoundTrip.redux (x : Args) : RoundTrip.Statement (.redux x) :=
  RoundTrip.of_fields rfl rfl rfl (Ty.ofCode_code x.ty) fun h => congrArg (some ∘ Instr.redux) (Raw.args_ofArgs _ h)
theorem RoundTrip.scan (x : Args) : RoundTrip.Statement (.scan x) :=
  RoundTrip.of_fields rfl rfl rfl (Ty.ofCode_code x.ty) fun h => congrArg (some ∘ Instr.scan) (Raw.args_ofArgs _ h)
theorem RoundTrip.matchLanes (x : Args) : RoundTrip.Statement (.matchLanes x) :=
  RoundTrip.of_fields rfl rfl rfl (Ty.ofCode_code x.ty) fun h => congrArg (some ∘ Instr.matchLanes) (Raw.args_ofArgs _ h)
theorem RoundTrip.ld (x : MemArgs) : RoundTrip.Statement (.ld x) :=
  RoundTrip.of_fields rfl rfl rfl (Ty.ofCode_code x.ty) fun h => congrArg (some ∘ Instr.ld) (Raw.memArgs_ofMem _ h)
theorem RoundTrip.st (x : MemArgs) : RoundTrip.Statement (.st x) :=
  RoundTrip.of_fields rfl rfl rfl (Ty.ofCode_code x.ty) fun h => congrArg (some ∘ Instr.st) (Raw.memArgs_ofMem _ h)
theorem RoundTrip.lds (x : MemArgs) : RoundTrip.Statement (.lds x) :=
  RoundTrip.of_fields rfl rfl rfl (Ty.ofCode_code x.ty) fun h => congrArg (some ∘ Instr.lds) (Raw.memArgs_ofMem _ h)
theorem RoundTrip.sts (x : MemArgs) : RoundTrip.Statement (.sts x) :=
  RoundTrip.of_fields rfl rfl rfl (Ty.ofCode_code x.ty) fun h => congrArg (some ∘ Instr.sts) (Raw.memArgs_ofMem _ h)
theorem RoundTrip.ldp (x : MemArgs) : RoundTrip.Statement (.ldp x) :=
  RoundTrip.of_fields rfl rfl rfl (Ty.ofCode_code x.ty) fun h => congrArg (some ∘ Instr.ldp) (Raw.memArgs_ofMem _ h)
theorem RoundTrip.stp (x : MemArgs) : RoundTrip.Statement (.stp x) :=
  RoundTrip.of_fields rfl rfl rfl (Ty.ofCode_code x.ty) fun h => congrArg (some ∘ Instr.stp) (Raw.memArgs_ofMem _ h)
theorem RoundTrip.atom (x : AtomArgs) : RoundTrip.Statement (.atom x) :=
  RoundTrip.of_fields rfl rfl rfl (Ty.ofCode_code x.ty) fun h => congrArg (some ∘ Instr.atom) (Raw.atomArgs_ofAtom _ h)
theorem RoundTrip.atoms (x : AtomArgs) : RoundTrip.Statement (.atoms x) :=
  RoundTrip.of_fields rfl rfl rfl (Ty.ofCode_code x.ty) fun h => congrArg (some ∘ Instr.atoms) (Raw.atomArgs_ofAtom _ h)
theorem RoundTrip.pf (x : Args) : RoundTrip.Statement (.pf x) :=
  RoundTrip.of_fields rfl rfl rfl (Ty.ofCode_code x.ty) fun h => congrArg (some ∘ Instr.pf) (Raw.args_ofArgs _ h)
theorem RoundTrip.fence (x : Args) : RoundTrip.Statement (.fence x) :=
  RoundTrip.of_fields rfl rfl rfl (Ty.ofCode_code x.ty) fun h => congrArg (some ∘ Instr.fence) (Raw.args_ofArgs _ h)
theorem RoundTrip.fencex (x : Args) : RoundTrip.Statement (.fencex x) :=
  RoundTrip.of_fields rfl rfl rfl (Ty.ofCode_code x.ty) fun h => congrArg (some ∘ Instr.fencex) (Raw.args_ofArgs _ h)
theorem RoundTrip.seal (x : Args) : RoundTrip.Statement (.seal x) :=
  RoundTrip.of_fields rfl rfl rfl (Ty.ofCode_code x.ty) fun h => congrArg (some ∘ Instr.seal) (Raw.args_ofArgs _ h)
theorem RoundTrip.unseal (x : Args) : RoundTrip.Statement (.unseal x) :=
  RoundTrip.of_fields rfl rfl rfl (Ty.ofCode_code x.ty) fun h => congrArg (some ∘ Instr.unseal) (Raw.args_ofArgs _ h)
theorem RoundTrip.minit (x : Args) : RoundTrip.Statement (.minit x) :=
  RoundTrip.of_fields rfl rfl rfl (Ty.ofCode_code x.ty) fun h => congrArg (some ∘ Instr.minit) (Raw.args_ofArgs _ h)
theorem RoundTrip.lea (x : Args) : RoundTrip.Statement (.lea x) :=
  RoundTrip.of_fields rfl rfl rfl (Ty.ofCode_code x.ty) fun h => congrArg (some ∘ Instr.lea) (Raw.args_ofArgs _ h)
theorem RoundTrip.bra (x : Args) : RoundTrip.Statement (.bra x) :=
  RoundTrip.of_fields rfl rfl rfl (Ty.ofCode_code x.ty) fun h => congrArg (some ∘ Instr.bra) (Raw.args_ofArgs _ h)
theorem RoundTrip.brx (x : Args) : RoundTrip.Statement (.brx x) :=
  RoundTrip.of_fields rfl rfl rfl (Ty.ofCode_code x.ty) fun h => congrArg (some ∘ Instr.brx) (Raw.args_ofArgs _ h)
theorem RoundTrip.call (x : Args) : RoundTrip.Statement (.call x) :=
  RoundTrip.of_fields rfl rfl rfl (Ty.ofCode_code x.ty) fun h => congrArg (some ∘ Instr.call) (Raw.args_ofArgs _ h)
theorem RoundTrip.callx (x : Args) : RoundTrip.Statement (.callx x) :=
  RoundTrip.of_fields rfl rfl rfl (Ty.ofCode_code x.ty) fun h => congrArg (some ∘ Instr.callx) (Raw.args_ofArgs _ h)
theorem RoundTrip.ret (x : Args) : RoundTrip.Statement (.ret x) :=
  RoundTrip.of_fields rfl rfl rfl (Ty.ofCode_code x.ty) fun h => congrArg (some ∘ Instr.ret) (Raw.args_ofArgs _ h)
theorem RoundTrip.yield (x : Args) : RoundTrip.Statement (.yield x) :=
  RoundTrip.of_fields rfl rfl rfl (Ty.ofCode_code x.ty) fun h => congrArg (some ∘ Instr.yield) (Raw.args_ofArgs _ h)
theorem RoundTrip.exit (x : Args) : RoundTrip.Statement (.exit x) :=
  RoundTrip.of_fields rfl rfl rfl (Ty.ofCode_code x.ty) fun h => congrArg (some ∘ Instr.exit) (Raw.args_ofArgs _ h)
theorem RoundTrip.defer (x : Args) : RoundTrip.Statement (.defer x) :=
  RoundTrip.of_fields rfl rfl rfl (Ty.ofCode_code x.ty) fun h => congrArg (some ∘ Instr.defer) (Raw.args_ofArgs _ h)
theorem RoundTrip.nop (x : Args) : RoundTrip.Statement (.nop x) :=
  RoundTrip.of_fields rfl rfl rfl (Ty.ofCode_code x.ty) fun h => congrArg (some ∘ Instr.nop) (Raw.args_ofArgs _ h)
theorem RoundTrip.sleep (x : Args) : RoundTrip.Statement (.sleep x) :=
  RoundTrip.of_fields rfl rfl rfl (Ty.ofCode_code x.ty) fun h => congrArg (some ∘ Instr.sleep) (Raw.args_ofArgs _ h)
theorem RoundTrip.jinit (x : HandleArgs) : RoundTrip.Statement (.jinit x) :=
  RoundTrip.of_fields rfl rfl rfl (Ty.ofCode_code x.ty) fun h => congrArg (some ∘ Instr.jinit) (Raw.handleArgs_ofHandle _ h)
theorem RoundTrip.jarrive (x : HandleArgs) : RoundTrip.Statement (.jarrive x) :=
  RoundTrip.of_fields rfl rfl rfl (Ty.ofCode_code x.ty) fun h => congrArg (some ∘ Instr.jarrive) (Raw.handleArgs_ofHandle _ h)
theorem RoundTrip.jwait (x : HandleArgs) : RoundTrip.Statement (.jwait x) :=
  RoundTrip.of_fields rfl rfl rfl (Ty.ofCode_code x.ty) fun h => congrArg (some ∘ Instr.jwait) (Raw.handleArgs_ofHandle _ h)
theorem RoundTrip.jtest (x : HandleArgs) : RoundTrip.Statement (.jtest x) :=
  RoundTrip.of_fields rfl rfl rfl (Ty.ofCode_code x.ty) fun h => congrArg (some ∘ Instr.jtest) (Raw.handleArgs_ofHandle _ h)
theorem RoundTrip.regx (x : HandleArgs) : RoundTrip.Statement (.regx x) :=
  RoundTrip.of_fields rfl rfl rfl (Ty.ofCode_code x.ty) fun h => congrArg (some ∘ Instr.regx) (Raw.handleArgs_ofHandle _ h)
theorem RoundTrip.trap (x : Args) : RoundTrip.Statement (.trap x) :=
  RoundTrip.of_fields rfl rfl rfl (Ty.ofCode_code x.ty) fun h => congrArg (some ∘ Instr.trap) (Raw.args_ofArgs _ h)
theorem RoundTrip.tret (x : Args) : RoundTrip.Statement (.tret x) :=
  RoundTrip.of_fields rfl rfl rfl (Ty.ofCode_code x.ty) fun h => congrArg (some ∘ Instr.tret) (Raw.args_ofArgs _ h)
theorem RoundTrip.brk (x : Args) : RoundTrip.Statement (.brk x) :=
  RoundTrip.of_fields rfl rfl rfl (Ty.ofCode_code x.ty) fun h => congrArg (some ∘ Instr.brk) (Raw.args_ofArgs _ h)
theorem RoundTrip.rdsr (x : Args) : RoundTrip.Statement (.rdsr x) :=
  RoundTrip.of_fields rfl rfl rfl (Ty.ofCode_code x.ty) fun h => congrArg (some ∘ Instr.rdsr) (Raw.args_ofArgs _ h)
theorem RoundTrip.wrsr (x : Args) : RoundTrip.Statement (.wrsr x) :=
  RoundTrip.of_fields rfl rfl rfl (Ty.ofCode_code x.ty) fun h => congrArg (some ∘ Instr.wrsr) (Raw.args_ofArgs _ h)
theorem RoundTrip.setrate (x : Args) : RoundTrip.Statement (.setrate x) :=
  RoundTrip.of_fields rfl rfl rfl (Ty.ofCode_code x.ty) fun h => congrArg (some ∘ Instr.setrate) (Raw.args_ofArgs _ h)
theorem RoundTrip.clrrate (x : Args) : RoundTrip.Statement (.clrrate x) :=
  RoundTrip.of_fields rfl rfl rfl (Ty.ofCode_code x.ty) fun h => congrArg (some ∘ Instr.clrrate) (Raw.args_ofArgs _ h)
theorem RoundTrip.cksum (x : Args) : RoundTrip.Statement (.cksum x) :=
  RoundTrip.of_fields rfl rfl rfl (Ty.ofCode_code x.ty) fun h => congrArg (some ∘ Instr.cksum) (Raw.args_ofArgs _ h)
theorem RoundTrip.stsh (x : Args) : RoundTrip.Statement (.stsh x) :=
  RoundTrip.of_fields rfl rfl rfl (Ty.ofCode_code x.ty) fun h => congrArg (some ∘ Instr.stsh) (Raw.args_ofArgs _ h)
theorem RoundTrip.ldsh (x : Args) : RoundTrip.Statement (.ldsh x) :=
  RoundTrip.of_fields rfl rfl rfl (Ty.ofCode_code x.ty) fun h => congrArg (some ∘ Instr.ldsh) (Raw.args_ofArgs _ h)
theorem RoundTrip.getsh (x : Args) : RoundTrip.Statement (.getsh x) :=
  RoundTrip.of_fields rfl rfl rfl (Ty.ofCode_code x.ty) fun h => congrArg (some ∘ Instr.getsh) (Raw.args_ofArgs _ h)
theorem RoundTrip.acopy (x : HandleArgs) : RoundTrip.Statement (.acopy x) :=
  RoundTrip.of_fields rfl rfl rfl (Ty.ofCode_code x.ty) fun h => congrArg (some ∘ Instr.acopy) (Raw.handleArgs_ofHandle _ h)
theorem RoundTrip.afill (x : HandleArgs) : RoundTrip.Statement (.afill x) :=
  RoundTrip.of_fields rfl rfl rfl (Ty.ofCode_code x.ty) fun h => congrArg (some ∘ Instr.afill) (Raw.handleArgs_ofHandle _ h)
theorem RoundTrip.bcopy (x : HandleArgs) : RoundTrip.Statement (.bcopy x) :=
  RoundTrip.of_fields rfl rfl rfl (Ty.ofCode_code x.ty) fun h => congrArg (some ∘ Instr.bcopy) (Raw.handleArgs_ofHandle _ h)
theorem RoundTrip.hset (x : HandleArgs) : RoundTrip.Statement (.hset x) :=
  RoundTrip.of_fields rfl rfl rfl (Ty.ofCode_code x.ty) fun h => congrArg (some ∘ Instr.hset) (Raw.handleArgs_ofHandle _ h)
theorem RoundTrip.hget (x : HandleArgs) : RoundTrip.Statement (.hget x) :=
  RoundTrip.of_fields rfl rfl rfl (Ty.ofCode_code x.ty) fun h => congrArg (some ∘ Instr.hget) (Raw.handleArgs_ofHandle _ h)
theorem RoundTrip.nest (x : HandleArgs) : RoundTrip.Statement (.nest x) :=
  RoundTrip.of_fields rfl rfl rfl (Ty.ofCode_code x.ty) fun h => congrArg (some ∘ Instr.nest) (Raw.handleArgs_ofHandle _ h)
theorem RoundTrip.nestr (x : HandleArgs) : RoundTrip.Statement (.nestr x) :=
  RoundTrip.of_fields rfl rfl rfl (Ty.ofCode_code x.ty) fun h => congrArg (some ∘ Instr.nestr) (Raw.handleArgs_ofHandle _ h)
theorem RoundTrip.nestq (x : HandleArgs) : RoundTrip.Statement (.nestq x) :=
  RoundTrip.of_fields rfl rfl rfl (Ty.ofCode_code x.ty) fun h => congrArg (some ∘ Instr.nestq) (Raw.handleArgs_ofHandle _ h)
theorem RoundTrip.bankop (x : HandleArgs) : RoundTrip.Statement (.bankop x) :=
  RoundTrip.of_fields rfl rfl rfl (Ty.ofCode_code x.ty) fun h => congrArg (some ∘ Instr.bankop) (Raw.handleArgs_ofHandle _ h)
theorem RoundTrip.bankred (x : HandleArgs) : RoundTrip.Statement (.bankred x) :=
  RoundTrip.of_fields rfl rfl rfl (Ty.ofCode_code x.ty) fun h => congrArg (some ∘ Instr.bankred) (Raw.handleArgs_ofHandle _ h)
theorem RoundTrip.coll (x : HandleArgs) : RoundTrip.Statement (.coll x) :=
  RoundTrip.of_fields rfl rfl rfl (Ty.ofCode_code x.ty) fun h => congrArg (some ∘ Instr.coll) (Raw.handleArgs_ofHandle _ h)
theorem RoundTrip.cres (x : HandleArgs) : RoundTrip.Statement (.cres x) :=
  RoundTrip.of_fields rfl rfl rfl (Ty.ofCode_code x.ty) fun h => congrArg (some ∘ Instr.cres) (Raw.handleArgs_ofHandle _ h)
theorem RoundTrip.tclaim (x : HandleArgs) : RoundTrip.Statement (.tclaim x) :=
  RoundTrip.of_fields rfl rfl rfl (Ty.ofCode_code x.ty) fun h => congrArg (some ∘ Instr.tclaim) (Raw.handleArgs_ofHandle _ h)
theorem RoundTrip.trel (x : HandleArgs) : RoundTrip.Statement (.trel x) :=
  RoundTrip.of_fields rfl rfl rfl (Ty.ofCode_code x.ty) fun h => congrArg (some ∘ Instr.trel) (Raw.handleArgs_ofHandle _ h)
theorem RoundTrip.tzero (x : HandleArgs) : RoundTrip.Statement (.tzero x) :=
  RoundTrip.of_fields rfl rfl rfl (Ty.ofCode_code x.ty) fun h => congrArg (some ∘ Instr.tzero) (Raw.handleArgs_ofHandle _ h)
theorem RoundTrip.tmma (x : HandleArgs) : RoundTrip.Statement (.tmma x) :=
  RoundTrip.of_fields rfl rfl rfl (Ty.ofCode_code x.ty) fun h => congrArg (some ∘ Instr.tmma) (Raw.handleArgs_ofHandle _ h)
theorem RoundTrip.tmmas (x : HandleArgs) : RoundTrip.Statement (.tmmas x) :=
  RoundTrip.of_fields rfl rfl rfl (Ty.ofCode_code x.ty) fun h => congrArg (some ∘ Instr.tmmas) (Raw.handleArgs_ofHandle _ h)
theorem RoundTrip.tdrain (x : HandleArgs) : RoundTrip.Statement (.tdrain x) :=
  RoundTrip.of_fields rfl rfl rfl (Ty.ofCode_code x.ty) fun h => congrArg (some ∘ Instr.tdrain) (Raw.handleArgs_ofHandle _ h)
theorem RoundTrip.tsave (x : HandleArgs) : RoundTrip.Statement (.tsave x) :=
  RoundTrip.of_fields rfl rfl rfl (Ty.ofCode_code x.ty) fun h => congrArg (some ∘ Instr.tsave) (Raw.handleArgs_ofHandle _ h)
theorem RoundTrip.trest (x : HandleArgs) : RoundTrip.Statement (.trest x) :=
  RoundTrip.of_fields rfl rfl rfl (Ty.ofCode_code x.ty) fun h => congrArg (some ∘ Instr.trest) (Raw.handleArgs_ofHandle _ h)
theorem RoundTrip.tburst (x : HandleArgs) : RoundTrip.Statement (.tburst x) :=
  RoundTrip.of_fields rfl rfl rfl (Ty.ofCode_code x.ty) fun h => congrArg (some ∘ Instr.tburst) (Raw.handleArgs_ofHandle _ h)
theorem RoundTrip.tstat (x : HandleArgs) : RoundTrip.Statement (.tstat x) :=
  RoundTrip.of_fields rfl rfl rfl (Ty.ofCode_code x.ty) fun h => congrArg (some ∘ Instr.tstat) (Raw.handleArgs_ofHandle _ h)
theorem RoundTrip.launch (x : Args) : RoundTrip.Statement (.launch x) :=
  RoundTrip.of_fields rfl rfl rfl (Ty.ofCode_code x.ty) fun h => congrArg (some ∘ Instr.launch) (Raw.args_ofArgs _ h)
theorem RoundTrip.lstat (x : Args) : RoundTrip.Statement (.lstat x) :=
  RoundTrip.of_fields rfl rfl rfl (Ty.ofCode_code x.ty) fun h => congrArg (some ∘ Instr.lstat) (Raw.args_ofArgs _ h)
theorem RoundTrip.fixedResultWrite (quad : Nat) : RoundTrip.Statement (.fixedResultWrite quad) := RoundTrip.of_no_word rfl
theorem RoundTrip.variableResultReturn (gid seq : Nat) (err : Option ReturnErr) : RoundTrip.Statement (.variableResultReturn gid seq err) := RoundTrip.of_no_word rfl
theorem RoundTrip.storePerformed (req : Nat) : RoundTrip.Statement (.storePerformed req) := RoundTrip.of_no_word rfl
theorem RoundTrip.pageWalkComplete (gid : Nat) : RoundTrip.Statement (.pageWalkComplete gid) := RoundTrip.of_no_word rfl
theorem RoundTrip.sleepExpiry (gid : Nat) : RoundTrip.Statement (.sleepExpiry gid) := RoundTrip.of_no_word rfl
theorem RoundTrip.gangFree (gid : Nat) : RoundTrip.Statement (.gangFree gid) := RoundTrip.of_no_word rfl
theorem RoundTrip.admissionStep : RoundTrip.Statement (.admissionStep) := RoundTrip.of_no_word rfl
theorem RoundTrip.schedulerIssue (quad : Nat) : RoundTrip.Statement (.schedulerIssue quad) := RoundTrip.of_no_word rfl
theorem RoundTrip.engineCommandStart (e : EngineId) : RoundTrip.Statement (.engineCommandStart e) := RoundTrip.of_no_word rfl
theorem RoundTrip.commandChunk (e : EngineId) (outside : Outside) : RoundTrip.Statement (.commandChunk e outside) := RoundTrip.of_no_word rfl
theorem RoundTrip.commandComplete (e : EngineId) : RoundTrip.Statement (.commandComplete e) := RoundTrip.of_no_word rfl
theorem RoundTrip.bankOperation (bank : Nat) : RoundTrip.Statement (.bankOperation bank) := RoundTrip.of_no_word rfl
theorem RoundTrip.collInstanceComplete (instanceNo : Nat) (remote : List RemoteShare) (outside : Outside) : RoundTrip.Statement (.collInstanceComplete instanceNo remote outside) := RoundTrip.of_no_word rfl
theorem RoundTrip.matrixCommandStart (quad : Nat) (lane : MatLane) : RoundTrip.Statement (.matrixCommandStart quad lane) := RoundTrip.of_no_word rfl
theorem RoundTrip.matrixSequencerStep (quad : Nat) : RoundTrip.Statement (.matrixSequencerStep quad) := RoundTrip.of_no_word rfl
theorem RoundTrip.matrixCommandComplete (quad : Nat) (lane : MatLane) : RoundTrip.Statement (.matrixCommandComplete quad lane) := RoundTrip.of_no_word rfl
theorem RoundTrip.tstatResult (quad : Nat) : RoundTrip.Statement (.tstatResult quad) := RoundTrip.of_no_word rfl
theorem RoundTrip.burstHoldExpiry (quad : Nat) : RoundTrip.Statement (.burstHoldExpiry quad) := RoundTrip.of_no_word rfl
theorem RoundTrip.adjusterStep (power : Nat) : RoundTrip.Statement (.adjusterStep power) := RoundTrip.of_no_word rfl
theorem RoundTrip.unitEvaluation (u : PowerUnit) : RoundTrip.Statement (.unitEvaluation u) := RoundTrip.of_no_word rfl
theorem RoundTrip.pointChangeApply (u : PowerUnit) : RoundTrip.Statement (.pointChangeApply u) := RoundTrip.of_no_word rfl
theorem RoundTrip.clockChangeComplete (quad : Nat) : RoundTrip.Statement (.clockChangeComplete quad) := RoundTrip.of_no_word rfl
theorem RoundTrip.pwrcapWrite (value : Word) : RoundTrip.Statement (.pwrcapWrite value) := RoundTrip.of_no_word rfl
theorem RoundTrip.ratefloorWrite (value : Word) : RoundTrip.Statement (.ratefloorWrite value) := RoundTrip.of_no_word rfl
theorem RoundTrip.vdshareWrite (vd : Nat) (value : Word) : RoundTrip.Statement (.vdshareWrite vd value) := RoundTrip.of_no_word rfl
theorem RoundTrip.cspartWrite (value : Word) : RoundTrip.Statement (.cspartWrite value) := RoundTrip.of_no_word rfl
theorem RoundTrip.registerWrite (offset : Nat) (value : Word) : RoundTrip.Statement (.registerWrite offset value) := RoundTrip.of_no_word rfl
theorem RoundTrip.quantumWrite (vd : Nat) (value : Word) : RoundTrip.Statement (.quantumWrite vd value) := RoundTrip.of_no_word rfl
theorem RoundTrip.queueNotify (q : Nat) (value : Word) : RoundTrip.Statement (.queueNotify q value) := RoundTrip.of_no_word rfl
theorem RoundTrip.guestNotify (vd gq : Nat) (value : Word) : RoundTrip.Statement (.guestNotify vd gq value) := RoundTrip.of_no_word rfl
theorem RoundTrip.launchPacket (q : Nat) : RoundTrip.Statement (.launchPacket q) := RoundTrip.of_no_word rfl
theorem RoundTrip.poolPacket (q : Nat) : RoundTrip.Statement (.poolPacket q) := RoundTrip.of_no_word rfl
theorem RoundTrip.copyPacket (q : Nat) : RoundTrip.Statement (.copyPacket q) := RoundTrip.of_no_word rfl
theorem RoundTrip.signalPacket (q : Nat) : RoundTrip.Statement (.signalPacket q) := RoundTrip.of_no_word rfl
theorem RoundTrip.waitPacket (q : Nat) : RoundTrip.Statement (.waitPacket q) := RoundTrip.of_no_word rfl
theorem RoundTrip.waitPoll (q : Nat) : RoundTrip.Statement (.waitPoll q) := RoundTrip.of_no_word rfl
theorem RoundTrip.ratePacket (q : Nat) : RoundTrip.Statement (.ratePacket q) := RoundTrip.of_no_word rfl
theorem RoundTrip.markPacket (q : Nat) : RoundTrip.Statement (.markPacket q) := RoundTrip.of_no_word rfl
theorem RoundTrip.copyPacketComplete (q index : Nat) : RoundTrip.Statement (.copyPacketComplete q index) := RoundTrip.of_no_word rfl
theorem RoundTrip.basketFlushTimeout (pool basket : Nat) : RoundTrip.Statement (.basketFlushTimeout pool basket) := RoundTrip.of_no_word rfl
theorem RoundTrip.quantumExpiry (quad : Nat) : RoundTrip.Statement (.quantumExpiry quad) := RoundTrip.of_no_word rfl
theorem RoundTrip.hostPreemptRequest (ctx : Nat) (boundary : Bool) (teams : List Nat) : RoundTrip.Statement (.hostPreemptRequest ctx boundary teams) := RoundTrip.of_no_word rfl
theorem RoundTrip.preemptEntry (gid : Nat) : RoundTrip.Statement (.preemptEntry gid) := RoundTrip.of_no_word rfl
theorem RoundTrip.engineStop (team : Nat) : RoundTrip.Statement (.engineStop team) := RoundTrip.of_no_word rfl
theorem RoundTrip.gangStowed (gid : Nat) : RoundTrip.Statement (.gangStowed gid) := RoundTrip.of_no_word rfl
theorem RoundTrip.rinseStart (quad : Nat) : RoundTrip.Statement (.rinseStart quad) := RoundTrip.of_no_word rfl
theorem RoundTrip.rinseComplete (quad : Nat) : RoundTrip.Statement (.rinseComplete quad) := RoundTrip.of_no_word rfl
theorem RoundTrip.teamRestore (team : Nat) : RoundTrip.Statement (.teamRestore team) := RoundTrip.of_no_word rfl
theorem RoundTrip.contextTeardown (ctx : Nat) : RoundTrip.Statement (.contextTeardown ctx) := RoundTrip.of_no_word rfl
theorem RoundTrip.memoryRequest (channel : Nat) (fault : Option LineFault) : RoundTrip.Statement (.memoryRequest channel fault) := RoundTrip.of_no_word rfl
theorem RoundTrip.rowRefresh (channel row : Nat) : RoundTrip.Statement (.rowRefresh channel row) := RoundTrip.of_no_word rfl
theorem RoundTrip.mendGo (stack : Nat) : RoundTrip.Statement (.mendGo stack) := RoundTrip.of_no_word rfl
theorem RoundTrip.granuleMoving : RoundTrip.Statement (.granuleMoving) := RoundTrip.of_no_word rfl
theorem RoundTrip.granuleCommit : RoundTrip.Statement (.granuleCommit) := RoundTrip.of_no_word rfl
theorem RoundTrip.coreSpare (core : Nat) : RoundTrip.Statement (.coreSpare core) := RoundTrip.of_no_word rfl
theorem RoundTrip.rowRepair (channel row : Nat) : RoundTrip.Statement (.rowRepair channel row) := RoundTrip.of_no_word rfl
theorem RoundTrip.bankSpare (bay bank : Nat) : RoundTrip.Statement (.bankSpare bay bank) := RoundTrip.of_no_word rfl
theorem RoundTrip.channelRetire (k : Nat) : RoundTrip.Statement (.channelRetire k) := RoundTrip.of_no_word rfl
theorem RoundTrip.repairComplete (index : Nat) : RoundTrip.Statement (.repairComplete index) := RoundTrip.of_no_word rfl
theorem RoundTrip.hostMemAccess (access : HostAccess) : RoundTrip.Statement (.hostMemAccess access) := RoundTrip.of_no_word rfl
theorem RoundTrip.farTimeout : RoundTrip.Statement (.farTimeout) := RoundTrip.of_no_word rfl
theorem RoundTrip.linkDown : RoundTrip.Statement (.linkDown) := RoundTrip.of_no_word rfl
theorem RoundTrip.linkUp : RoundTrip.Statement (.linkUp) := RoundTrip.of_no_word rfl
theorem RoundTrip.resume : RoundTrip.Statement (.resume) := RoundTrip.of_no_word rfl
theorem RoundTrip.fabricRequest (peer : Nat) (op : FabricOp) : RoundTrip.Statement (.fabricRequest peer op) := RoundTrip.of_no_word rfl
theorem RoundTrip.fabricLaneFail (port : Nat) : RoundTrip.Statement (.fabricLaneFail port) := RoundTrip.of_no_word rfl
theorem RoundTrip.portDegradeComplete (port : Nat) : RoundTrip.Statement (.portDegradeComplete port) := RoundTrip.of_no_word rfl
theorem RoundTrip.portModeRequest (port : Nat) (ethernet : Bool) : RoundTrip.Statement (.portModeRequest port ethernet) := RoundTrip.of_no_word rfl
theorem RoundTrip.ptpMessage (offsetNs : Int) : RoundTrip.Statement (.ptpMessage offsetNs) := RoundTrip.of_no_word rfl
theorem RoundTrip.frameArrival (port : Nat) (ethertype : BitVec 16) (fcsOk : Bool) (frame : List Byte) : RoundTrip.Statement (.frameArrival port ethertype fcsOk frame) := RoundTrip.of_no_word rfl
theorem RoundTrip.framePublish (channel : Nat) : RoundTrip.Statement (.framePublish channel) := RoundTrip.of_no_word rfl
theorem RoundTrip.lossSlotWrite (channel : Nat) : RoundTrip.Statement (.lossSlotWrite channel) := RoundTrip.of_no_word rfl
theorem RoundTrip.icbPoll (channel : Nat) : RoundTrip.Statement (.icbPoll channel) := RoundTrip.of_no_word rfl
theorem RoundTrip.ingressEnable (channel : Nat) (value : Word) : RoundTrip.Statement (.ingressEnable channel value) := RoundTrip.of_no_word rfl
theorem RoundTrip.ingressStop (channel : Nat) : RoundTrip.Statement (.ingressStop channel) := RoundTrip.of_no_word rfl
theorem RoundTrip.powerUp (boot : BootInput) : RoundTrip.Statement (.powerUp boot) := RoundTrip.of_no_word rfl
theorem RoundTrip.deviceReset : RoundTrip.Statement (.deviceReset) := RoundTrip.of_no_word rfl
theorem RoundTrip.patchGo (image : PatchImage) : RoundTrip.Statement (.patchGo image) := RoundTrip.of_no_word rfl
theorem RoundTrip.patchCommit : RoundTrip.Statement (.patchCommit) := RoundTrip.of_no_word rfl
theorem RoundTrip.patchAbandon : RoundTrip.Statement (.patchAbandon) := RoundTrip.of_no_word rfl
theorem RoundTrip.wext (index : BitVec 2) (digest : BitVec 512) : RoundTrip.Statement (.wext index digest) := RoundTrip.of_no_word rfl
theorem RoundTrip.getMeasurements : RoundTrip.Statement (.getMeasurements) := RoundTrip.of_no_word rfl
theorem RoundTrip.samplingArm (vd : Nat) (ring : DWord) (log2n : BitVec 5) (interval : Word) : RoundTrip.Statement (.samplingArm vd ring log2n interval) := RoundTrip.of_no_word rfl
theorem RoundTrip.sampleRecord (quad : Nat) : RoundTrip.Statement (.sampleRecord quad) := RoundTrip.of_no_word rfl
theorem RoundTrip.debugArm (value : Word) : RoundTrip.Statement (.debugArm value) := RoundTrip.of_no_word rfl
theorem RoundTrip.teamStop : RoundTrip.Statement (.teamStop) := RoundTrip.of_no_word rfl
theorem RoundTrip.teamResume : RoundTrip.Statement (.teamResume) := RoundTrip.of_no_word rfl
theorem RoundTrip.mappingRequest (level : Nat) (entryDpa : Nat) (value : DWord) : RoundTrip.Statement (.mappingRequest level entryDpa value) := RoundTrip.of_no_word rfl
theorem RoundTrip.contextCreate (ctx descriptor : Nat) : RoundTrip.Statement (.contextCreate ctx descriptor) := RoundTrip.of_no_word rfl
theorem RoundTrip.preemptRequestWithdrawn (ctx : Nat) : RoundTrip.Statement (.preemptRequestWithdrawn ctx) := RoundTrip.of_no_word rfl

end Sys2Proof.Laws
end

