-- ==== Sys2Proof/Laws/Requests.lean ====
section
/-!
SUPPORT. Laws of the requests of units and commands: what sending leaves, and everything that a step which waits for its requests can do.
-/
namespace Sys2Proof.Machine
open Sys2Proof

/-- What leaves a unit is what it sends, each with an identifier and a place in its order. -/
theorem State.mem_numbered {s : State} {rs : List Req} {r : Req} (h : r ∈ s.numbered rs) :
    ∃ q ∈ rs, ∃ n m, r = { q with id := n, seq := m } := by
  simp only [State.numbered, List.mem_mapIdx] at h
  obtain ⟨i, hi, rfl⟩ := h
  exact ⟨rs[i], List.getElem_mem hi, _, _, rfl⟩
@[simp] theorem State.length_numbered (s : State) (rs : List Req) : (s.numbered rs).length = rs.length := by simp [State.numbered]

@[simp] theorem State.send_reqs (s : State) (rs : List Req) : (s.send rs).reqs = s.reqs ++ s.numbered rs := rfl
@[simp] theorem State.send_agenda (s : State) (rs : List Req) :
    (s.send rs).agenda = s.agenda ++ (s.numbered rs).map fun q => .storePerformed q.id := rfl
/-- Sending changes the requests, the count of identifiers and the agenda. -/
theorem State.send_eq (s : State) (rs : List Req) : s.send rs =
    { s with reqs := s.reqs ++ s.numbered rs, nextId := s.nextId + (s.numbered rs).length,
             agenda := s.agenda ++ (s.numbered rs).map fun q => .storePerformed q.id } := rfl
@[simp] theorem State.send_mem (s : State) (rs : List Req) : (s.send rs).mem = s.mem := rfl
@[simp] theorem State.send_gangs (s : State) (rs : List Req) : (s.send rs).gangs = s.gangs := rfl
@[simp] theorem State.send_waits (s : State) (rs : List Req) : (s.send rs).waits = s.waits := rfl
@[simp] theorem State.post_mem (s : State) (u : Source) (a n x : Nat) : (s.post u a n x).mem = s.mem := rfl
@[simp] theorem State.postRel_mem (s : State) (u : Source) (a n x : Nat) : (s.postRel u a n x).mem = s.mem := rfl
@[simp] theorem State.retry_mem (s : State) (i : Instr) : (s.retry i).mem = s.mem := rfl
@[simp] theorem State.spoil_mem (s : State) (id : Nat) : (s.spoil id).mem = s.mem := rfl
@[simp] theorem State.forget_mem (s : State) (i : Instr) : (s.forget i).mem = s.mem := rfl
@[simp] theorem State.holdAt_mem (s : State) (i : Instr) (n : Nat) : (s.holdAt i n).mem = s.mem := rfl
@[simp] theorem State.awaitSince_mem (s t : State) (i : Instr) (n : Nat) : (s.awaitSince t i n).mem = t.mem := rfl

/-- Every store of a unit is one that performs nothing yet. -/
theorem State.mem_storeReqs {s : State} {u : Source} {rel : Bool} {sp : Space} {own a n x : Nat} {r : Req}
    (h : r ∈ s.storeReqs u rel sp own a n x) :
    r.kind = .store ∧ r.rel = rel ∧ r.space = sp ∧ r.gid = 0 ∧ r.who = u.who ∧ r.cls = u.cls ∧ r.served = false ∧
      r.stamp = (s.now64 + u.ahead) % 2 ^ 16 := by
  simp only [State.storeReqs, List.mem_map] at h
  obtain ⟨l, -, rfl⟩ := h
  exact ⟨rfl, rfl, rfl, rfl, rfl, rfl, rfl, rfl⟩

/-- A step with requests is tried again while they are under way, acts when they have been performed, acts at once where it has none or has
passed this stage, and else sends them and waits. -/
theorem State.await_cases (s : State) (i : Instr) (stage : Nat) (rs : List Req) (act : State → State) :
    (∃ w, s.waitOf i stage = some w ∧ s.waitRuns w = true ∧ s.await i stage rs act = s.retry i) ∨
    (∃ w, s.waitOf i stage = some w ∧ s.waitRuns w = false ∧ s.await i stage rs act = act { s with waits := s.waits.erase w }) ∨
    (s.waitOf i stage = none ∧ (rs = [] ∨ ∃ w ∈ s.waits, w.step = i ∧ stage < w.stage) ∧ s.await i stage rs act = act s) ∨
    (s.waitOf i stage = none ∧ rs ≠ [] ∧ (∀ w ∈ s.waits, w.step = i → w.stage ≤ stage) ∧
      s.await i stage rs act = ({ s.send rs with waits := s.waits ++ [⟨i, stage, (s.numbered rs).map (·.id), false⟩] } : State).retry i) := by
  unfold State.await
  split
  · next w h =>
    cases hr : s.waitRuns w with
    | true => exact .inl ⟨w, h, hr, by simp⟩
    | false => exact .inr (.inl ⟨w, h, hr, by simp⟩)
  · next h =>
    by_cases hb : (rs.isEmpty || s.waits.any fun w => w.step == i && decide (stage < w.stage)) = true
    · refine .inr (.inr (.inl ⟨h, ?_, by simp [hb]⟩))
      simpa using hb
    · refine .inr (.inr (.inr ⟨h, ?_, ?_, by simp [hb]⟩)) <;>
        simp only [Bool.or_eq_true, List.isEmpty_iff, List.any_eq_true, Bool.and_eq_true, beq_iff_eq, decide_eq_true_eq] at hb
      · exact fun e => hb (.inl e)
      · exact fun w hw e => Nat.le_of_not_lt fun hl => hb (.inr ⟨w, hw, e, hl⟩)

/-- What a step that waits keeps: memory, where its act keeps a property of memory. -/
theorem State.await_keeps_mem {P : List Host.Cell → Prop} {s : State} {i : Instr} {stage : Nat} {rs : List Req} {act : State → State}
    (h : P s.mem) (ha : ∀ t : State, t.mem = s.mem → P (act t).mem) : P (s.await i stage rs act).mem := by
  rcases s.await_cases i stage rs act with ⟨w, -, -, e⟩ | ⟨w, -, -, e⟩ | ⟨-, -, e⟩ | ⟨-, -, -, e⟩ <;> rw [e]
  · exact h
  · exact ha _ rfl
  · exact ha _ rfl
  · exact h

theorem State.bookChunks_mem (ls : List (Cmd × ChunkEnd)) (s : State) : (ls.foldl (fun s q => s.bookChunk q.1 q.2) s).mem = s.mem := by
  induction ls generalizing s with
  | nil => rfl
  | cons q ls ih => exact (ih _).trans rfl

/-- The chunks of some commands act at once where none of their requests is under way and none has to leave; else memory stays. -/
theorem State.awaitChunks_mem {s t : State} {l : List (Cmd × ChunkEnd)} {i : Instr} (h : s.awaitChunks l i = some t) : t.mem = s.mem := by
  unfold State.awaitChunks at h
  split at h
  · cases h; rfl
  · dsimp only at h
    split at h
    · cases h
    · cases h
      exact State.bookChunks_mem _ s

end Sys2Proof.Machine
end

