-- ==== Sys2Proof/Tests/Slice0.lean ====
section
/-!
SUPPORT. Tests: words of the spec's worked encodings, one ill-formed term for each check of WellFormed, worked values of the spec,
and for each statement with hypotheses a state and operands that meet them.
-/
namespace Sys2Proof.Tests
set_option Elab.async false
open Sys2Proof Machine Safety Claims

/-! ### A small state -/

/-- Guard p7, no hints. -/
def hd : Head := ⟨⟨false, 7#3⟩, ⟨false, false, false, false, false⟩⟩
/-- A state whose first port issues all 32 lanes of one gang. -/
def base : State := State.reset.placeWord 0
/-- That port. -/
def port : Port := ⟨3, 0xFFFFFFFF#32, 1, false, 0#32, 1⟩
/-- That gang: 256 registers, all zero. -/
def gang : Gang := loadGang 3 2 0

/-- A gang at its port with no register pending and none marked. -/
structure Clear (s : State) (p : Port) (g : Gang) : Prop extends AtPort s p g where
  marks : g.marked = []
  waits : g.pendingCodes = []

/-- What `Performs` asks beside that. -/
def performs (i : Instr) (s : State) (p : Port) (g : Gang) : Bool :=
  (earlyTrap i (ctx i s p g)).isNone && decide ((ctx i s p g).mask ≠ 0#32) && (indexedTrap i (ctx i s p g)).isNone

theorem performs_of {i : Instr} {s : State} {p : Port} {g : Gang} (a : Clear s p g) (h : performs i s p g = true) :
    Performs i s p g := by
  simp only [performs, Bool.and_eq_true, decide_eq_true_eq, Option.isNone_iff_eq_none] at h
  obtain ⟨⟨h3, h6⟩, h7⟩ := h
  refine ⟨a.toAtPort, h3, ?_, ?_, h6, h7⟩
  · simp [eligibleMarks, a.marks, ldErr]
  · simp [a.waits]

/-- The gang stands at the port. -/
theorem base_clear : Clear base port gang := ⟨⟨by decide +kernel, by decide +kernel⟩, by decide +kernel, by decide +kernel⟩

/-- A gang with 200 lines to spare takes whatever an instruction writes. -/
theorem fits_of {c : Ictx} (h : c.g.settled.gCount + c.g.settled.reserved + 200 ≤ c.g.gmax) (ws : List RegWrite) (late : Bool)
    (hw : ws.length ≤ 200) : fits c ws late := shapeOvf_room (by omega)
theorem gang_room : gang.settled.gCount + gang.settled.reserved + 200 ≤ gang.gmax := by decide +kernel

/-- Operands: D, A and B. -/
def x3 (d a b : Operand) : Args := ⟨hd, .i32, false, 0, 0, d, a, b, 0⟩
def x4 (d a b c : Operand) : Args4 := ⟨hd, .i32, false, 0, 0, d, a, b, c, 0⟩
def vz : Args := x3 (.v 8) .zero .zero
def vz4 : Args4 := x4 (.v 8) .zero .zero .zero
def pz : Args := x3 (.p 1) .zero .zero


/-- A small state with another gang at the port. -/
def withG (g : Gang) : State := { base with gangs := [g] }

/-- What the statements about lanes ask of the small state: the instruction is performed, and whatever it writes fits the budget. -/
def Ready (l : List Instr) : Prop := ∀ i ∈ l, Performs i base port gang ∧
    ∀ ws late, ws.length ≤ 200 → fits (ctx i base port gang) ws late
theorem ready_of {l : List Instr} (h : l.all (performs · base port gang) = true) : Ready l :=
  fun i hi => ⟨performs_of base_clear (List.all_eq_true.mp h i hi), fits_of gang_room⟩

/-- What the statements about traps ask of the small state: its gang may enter a handler. -/
theorem base_enters : base.gridOf gang = some (loadGrid 1) ∧ base.contextOf gang = some loadContext ∧ gang.hnd = false ∧
    vectorIn (loadGrid 1) loadContext ≠ 0#64 := by decide +kernel

/-- Handles, joints and engines unused. -/
def xh (d a b : Operand) (jnt : BitVec 5) (x1 : BitVec 8) : HandleArgs := ⟨hd, .untyped, false, 0, 0, d, a, b, 0, jnt, 0, 0, x1⟩
/-- Operands without a type. -/
def xu (d a b : Operand) (imm : Word) : Args := ⟨hd, .untyped, false, 0, 0, d, a, b, imm⟩

/-! ### Words of the worked encodings (06, 08 and the chapters of the instructions) -/

/-- The guard p7 with the hint of a switch marker. -/
def hsw : Head := ⟨⟨false, 7#3⟩, ⟨true, false, false, false, false⟩⟩

/-- The word of three parcels, the first at the lowest address. -/
def parcels (a b c : Word) : InstrWord := c ++ b ++ a

theorem test_decode_lds : decode (parcels 0x0600DD82 0x40006000 0) =
    .ok (.lds ⟨hd, .u32, 0, 0, 0, .v 3, .v 6, .v 0, 16⟩) := rfl
theorem test_decode_lds_pair : decode (parcels 0x09041D82 0x00008000 0x04000000) =
    .ok (.lds ⟨hsw, .u64, 0, 0, 0, .v 16, .v 9, .v 0, 0⟩) := rfl
theorem test_decode_iadds : decode (parcels 0x19071C4D 0x01005068 0x04000000) =
    .ok (.iadds ⟨hsw, .i32, false, 8, 0, .v 28, .v 25, .v 26, 0⟩) := rfl
theorem test_decode_shrr : decode (parcels 0x08025C54 0x02505C10 0) =
    .ok (.shrr ⟨hd, .i32, true, 2, 4, .v 9, .v 8, .const 4, 0⟩) := rfl
theorem test_decode_redux : decode (parcels 0x0200DD44 0xFC010000 0x03FFFFFF) =
    .ok (.redux ⟨hd, .f32, false, 0, 0, .v 3, .v 2, .v 0, 0xFFFFFFFF⟩) := rfl
theorem test_decode_fencex : decode (parcels 0x00001D8A 0x04040000 0x00000008) =
    .ok (.fencex ⟨hd, .untyped, false, 0, 1, .v 0, .v 0, .v 0, 0x201⟩) := rfl
theorem test_decode_jwait : decode (parcels 0x05001E02 0 0x000C0000) =
    .ok (.jwait ⟨hd, .untyped, false, 0, 0, .v 0, .v 5, .v 0, 0, 3, 0, 0, 0⟩) := rfl
theorem test_decode_defer : decode (parcels 0x04001DC7 0x18000C0C 0) =
    .ok (.defer ⟨hd, .untyped, false, 0, 0, .v 0, .v 4, .const 3, 6⟩) := rfl
theorem test_decode_tret : decode (parcels 0x00001E11 0 0) = .ok (.tret ⟨hd, .untyped, false, 0, 0, .v 0, .v 0, .v 0, 0⟩) := rfl
theorem test_decode_rdsr : decode (parcels 0x00051E13 0x18000000 0) =
    .ok (.rdsr ⟨hd, .untyped, false, 0, 0, .v 20, .v 0, .v 0, 6⟩) := rfl
theorem test_decode_setrate : decode (parcels 0x1D001E15 2 0) =
    .ok (.setrate ⟨hd, .untyped, false, 0, 0, .v 0, .zero, .v 0, 0⟩) := rfl
theorem test_decode_stsh : decode (parcels 0x00875E18 0xC000001C 0x00000020) =
    .ok (.stsh ⟨hd, .untyped, false, 0, 0, .zero, .v 0, .v 7, 0x830⟩) := rfl
theorem test_decode_hset : decode (parcels 0x02001E43 0x20000000 0x007C0000) =
    .ok (.hset ⟨hd, .untyped, false, 0, 0, .v 0, .v 2, .v 0, 0, 31, 0, 0, 8⟩) := rfl
theorem test_decode_coll : decode (parcels 0x02005E82 0x184C0008 0x00000414) =
    .ok (.coll ⟨hd, .untyped, false, 2, 3, .v 1, .v 2, .v 2, 0, 0, 1, 5, 6⟩) := rfl
theorem test_decode_tmma : decode (parcels 0x00875EC3 0 0x007C0400) =
    .ok (.tmma ⟨hd, .untyped, false, 0, 0, .zero, .v 0, .v 0, 0, 31, 1, 0, 0⟩) := rfl
theorem test_decode_tdrain : decode (parcels 0x1D875EC5 0x0C000002 0) =
    .ok (.tdrain ⟨hd, .untyped, false, 0, 0, .zero, .zero, .v 0, 0, 0, 0, 0, 3⟩) := rfl
theorem test_decode_tsave : decode (parcels 0x1D875EC6 0x28000002 0x007C0000) =
    .ok (.tsave ⟨hd, .untyped, false, 0, 0, .zero, .zero, .v 0, 0, 31, 0, 0, 10⟩) := rfl
theorem test_decode_launch : decode (parcels 0x06011F00 0 1) =
    .ok (.launch ⟨hd, .untyped, false, 0, 0, .v 4, .v 6, .v 0, 64⟩) := rfl
theorem test_decode_lstat : decode (parcels 0x04015F01 0 0) = .ok (.lstat ⟨hd, .untyped, false, 0, 0, .v 5, .v 4, .v 0, 0⟩) := rfl
/-- The encoder writes the words of the spec. -/
theorem test_encode_acopy : encode (.acopy ⟨hd, .untyped, false, 1, 0, .v 9, .v 6, .zero, 0, 1, 0, 2, 4⟩) =
    some (parcels 0x06025E40 0x10200874 0x00040008) := by decide +kernel

/-! ### Ill-formed terms -/

/-- A TY the instruction does not take, a SAT, SEL or RND it does not have, a hold bit without its operand, an unlisted operand code. -/
theorem test_illformed_args :
    ([.iadd ⟨hd, .f32, false, 0, 0, .v 1, .v 2, .v 3, 0⟩, .imulh ⟨hd, .i32, true, 0, 0, .v 1, .v 2, .v 3, 0⟩,
      .icmp ⟨hd, .i32, false, 6, 0, .p 1, .v 2, .v 3, 0⟩, .fadd ⟨hd, .f32, false, 0, 5, .v 1, .v 2, .v 3, 0⟩,
      .ineg ⟨⟨⟨false, 7⟩, ⟨false, false, true, false, false⟩⟩, .i32, false, 0, 0, .v 1, .v 2, .v 0, 0⟩,
      .iadd ⟨hd, .i32, false, 0, 0, .v 1, .unlisted 0x208, .v 3, 0⟩,
      .imad ⟨hd, .i64, false, 0, 0, .v 1, .v 2, .v 3, .v 4, 0⟩] : List Instr).all (fun i => !i.wellFormed) = true := by decide +kernel
/-- A source format CVT does not have, a special register that is not there, a modulo operand with an offset, an order with a scope,
a REDUX of logic on floats, an atomic operation on a type it does not take, a fence of a scope that is not there, FENCEX with an empty
mask, a joint number between 24 and 30, a COLL at a scope it does not have, nonzero top bits of a handle form. -/
theorem test_illformed_other :
    ([.cvt ⟨hd, .f32, false, 0, 0, .v 1, .v 2, .v 0, 0x3F⟩, .rdsr ⟨hd, .untyped, false, 0, 0, .v 1, .v 0, .v 0, 0x13⟩,
      .ld ⟨hd, .u32, 0, 0, 0, .v 1, .m 0, .v 0, 4⟩, .ld ⟨hd, .u32, 0, 0, 3, .v 1, .v 2, .v 0, 0⟩,
      .redux ⟨hd, .f32, false, 3, 0, .v 1, .v 2, .v 0, 0⟩, .atom ⟨hd, .f32, 4, 0, 0, .v 1, .v 2, .v 4, .v 0, 0⟩,
      .fence ⟨hd, .untyped, false, 0, 6, .v 0, .v 0, .v 0, 0⟩, .fencex ⟨hd, .untyped, false, 0, 1, .v 0, .v 0, .v 0, 0x200⟩,
      .jwait ⟨hd, .untyped, false, 0, 0, .v 0, .v 5, .v 0, 0, 24, 0, 0, 0⟩,
      .coll ⟨hd, .untyped, false, 0, 1, .v 1, .v 2, .v 2, 0, 31, 1, 5, 6⟩,
      .tmma ⟨hd, .untyped, false, 0, 0, .zero, .v 0, .v 0, 1, 31, 1, 0, 0⟩] : List Instr).all (fun i => !i.wellFormed) = true := by
  decide +kernel

/-! ### Worked values of the spec -/

/-- The header of slot 15 of the example of R413: index 15, LEN 40, three slots, TYPE 1. -/
theorem test_slot_header : slotHeader 15 40 3 1 = 0x000F002800000310 := by decide +kernel
/-- The table of R177: −21 and −22 over 4 in the five roundings. -/
theorem test_round_shift : ([0, 1, 2, 3, 4].map fun m => ((roundInt m (-21) 4).1, (roundInt m (-22) 4).1)) =
    [(-5, -6), (-5, -5), (-6, -6), (-5, -5), (-5, -6)] := by decide +kernel
/-- The example of R177: 1,000 over 4 at 8 bits is 127 with SAT, and 0xFFFF_FFFA by wrapping. -/
theorem test_shrr : ((shrrLane true true 8 0 1000 2).val, (shrrLane true true 8 0 1000 2).flags, (shrrLane true false 8 0 1000 2).val) =
    (127, fSat, 0xFFFFFFFA) := by decide +kernel
/-- SHA-512 of 64 zero bytes and a digest of a 1 and 63 zeros (R418), from another implementation of FIPS 180-4. -/
theorem test_extend : extendDigest 0 1 = 0x2253dbd3bf8f45a87905589045454408333d0c4a0a018be0d98fadac50a5a4bca77288218e52dabe5d552b0e90dbaaf4f889126d1a60d1fd28e9ce3161ad25a8#512 := by decide +kernel
/-- R262: one fold of 0 into C0. -/
theorem test_fold : fold64 0x9E3779B97F4A7C15#64 0#32 = BitVec.ofNat 64 (0x9E3779B97F4A7C15 * 0x100000001B3) := by decide +kernel
/-- An IADD of 1 to 0xFFFFFFFF wraps, and saturates when it is asked to. -/
theorem test_narrow : ((narrow 32 false false 0x100000000).val, (narrow 32 false true 0x100000000).val,
    (narrow 32 true true 0x80000000).val, (narrow 8 true false 200).val) = (0, 0xFFFFFFFF, 0x7FFFFFFF, 200) := by decide +kernel
/-- Bits of the step: 0x3F800000 + 0x3F800000 in F32 is 2. -/
theorem test_fadd : (fAdd fmtF32 0 false 0x3F800000 0x3F800000).val = 0x40000000 := by decide +kernel

/-! ### What the statements about instructions ask, met

Each theorem gives a state and operands that meet every hypothesis of the clauses of one statement: that the port performs the
instruction, that what it writes fits, and what the clause asks beside that. -/


theorem meets_IntegerArithmeticResults : Ready [.iadd vz, .isub vz, .imul vz, .imin vz, .imax vz, .iadds vz, .isubs vz,
  .imulh vz, .iabs vz, .ineg vz, .imad vz4, .imadw vz4, .isad vz4] :=
  ready_of (by decide +kernel)
theorem meets_IntegerDivisionResults : Ready [.idiv vz, .idiv (x3 (.v 8) .lane (.const 0xFF)), .irem vz] :=
  ready_of (by decide +kernel)
theorem meets_SelectAndPredicateResults : Ready [.mov vz, .isel vz4, .icmp pz, .fcmp pz, .pand pz, .por pz, .pxor pz,
  .pnot pz, .pset pz, .pget (x3 (.v 8) (.p 1) (.v 0))] :=
  ready_of (by decide +kernel)
theorem meets_PackedIntegerResults : Ready [.dot2 vz4, .dot4 vz4, .padd vz, .psub vz, .pmul vz, .pmin vz, .pmax vz,
  .pshr vz] :=
  ready_of (by decide +kernel)
theorem meets_FloatArithmeticResults : Ready [.fadd vz, .fsub vz, .fmul vz, .fmin vz, .fmax vz, .ffma vz4, .pfadd vz,
  .pfmul vz, .pffma vz4] :=
  ready_of (by decide +kernel)
theorem meets_BitwiseAndShiftResults : Ready [.and vz, .or vz, .xor vz, .andn vz, .not vz, .lop3 vz4, .shl vz, .shr vz,
  .sra vz, .rotl vz, .shrr vz, .clz vz, .popc vz, .brev vz, .bfx vz4, .bfi vz4, .prmt vz4] :=
  ready_of (by decide +kernel)
theorem meets_FloatFunctionResults : Ready [.frcp vz, .frsq vz, .fsqrt vz, .fexp2 vz, .flog2 vz, .fsinp vz, .fcosp vz,
  .fclass vz, .frnd vz] :=
  ready_of (by decide +kernel)
theorem meets_ConversionResults : Ready [.cvt vz, .cvtn vz, .cvtq ⟨hd, .d8, false, 0, 0, .v 8, .v 12, .v 0, 0⟩] :=
  ready_of (by decide +kernel)
/-- A group with a finite number that is not 0, and a group with none. -/
theorem meets_ConversionResults_scale : (∃ x ∈ [0x3F800000], ∃ n m e, fmtF32.value x = .fin n m e ∧ m ≠ 0) ∧
    ∀ x ∈ [0], ∀ n m e, fmtF32.value x = .fin n m e → m = 0 := by
  refine ⟨⟨_, List.mem_singleton.2 rfl, false, 2 ^ 23, -23, by decide +kernel, by decide⟩, ?_⟩
  intro x hx n m e h
  rw [List.mem_singleton.1 hx, show fmtF32.value 0 = .fin false 0 (-149) by decide +kernel] at h
  simp_all
theorem meets_ResidueResults : Ready [.radd vz, .rsub vz, .rmul vz, .rcvt vz] :=
  ready_of (by decide +kernel)
theorem meets_NumbersKeepTheirValue : (0 : Nat) < 1 ∧ ∃ n : Int, -67108608 ≤ n ∧ n ≤ 67108607 := ⟨by decide, -67108608, by decide⟩
theorem meets_ChecksumInstruction : Ready [.cksum (xu (.v 8) (.v 12) (.v 0) 0)] :=
  ready_of (by decide +kernel)
theorem meets_ChecksumInstruction_operands : (∀ n : BitVec 8, Operand.v 9 = .v n → n.toNat % 2 ≠ 0) ∧ (8#8).toNat % 2 = 0 ∧
    (∀ m : BitVec 8, Operand.zero ≠ .v m) ∧ (Instr.cksum (xu (.v 8) (.v 12) (.v 0) 0)).wellFormed = true :=
  ⟨fun n h => by cases h; decide, by decide, by simp, by decide +kernel⟩
theorem meets_SpecialRegistersAreRead : Ready [.rdsr (xu (.v 8) (.v 0) (.v 0) 0x0A), .rdsr (xu (.v 8) (.v 0) (.v 0) 0x07),
  .rdsr (xu (.v 8) (.v 0) (.v 0) 0x12)] :=
  ready_of (by decide +kernel)
theorem meets_SpecialRegistersAreRead_values : base.team? gang.team = some (loadTeam 2 1) ∧ base.gridOf gang = some (loadGrid 1) ∧
    (gang.lane 31).depth < 2 ^ 16 := by decide +kernel
/-- The member mask 0 agrees with the issued lanes. -/
theorem meets_LaneExchangeResults : Ready [.slide vz, .shfl vz, .bcast vz, .vote pz, .vote { vz with sel := 2 },
  .matchLanes vz, .matchLanes { pz with sel := 1 }, .redux vz, .scan vz] ∧
    Agrees 0#32 (ctx (.slide vz) base port gang) := ⟨ready_of (by decide +kernel), ⟨by decide +kernel, by decide +kernel⟩⟩

/-- The place of address 0: the loader maps the first GiB to itself. -/
def here : Place := ⟨.device, 0, true, true, true, 1⟩
theorem ok_of {α β} {x : Except α β} {v : β} (h : x.toOption = some v) : x = .ok v := by
  cases x <;> simp_all [Except.toOption]
theorem base_here : base.translate loadContext.desc 0 = .ok here := ok_of (by decide +kernel)
def mx (b : Operand) (off : Word) : MemArgs := ⟨hd, .u32, 0, 0, 0, .v 8, .v 12, b, off⟩
def ax (d : Operand) (off : BitVec 22) : AtomArgs := ⟨hd, .u32, 0, 0, 0, d, .v 12, .v 14, .zero, off⟩
/-- Address 0 is reached by a load, a store and an atomic of 32 bits. -/
theorem base_reaches (m : Access) (c : Ictx) (hs : c.s = base) (_hw : m.ty = .u32) : Reaches m c loadContext.desc 0 here where
  aligned := rfl
  mapped := hs ▸ base_here
  read _ := rfl
  write _ := ⟨rfl, hs ▸ by decide +kernel⟩
  link h := by cases h
  cap _ := hs ▸ by decide +kernel
  still h := absurd h (hs ▸ by decide +kernel)
  far h := by cases h
def zeros : List Access := [loadOf (.ld (mx (.v 0) 0)) false (mx (.v 0) 0), storeOf (.st (mx (.v 14) 0)) false (mx (.v 14) 0),
  atomOf (.atom (ax (.v 8) 0)) false (ax (.v 8) 0)]
/-- Every lane of LD, ST and ATOM at address 0 reaches memory. -/
theorem meets_VirtualAccessesComplete : Ready (zeros.map (·.i)) ∧ (base.gridOf gang).isSome = true ∧
    base.contextOf gang = some loadContext ∧ ∀ m ∈ zeros, let c := ctx m.i base port gang
      m.ready c ∧ ∀ l ∈ Lanes.toList c.mask, Reaches m c loadContext.desc (kept c l (m.addr c l l false)) here := by
  refine ⟨ready_of (by decide +kernel), by decide +kernel, by decide +kernel, fun m hm => ?_⟩
  have ha : zeros.all (fun m => (Lanes.toList (ctx m.i base port gang).mask).all fun l =>
    m.addr (ctx m.i base port gang) l l false == 0) = true := by decide +kernel
  have ht : zeros.all (fun m => m.ty == .u32 && m.a == .v 12) = true := by decide +kernel
  simp only [List.all_eq_true, Bool.and_eq_true, beq_iff_eq] at ha ht
  refine ⟨fun k hk => by simp [(ht m hm).2] at hk, fun l hl => ?_⟩
  rw [ha m hm l hl]
  exact base_reaches m _ rfl (ht m hm).1
/-- The small state with a gang that replays a load whose lanes formed the address 0 before. -/
def replaying : Gang := { gang with formed := some (gang.setPc port.lanes, port.lanes, (List.range 32).map fun l => (l, 0)) }
theorem meets_VirtualAccessesComplete_replay : let c := ctx (.ld (mx (.v 0) 64)) (withG replaying) port replaying
    performs (.ld (mx (.v 0) 64)) (withG replaying) port replaying = true ∧
      ∀ l ∈ Lanes.toList c.mask, kept c l ((loadOf (.ld (mx (.v 0) 64)) false (mx (.v 0) 64)).addr c l l false) = 0 := by decide +kernel

/-- The small state with a scratchpad of one block. -/
def scr : State := { base with
  grids := [{ loadGrid 1 with kernel := { loadKernel with scratch := 4096 } }], teams := [{ loadTeam 2 1 with blocks := [⟨0, 0, 0⟩] }] }
def scrGrid : Grid := { loadGrid 1 with kernel := { loadKernel with scratch := 4096 } }
def scrTeam : Team := { loadTeam 2 1 with blocks := [⟨0, 0, 0⟩] }
/-- A state with the same port and gang is as clear. -/
theorem clear_of {s : State} (hp : s.ports = base.ports) (hg : s.gangs = base.gangs) : Clear s port gang :=
  ⟨⟨by rw [hp]; exact base_clear.port, by simpa only [State.gang?, hg] using base_clear.gang⟩, base_clear.marks, base_clear.waits⟩
/-- Every lane of LDS, STS, LDP, STP and ATOMS at the last word of the scratchpad has a valid address. -/
theorem meets_ScratchAccessesComplete :
    (([loadOf (.lds (mx (.v 0) 4092)) true (mx (.v 0) 4092), storeOf (.sts (mx (.v 14) 4092)) true (mx (.v 14) 4092),
      loadOf (.ldp (mx (.v 0) 0)) true (mx (.v 0) 0), storeOf (.stp (mx (.v 14) 3968)) true (mx (.v 14) 3968),
      atomOf (.atoms (ax (.v 8) 4092)) true (ax (.v 8) 4092)] : List Access).zip [false, false, true, true, false]).all (fun x =>
      performs x.1.i scr port gang && (x.1.lanes (ctx x.1.i scr port gang) x.2).all fun y =>
        decide (y.addr % x.1.w = 0) && decide (y.addr < (scrGrid.kernel.scratch + 4095) / 4096 * 4096)) = true ∧
    scr.gridOf gang = some scrGrid ∧ scr.team? gang.team = some scrTeam ∧ scrGrid.kernel.rcen = false ∧ Clear scr port gang :=
  ⟨by decide +kernel, by decide +kernel, by decide +kernel, rfl, clear_of rfl rfl⟩

/-- A request of the small gang. -/
def req (k : ReqKind) (sp : Space) (accs : List LaneAcc) : Req :=
  { id := 0, gid := 3, team := 2, ctx := 0, own := 1, seq := 0, kind := k, ty := .u32, space := sp, channel := 0, accs := accs
    acq := false, rel := false, who := 0, cls := 6, stamp := 0, due := none, quad := 0, sent := 0, served := false }
/-- A load, a store of two lanes to one place and an atomic; canonical memory and a key outside. -/
theorem meets_PerformedRequests :
    let r := fun k => req k .device [⟨0, 4, 1, 0⟩, ⟨1, 4, 2, 0⟩]
    Memory.wf base.mem = true ∧ (∀ a ∈ (r .store).accs, 3 < a.key ∨ a.key + (r .store).width ≤ 3) ∧
    (∀ a ∈ (r .store).accs, 8 < a.key ∨ a.key + (r .store).width ≤ 8) ∧ (r .store).accs = [⟨0, 4, 1, 0⟩] ++ [⟨1, 4, 2, 0⟩] ∧
    3 < (r .store).width ∧ (r (.atomic 0 true)).kind = .atomic 0 true ∧ (r .load).kind = .load := by decide +kernel

def sealArgs : Args := xu (.v 0) (.v 12) (.const 1) 0
theorem meets_SealResults : Ready [.seal sealArgs, .unseal sealArgs] ∧ base.contextOf gang = some loadContext ∧
    ∀ k ∈ [Instr.seal sealArgs, Instr.unseal sealArgs], SealReady sealArgs (ctx k base port gang) loadContext.desc (fun _ => here) := by
  refine ⟨ready_of (by decide +kernel), by decide +kernel, fun k hk l hl _ => ?_⟩
  have h : [Instr.seal sealArgs, Instr.unseal sealArgs].all (fun k => (Lanes.toList (ctx k base port gang).mask).all fun l =>
    sealAddr sealArgs (ctx k base port gang) l == 0 && val 0#32 false sealArgs.b (ctx k base port gang) l == 1) = true := by decide +kernel
  simp only [List.all_eq_true, Bool.and_eq_true, beq_iff_eq] at h
  obtain ⟨h0, h1⟩ := h k hk l hl
  refine ⟨by rw [h0], by rw [h1]; decide, fun a ha => ?_⟩
  have : a = 0 := by simpa [sealParts, h0, h1] using ha
  subst this
  exact ⟨base_here, rfl, .inl rfl⟩

/-- PF, FENCE and FENCEX at gang and at device scope, LEA, MINIT of an empty and of a 16-byte register. -/
theorem meets_FencesAndAddresses :
    Ready [.pf (xu (.v 0) (.v 12) (.v 0) 0), .fence { xu (.v 0) (.v 0) (.v 0) 0 with rnd := 3 }, .fence (xu (.v 0) (.v 0) (.v 0) 0),
      .fencex { xu (.v 0) (.v 0) (.v 0) 0x201 with rnd := 1 }, .lea { xu (.v 8) (.v 12) (.v 0) 0 with ty := .u32 },
      .minit (xu (.m 1) .zero .zero 0), .minit (xu (.m 1) .zero (.const 16) 12)] ∧
    val 0#32 false .zero (ctx (.minit (xu (.m 1) .zero .zero 0)) base port gang) 0 = 0 ∧
    val 0#32 false (.const 16) (ctx (.minit (xu (.m 1) .zero (.const 16) 12)) base port gang) 0 = 16 :=
  ⟨ready_of (by decide +kernel), by decide +kernel, by decide +kernel⟩

/-! ### Joints, control and traps -/

/-- The small state with a team of one joint. -/
def withJ (q : Joint) : State := { base with teams := [{ loadTeam 2 1 with joints := [q] }] }
/-- An open joint of weight 2 at phase 1, with one arrival. -/
def openJ : Joint := { Joint.idle with st := .open_, n := 2, arr := 1, phase := 1 }
def freshJ : Joint := { Joint.idle with st := .open_, n := 2, arr := 0, phase := 1 }
theorem withJ_clear (q : Joint) : Clear (withJ q) port gang := clear_of rfl rfl
theorem withJ_at (q : Joint) (x : HandleArgs) (hx : x.jnt = 0) (i : Instr) :
    At x (ctx i (withJ q) port gang) { loadTeam 2 1 with joints := [q] } q := by
  refine ⟨rfl, ?_⟩
  simp [hx]
/-- JINIT of an idle joint; JARRIVE, JTEST and REGX at an open one, below and at its weight; JWAIT on phase 0, which is complete. -/
theorem meets_JointResults :
    (∀ i ∈ ([.jinit (xh (.v 0) (.const 2) (.v 0) 0 0)] : List Instr), performs i (withJ Joint.idle) port gang = true) ∧
    Joint.idle.st ≠ .broken ∧ ¬ busy Joint.idle ∧
    (∀ i ∈ ([.jarrive (xh (.v 8) (.const 1) (.v 0) 0 0), .jwait (xh (.v 0) .zero (.v 0) 0 0),
      .jtest (xh (.p 1) .zero (.v 0) 0 0), .jtest { xh (.v 8) .zero (.v 0) 0 0 with sel := 1 }] : List Instr),
      performs i (withJ openJ) port gang = true) ∧
    openJ.st = .open_ ∧ led (ctx (.jarrive (xh (.v 8) (.const 1) (.v 0) 0 0)) (withJ openJ) port gang) (.const 1) = 1 ∧
    openJ.arr + 1 ≤ openJ.n ∧ Passed openJ 0 ∧ (withJ openJ).contextOf gang = some loadContext ∧ gang.pendingCodes = [] :=
  ⟨by decide +kernel, by decide, by unfold busy; decide, by decide +kernel, by decide, by decide +kernel, by decide,
   ⟨1, by decide⟩, by decide +kernel, base_clear.waits⟩
/-- One arrival that counts and one that completes the phase; REGX at a joint whose phase it does not complete, and at one whose it does. -/
theorem meets_ArrivalsAndTransfers :
    (withJ freshJ).team? 2 = some { loadTeam 2 1 with joints := [freshJ] } ∧ freshJ.arr + 1 ≠ freshJ.n ∧ openJ.arr + 1 = openJ.n ∧
    (∀ q ∈ [freshJ, openJ], performs (.regx (xh (.v 8) .zero .zero 0 0)) (withJ q) port gang = true ∧ q.st = .open_ ∧ q.arr + 1 ≤ q.n) :=
  ⟨by decide +kernel, by decide, by decide, by decide +kernel⟩
/-- REGX writes one register, which fits. -/
theorem meets_ArrivalsAndTransfers_fits : ∀ q ∈ [freshJ, openJ],
    (regxRegs (xh (.v 8) .zero .zero 0 0) (ctx (.regx (xh (.v 8) .zero .zero 0 0)) (withJ q) port gang) q).length ≤ 200 := by
  decide +kernel
/-- The joint 1 of a team of one joint. -/
theorem meets_JointTrapValues : (∀ i ∈ ([.jinit (xh (.v 0) (.const 2) (.v 0) 1 0), .jarrive (xh (.v 8) (.const 1) (.v 0) 1 0),
      .jwait (xh (.v 0) .zero (.v 0) 1 0), .jtest (xh (.p 1) .zero (.v 0) 1 0), .regx (xh (.v 8) .zero .zero 1 0)] : List Instr),
      performs i (withJ openJ) port gang = true) ∧
    (withJ openJ).gridOf gang = some (loadGrid 1) ∧ (withJ openJ).contextOf gang = some loadContext ∧ gang.hnd = false ∧
    vectorIn (loadGrid 1) loadContext ≠ 0#64 ∧ ({ loadTeam 2 1 with joints := [openJ] } : Team).joints.length ≤ (1#5).toNat := by
  decide +kernel

/-- A gang in a handler that stood at 0x40000 before. -/
def handling : Gang := { gang with hnd := true, epc := 0x40000#64, shadow := ⟨gang.lanes, false⟩, cause := 0x0000000100000001#64 }
/-- A gang in its stow handler, and one that a restore has started. -/
def stowing : Gang := { gang with hnd := true, cause := 20#64 }
def restored : Gang := { handling with fromRestore := true }
/-- A gang inside a call from address 0. -/
def called : Gang := { gang with lanes := gang.lanes.map fun l => { l with depth := 1 } }
theorem clear_at {g : Gang} (h : g.gid = 3) (hm : g.regs = gang.regs) (hp : g.results = []) : Clear (withG g) port g := by
  refine ⟨⟨by rfl, ?_⟩, ?_, by simp [Gang.pendingCodes, hp]⟩
  · simp [State.gang?, withG, h, port]
  · have := base_clear.marks
    simp only [Gang.marked, Gang.r, Gang.reg, hm] at this ⊢
    exact this
theorem room_at {g : Gang} (hm : g.regs = gang.regs) (hp : g.results = []) (hx : g.gmax = 256) :
    g.settled.gCount + g.settled.reserved + 200 ≤ g.gmax := by
  have h := gang_room
  have e : gang.settled = gang := by decide +kernel
  have e' : g.settled = g := by simp [Gang.settled, hp]
  rw [e] at h; rw [e']
  simp only [Gang.gCount, Gang.reserved, hm, hp, hx] at *
  exact h

/-- The small state with a landing point at address 0 (R242). -/
def landed : State := { base with mem := memWrite base.mem 11 0x40#8 }
theorem landed_clear : Clear landed port gang := clear_of rfl rfl
/-- BRA, CALL, NOP, YIELD, EXIT in and outside a stow handler, SLEEP from the primary port. -/
theorem meets_TransfersOfControl :
    Ready [.bra (xu (.v 0) (.v 0) (.v 0) 3), .call (xu (.v 0) (.v 0) (.v 0) 3), .nop (xu (.v 0) (.v 0) (.v 0) 0),
      .yield (xu (.v 0) (.v 0) (.v 0) 0), .exit (xu (.v 0) (.v 0) (.v 0) 0), .sleep (xu (.v 0) (.v 0) (.v 0) 10)] ∧
    2 ≤ gang.r ∧ (∀ l ∈ Lanes.toList (ctx (.call (xu (.v 0) (.v 0) (.v 0) 3)) base port gang).mask, (gang.lane l).depth + 1 ≤ 65535) ∧
    gang.inStow = false ∧ port.secondary = false ∧
    performs (.exit (xu (.v 0) (.v 0) (.v 0) 0)) (withG stowing) port stowing = true ∧ stowing.inStow = true :=
  ⟨ready_of (by decide +kernel), by decide +kernel⟩
/-- BRX and CALLX to a landing point; RET inside a call. -/
theorem meets_TransfersOfControl_computed :
    (∀ i ∈ ([.brx (xu (.v 0) (.v 12) (.v 0) 0), .callx (xu (.v 0) (.v 12) (.v 0) 0)] : List Instr),
      performs i landed port gang = true ∧
      ∀ l ∈ Lanes.toList (ctx i landed port gang).mask, val 0#32 true (.v 12) (ctx i landed port gang) l = 0) ∧
    (∃ bs, landed.fetchBytes loadContext.desc 0 = .bytes bs ∧ (bs.getD 11 0#8).getLsbD 6 = true) ∧
    landed.contextOf gang = some loadContext ∧
    performs (.ret (xu (.v 0) (.v 0) (.v 0) 0)) (withG called) port called = true ∧
    ∀ l ∈ Lanes.toList (ctx (.ret (xu (.v 0) (.v 0) (.v 0) 0)) (withG called) port called).mask,
      0 < (called.lane l).depth ∧ link (ctx (.ret (xu (.v 0) (.v 0) (.v 0) 0)) (withG called) port called) l = 0 := by
  refine ⟨by decide +kernel, ⟨memBytes landed.mem (keyOf .device 0) 12, ?_⟩, by decide +kernel, by decide +kernel, by decide +kernel⟩
  have : (match landed.fetchBytes loadContext.desc 0 with | .bytes b => b == memBytes landed.mem (keyOf .device 0) 12 | _ => false) = true := by
    decide +kernel
  refine ⟨?_, by decide +kernel⟩
  split at this
  · next h => rw [h]; simpa using this
  · simp at this

/-- TRAP, BRK with and without the debug stop, WRSR of `$tval` and TRET outside a handler: they trap from the small state. -/
theorem meets_TrapsAreTakenAndLeft :
    Ready [.trap (xu (.v 0) (.v 0) (.v 0) 42), .brk (xu (.v 0) (.v 0) (.v 0) 1), .tret (xu (.v 0) (.v 0) (.v 0) 0)] ∧
    base.gridOf gang = some (loadGrid 1) ∧ base.contextOf gang = some loadContext ∧ gang.hnd = false ∧
    vectorIn (loadGrid 1) loadContext ≠ 0#64 ∧ port.secondary = false ∧
    debugArmed (ctx (.brk (xu (.v 0) (.v 0) (.v 0) 1)) base port gang) = false ∧
    debugArmed (ctx (.brk (xu (.v 0) (.v 0) (.v 0) 1)) { base with dbg := { base.dbg with arm := true } } port gang) = true :=
  ⟨ready_of (by decide +kernel), base_enters.1, base_enters.2.1, base_enters.2.2.1, base_enters.2.2.2, by decide +kernel⟩
/-- TRET in a handler, and as the first of a restore, its frame at address 0. -/
theorem meets_TrapsAreTakenAndLeft_returns :
    Clear (withG handling) port handling ∧ performs (.tret (xu (.v 0) (.v 0) (.v 0) 0)) (withG handling) port handling = true ∧
    handling.hnd = true ∧ handling.fromRestore = false ∧
    Clear (withG restored) port restored ∧ performs (.tret (xu (.v 0) (.v 0) (.v 0) 0)) (withG restored) port restored = true ∧
    restored.fromRestore = true ∧ (withG restored).contextOf restored = some loadContext ∧
    ∃ bits f, (withG restored).vload loadContext.desc 0 restored.frame.toNat 2048 = .ok bits ∧ frameTail bits = some f := by
  refine ⟨clear_at rfl rfl rfl, by decide +kernel, rfl, rfl, clear_at rfl rfl rfl, by decide +kernel, rfl, by decide +kernel, 0, ?_⟩
  have h : ((frameTail 0).isSome) = true := by decide +kernel
  obtain ⟨f, hf⟩ := Option.isSome_iff_exists.1 h
  exact ⟨f, ok_of (by decide +kernel), hf⟩
/-- WRSR of `$status`; of each trap register in a handler, and outside one; SETRATE and CLRRATE. -/
theorem meets_SpecialRegisterWrites :
    Ready [.wrsr (xu (.v 0) .zero (.v 0) 0x0B), .wrsr (xu (.v 0) .zero (.v 0) 0x0D), .setrate (xu (.v 0) .zero (.v 0) 0),
      .clrrate (xu (.v 0) (.v 0) (.v 0) 0)] ∧ Clear (withG handling) port handling ∧ handling.hnd = true ∧ gang.hnd = false ∧
    ([0x0D, 0x0E, 0x0F, 0x10].all fun n => performs (.wrsr (xu (.v 0) .zero (.v 0) n)) (withG handling) port handling) = true :=
  ⟨ready_of (by decide +kernel), clear_at rfl rfl rfl, rfl, by decide +kernel, by decide +kernel⟩

/-- STSH of a register of one word to address 0, and LDSH of the image of zeros there, U(0). -/
theorem meets_ShapedImageResults :
    Ready [.stsh (xu (.v 8) (.v 12) (.v 10) 0), .ldsh (xu (.v 10) (.v 12) (.v 0) 0), .getsh (xu (.v 8) (.v 12) (.v 0) 0)] ∧
    (let c := ctx (.stsh (xu (.v 8) (.v 12) (.v 10) 0)) base port gang
     let x := xu (.v 8) (.v 12) (.v 10) 0
     imageTrap x c (shapedAddr x c) (imageSize (c.v.reg 10)) true = (none, []) ∧
     ∀ r ∈ imageStores x c (shapedAddr x c) (imageSize (c.v.reg 10)) (imageBits 10 (c.v.reg 10)) 0, ∀ a ∈ r.accs,
       c.s.isMoving r.space (a.key % 2 ^ 64) = false) ∧
    let c := ctx (.ldsh (xu (.v 10) (.v 12) (.v 0) 0)) base port gang
    let x := xu (.v 10) (.v 12) (.v 0) 0
    imageTrap x c (shapedAddr x c) 16 false = (none, []) ∧ imageTrap x c.settle (shapedAddr x c) 16 false = (none, []) ∧
    imageLength 0 = 16 ∧
    (imageKeys x c.settle (shapedAddr x c) 16).foldr (fun k acc => memLoad c.settle.s.mem k 16 + 2 ^ 128 * acc) 0 = 0 ∧
    imageReg 0 c.g.issued = some ⟨.u 0, none⟩ := by
  refine ⟨ready_of (by decide +kernel), by decide +kernel, by decide +kernel⟩
/-- A register of each shape, one of them marked. -/
theorem meets_ImagesHoldTheirRegister :
    ∀ r ∈ ([⟨.u 5, none⟩, ⟨.a 5 1, none⟩, ⟨.g (List.replicate 32 7), some ⟨0x40000, 1, 1, 0⟩⟩] : List Reg),
      (∀ b st, r.shape = .a b st → st ≠ 0#32) ∧ (∀ v, r.shape = .g v → v.length = 32) ∧ ∀ m, r.mark = some m → m.pc.toNat < 2 ^ 56 := by
  intro r hr
  simp only [List.mem_cons, List.not_mem_nil, or_false] at hr
  rcases hr with rfl | rfl | rfl <;> refine ⟨?_, ?_, ?_⟩ <;> simp

/-! ### Handles, commands, matrix units and launches -/

/-- A handle of rank 1, readable and writable, dense and unscaled, in memory (R282, R283). -/
def handleBits (code n at_ : Nat) (sgd : Nat := 7) : Nat :=
  at_ + (code * 2 ^ 26 + 2 ^ 23 + sgd * 2 ^ 18) * 2 ^ 64 + n * 2 ^ 96 + 2 ^ 128 + 2 ^ 160 + 2 ^ 192 + 2 ^ 224
/-- Handle 1: four i32; 2: an image of u8; 3: four f32; 4: four res28; 5: 64 d8; 6: 128 f32; 7: 128 d8 with
a scale. Slots 0 and 1 hold dense D8 tiles, slot 2 a sparse one, accumulator 0 is
RES28 and 1 F32, all held by the gang. -/
def desk : State :=
  { base with
    mem := [(1, 5, 4, 0x2000), (2, 2, 24640, 0x100000), (3, 16, 4, 0x2100), (4, 24, 4, 0x2200), (5, 25, 64, 0x2300), (6, 16, 128, 0x2400)].foldl
      (fun (m : List Host.Cell) (h : Nat × Nat × Nat × Nat) => memStore m (64 * h.1) 64 (handleBits h.2.1 h.2.2.1 h.2.2.2))
      (memStore base.mem (64 * 7) 64 (handleBits 25 128 0x2800 0))
    quads := modifyAt base.quads 0 fun q => { q with
      slots := [⟨true, 0x19, 0, false, some 0⟩, ⟨true, 0x19, 0, false, some 0⟩, ⟨true, 0x19, 1, false, some 0⟩] ++ q.slots.drop 3
      accs := [⟨2, 0, 0, some 0⟩, ⟨1, 0, 0, some 0⟩] ++ q.accs.drop 2 } }
theorem desk_clear : Clear desk port gang := clear_of rfl rfl
/-- A handle instruction of three handles, no joint. -/
def xc (sel : BitVec 4) (rnd : BitVec 3) (x1 x2 x3 : BitVec 8) : HandleArgs :=
  ⟨hd, .untyped, false, sel, rnd, .v 8, .zero, .zero, 0, 31, x3, x2, x1⟩
/-- The command is performed and its handles pass. -/
def issues (i : Instr) (nos : List Nat) (names : Ictx → List Desc → List Named) : Bool :=
  let c := ctx i desk port gang
  performs i desk port gang && (namedTrap (names c ((handles c loadContext nos).map Handle.desc)) (scratchSize loadKernel) c.iset).isNone
def eng (f : List Desc → Word → Word → List Named) : Ictx → List Desc → List Named := fun _ hs => f hs 0 0

theorem meets_HandlesAndClaims :
    Ready [.hset { xc 0 0 1 0 0 with d := .v 0, a := .v 12, b := .v 0 }, .hget { xc 0 0 1 0 0 with a := .v 0, b := .v 0 }] ∧
    base.contextOf gang = some loadContext ∧
    (let x : HandleArgs := ⟨hd, .untyped, false, 0, 0, .v 8, .const 1, .zero, 0, 31, 0, 0, 0⟩
     performs (.tclaim x) base port gang = true ∧
     let y : HandleArgs := { x with d := .v 0 }
     performs (.trel y) desk port gang = true ∧ claimed y (ctx (.trel y) desk port gang) = [.slot 0] ∧
     heldBy (ctx (.trel y) desk port gang) (.slot 0) = some gang.slot ∧
     performs (.trel y) base port gang = true ∧ heldBy (ctx (.trel y) base port gang) (.slot 0) ≠ some gang.slot) ∧
    0 < desk.quads.length ∧ 15 < (desk.quad 0).slots.length ∧ 7 < (desk.quad 0).accs.length :=
  ⟨ready_of (by decide +kernel), by decide +kernel, by decide +kernel, by decide +kernel⟩

/-- Every engine command with handles that pass; no joint, so none has to be open. -/
theorem meets_CommandsIssue :
    issues (.acopy (xc 0 0 1 1 0)) [1, 1] (eng (acopyNames false)) = true ∧
    issues (.afill (xc 0 0 1 0 0)) [1] (eng afillNames) = true ∧
    issues (.bcopy { xc 0 0 1 1 0 with b := .v 12 }) [1, 1] (eng bcopyNames) = true ∧
    issues (.nest (xc 0 0 1 1 1)) [1, 1, 1] (eng (nestNames 0)) = true ∧ issues (.nest (xc 5 0 1 1 0)) [1, 1] (eng (nestNames 5)) = true ∧
    issues (.nestr (xc 0 0 1 1 0)) [1, 1] (eng (reduceNames 0 false false)) = true ∧
    issues (.bankop (xc 0 0 1 1 0)) [1, 1] (eng (bankopNames 0 false)) = true ∧
    issues (.bankred (xc 0 0 1 1 0)) [1, 1] (eng (reduceNames 0 true false)) = true ∧
    issues (.cres (xc 0 0 3 4 0)) [3, 4] (eng (cresNames 0 false)) = true ∧
    issues (.coll (xc 0 3 1 1 0)) [1, 1] (eng (collNames 0 false)) = true ∧
    issues (.nestq (xc 0 0 7 6 0)) [7, 6] (eng nestqNames) = true ∧
    desk.gridOf gang = some (loadGrid 1) ∧ desk.contextOf gang = some loadContext ∧ desk.team? gang.team = some (loadTeam 2 1) := by
  decide +kernel
/-- Every matrix command on units the gang holds in a state they may be used in. -/
theorem meets_CommandsIssue_matrix :
    ([(Instr.tzero (xc 1 0 0 0 0), CmdOp.tzero, xc 1 0 0 0 0), (.tmma (xc 0 0 0 0 1), .tmma, xc 0 0 0 0 1),
      (.tmmas (xc 0 0 0 0 2), .tmmas, xc 0 0 0 0 2), (.tburst { xc 0 0 0 0 0 with d := .v 0, b := .v 0 }, .tburst, xc 0 0 0 0 0),
      (.tstat (xc 0 0 0 0 0), .tstat, xc 0 0 0 0 0)] : List (Instr × CmdOp × HandleArgs)).all (fun t =>
      performs t.1 desk port gang && (tslotCheck t.2.1 t.2.2 (ctx t.1 desk port gang)).isNone) = true ∧
    issues (.tdrain (xc 0 0 1 0 0)) [1] (fun c hs => tdrainNames (xc 0 0 1 0 0) c hs 0) = true ∧
    (tslotCheck .tdrain (xc 0 0 1 0 0) (ctx (.tdrain (xc 0 0 1 0 0)) desk port gang)).isNone = true ∧
    issues (.tsave (xc 0 0 2 0 0)) [2] (fun _ hs => [imageNamed true (descAt hs 0) 0]) = true ∧
    (tslotCheck .tsave (xc 0 0 2 0 0) (ctx (.tsave (xc 0 0 2 0 0)) desk port gang)).isNone = true ∧
    issues (.trest (xc 0 0 0 5 0)) [5] (fun c hs => trestNames (xc 0 0 0 5 0) c hs 0) = true ∧
    (tslotCheck .trest (xc 0 0 0 5 0) (ctx (.trest (xc 0 0 0 5 0)) desk port gang)).isNone = true := by
  decide +kernel

/-- A launch of one team of one gang of the kernel at 0x8000. -/
def launchBits : BitVec 512 := BitVec.ofNat 512 (1 + 0x8000 * 2 ^ 64 + 0x10001 * 2 ^ 128 + 0x10001 * 2 ^ 160)
/-- The small state with the launch at address 0, a VD that may have a child, and a pool of the grid. -/
def launching : State := { base with
  mem := memStore base.mem 0 64 launchBits.toNat
  vds := modifyAt base.vds 0 fun d => { d with dlq := 1 }
  grids := [{ loadGrid 1 with pool := 7 }]
  pools := [⟨0, 7, 1, 0x3000, 64, 1, 0, 0, [], []⟩] }
theorem launching_clear : Clear launching port gang := clear_of rfl rfl
def xl : Args := xu (.v 8) (.v 12) .zero 0
def xd : Args := xu (.v 0) (.v 4) (.const 2) 2
/-- LAUNCH of the packet at address 0, LSTAT, and DEFER with a pool and without. -/
theorem meets_LaunchAndDeferResults :
    ([(.launch xl), (.lstat xl), (.defer xd)] : List Instr).all (performs · launching port gang) = true ∧
    (let c := ctx (.launch xl) launching port gang
     let pl := fun i => (⟨.device, 16 * i, true, true, true, 1⟩ : Place)
     packetAddr xl c % 64 = 0 ∧ (∀ i < 4, (c.s.translate loadContext.desc (packetAddr xl c + 16 * i)).toOption = some (pl i) ∧
       (pl i).addr < c.s.memcap) ∧ packetAt c pl = launchBits ∧ deviceStatus c.s 0 (packetAt c pl) = 0) ∧
    launching.gridOf gang = some { loadGrid 1 with pool := 7 } ∧ launching.contextOf gang = some loadContext ∧
    launching.poolOf { loadGrid 1 with pool := 7 } = some ⟨0, 7, 1, 0x3000, 64, 1, 0, 0, [], []⟩ ∧
    launching.vd? 0 = some { VD.reset with dlq := 1, quads := 1 } ∧
    performs (.defer xd) base port gang = true ∧ base.poolOf (loadGrid 1) = none := by
  decide +kernel

/-! ### Steps, traps and budget -/

theorem meets_EveryInstructionRoundTrips : let i := Instr.iadd ⟨hd, .i32, false, 0, 0, .v 2, .v 1, .imm, 0x100⟩
    i.wellFormed = true ∧ ∃ w, encode i = some w := by
  refine ⟨by decide +kernel, Option.isSome_iff_exists.1 (by decide +kernel)⟩
def addWord : InstrWord := 0x00000004_00005870_01009C40#96
def placed : State := State.reset.placeWord addWord
/-- A state that runs a word, one with two ports and one with the last. -/
theorem meets_StepRunsTheDecodedInstruction :
    placed.halted = false ∧ AtPort placed port gang ∧ gang.life = .ready ∧ placed.contextOf gang = some loadContext ∧
    placed.fetchBytes loadContext.desc (gang.setPc port.lanes).toNat = .bytes (bytesOfWord addWord) ∧
    (decode (wordOfBytes (bytesOfWord addWord))).toOption = some (.iadd ⟨hd, .i32, false, 0, 0, .v 2, .v 1, .imm, 0x100⟩) ∧
    placed.ports = [port] ∧ ({ placed with ports := [port, port] } : State).ports = [port, port] :=
  ⟨by decide +kernel, ⟨by decide +kernel, by decide +kernel⟩, by decide +kernel⟩
theorem meets_EveryStepGoesOn : (Instr.iadd vz).fields.isSome = true ∧ AtPort base port gang ∧
    (Instr.adjusterStep 0).fields.isNone = true := ⟨rfl, base_clear.toAtPort, rfl⟩
theorem meets_StepKeepsMemoryCanonical : Canonical State.reset ∧ ∃ t, Machine.step State.reset = .next t :=
  ⟨by unfold Canonical; decide +kernel, by
    have h : (match Machine.step State.reset with | .next _ => true | _ => false) = true := by decide +kernel
    generalize Machine.step State.reset = o at h
    cases o with
    | next t => exact ⟨t, rfl⟩
    | fault _ => cases h
    | refused _ => cases h⟩

/-- An empty latch entry as a source: OPERAND. The same from the secondary port, withdrawn there before and not. -/
def bad : Instr := .iadd (x3 (.v 8) (.latch 0) .zero)
def port2 : Port := { port with secondary := true }
theorem meets_DecodeTraps : (∃ t, DecodeTrap base port gang bad t) ∧ bad.fields.isSome = true ∧ base.gridOf gang = some (loadGrid 1) ∧
    base.contextOf gang = some loadContext ∧ gang.hnd = false ∧ vectorIn (loadGrid 1) loadContext ≠ 0#64 ∧
    (∃ t, DecodeTrap { base with ports := [port2] } port2 gang bad t) ∧ gang.withdrawn ≠ some (gang.setPc port2.lanes) ∧
    missingFeature (.tmma (xc 0 0 0 0 1)) 0 = some 21 := by
  have h : (decodeTrap bad gang 0xFFFFFFFF#32 base.variant.feat).isSome = true := by decide +kernel
  obtain ⟨t, ht⟩ := Option.isSome_iff_exists.1 h
  refine ⟨⟨t, base_clear.toAtPort, ht⟩, rfl, base_enters.1, base_enters.2.1, base_enters.2.2.1, base_enters.2.2.2,
    ⟨t, ⟨rfl, base_clear.gang⟩, ht⟩, by decide +kernel, ?_⟩
  decide +kernel

/-- The virtual accesses of 32 bits, at an offset from address 0. -/
def virtuals (off : Word) : List Access := [loadOf (.ld (mx (.v 0) off)) false (mx (.v 0) off), storeOf (.st (mx (.v 14) off)) false (mx (.v 14) off),
  atomOf (.atom (ax (.v 8) (off.setWidth 22))) false (ax (.v 8) (off.setWidth 22))]
/-- The accesses of the scratchpad, at an offset. -/
def scratches (off : Word) : List (Access × Bool) := [(loadOf (.lds (mx (.v 0) off)) true (mx (.v 0) off), false),
  (storeOf (.sts (mx (.v 14) off)) true (mx (.v 14) off), false), (loadOf (.ldp (mx (.v 0) off)) true (mx (.v 0) off), true),
  (storeOf (.stp (mx (.v 14) off)) true (mx (.v 14) off), true),
  (atomOf (.atoms (ax (.v 8) (off.setWidth 22))) true (ax (.v 8) (off.setWidth 22)), false)]
/-- The small state with a page that may be neither read nor written. -/
def locked : State := { base with mem := memStore base.mem loadTable 8 0x53 }
/-- ALIGN at address 1, PAGE below address 0, PROT in a page without permissions; ALIGN and PROT in the scratchpad. -/
theorem meets_MemoryAccessTraps :
    (virtuals 1).all (fun m => let c := ctx m.i base port gang
      performs m.i base port gang && (m.used c false).all fun y => mapped loadContext c y.addr && y.addr % m.w != 0) = true ∧
    (virtuals (-4)).all (fun m => let c := ctx m.i base port gang
      performs m.i base port gang && (m.used c false).all fun y => fatalAt loadContext c y.addr && y.addr % m.w == 0) = true ∧
    ((virtuals 0).take 2).all (fun m => let c := ctx m.i locked port gang
      performs m.i locked port gang && (m.used c false).all fun y =>
        mapped loadContext c y.addr && lacks m loadContext c y.addr && y.addr % m.w == 0) = true ∧
    (scratches 1).all (fun m => let c := ctx m.1.i scr port gang
      performs m.1.i scr port gang && (m.1.used c m.2).all fun y => y.addr % m.1.w != 0) = true ∧
    (scratches 4096).all (fun m => let c := ctx m.1.i scr port gang
      performs m.1.i scr port gang && (m.1.used c m.2).all fun y =>
        y.addr % m.1.w == 0 && decide ((scrGrid.kernel.scratch + 4095) / 4096 * 4096 ≤ y.addr)) = true ∧
    base.gridOf gang = some (loadGrid 1) ∧ base.contextOf gang = some loadContext ∧ scr.gridOf gang = some scrGrid ∧
    scr.team? gang.team = some scrTeam ∧ Clear locked port gang ∧ Clear scr port gang ∧ gang.hnd = false ∧
    vectorIn (loadGrid 1) loadContext ≠ 0#64 ∧ vectorIn scrGrid loadContext ≠ 0#64 :=
  ⟨by decide +kernel, by decide +kernel, by decide +kernel, by decide +kernel, by decide +kernel, base_enters.1, base_enters.2.1,
    by decide +kernel, by decide +kernel, clear_of rfl rfl, clear_of rfl rfl, rfl, base_enters.2.2.2, by decide +kernel⟩

/-- A gang that may hold no line, its p1 true in lane 0, and one that waits for v12. -/
def poor : Gang := { gang with gmax := 0, preds := modifyAt gang.preds 1 fun _ => 1#32 }
def waiting : Gang := { gang with results := [{ pendingResult (ctx (.iadd vz) base port gang) 0 [⟨12, 0, 0xFFFFFFFF#32, LaneVec.of fun _ => 0, none⟩] [] [] with seq := 0 }] }
/-- A guard that is false. -/
def never : Args := { vz with head := ⟨⟨true, 7#3⟩, hd.sched⟩ }
/-- A guard that is true in one lane. -/
def partly : Args := { vz with head := ⟨⟨false, 1#3⟩, hd.sched⟩ }
theorem clear_poor : Clear (withG poor) port poor := clear_at rfl rfl rfl
/-- No lane of the write mask; a register pending; MOV and IADD of one lane over the budget. -/
theorem meets_PerformanceAndBudget :
    decodeTrap (.iadd never) gang port.lanes base.variant.feat = none ∧ (ctx (.iadd never) base port gang).mask = 0#32 ∧
    gang.marked = [] ∧ (gang.pendingCodes = []) ∧
    AtPort (withG waiting) port waiting ∧ waiting.marked = [] ∧
    decodeTrap (.iadd (x3 (.v 8) (.v 12) .zero)) waiting port.lanes base.variant.feat = none ∧
    ((namedAt (.iadd (x3 (.v 8) (.v 12) .zero)) hd (ctx (.iadd (x3 (.v 8) (.v 12) .zero)) (withG waiting) port waiting)).filter
      fun n => waiting.pendingCodes.contains n) ≠ [] ∧
    ([.mov partly, .iadd partly].all fun i => performs i (withG poor) port poor &&
      shapeOvf poor (destWrites (ctx i (withG poor) port poor) (.v 8) 1 (ctx i (withG poor) port poor).mask fun _ => 0) false == some 8) = true ∧
    port.secondary = false ∧
    (withG poor).gridOf poor = some (loadGrid 1) ∧ (withG poor).contextOf poor = some loadContext ∧
    poor.gmax ≤ poor.settled.gCount + poor.settled.reserved ∧ (poor.settled.reg 8).shape.isG = false := by
  refine ⟨by decide +kernel, by decide +kernel, base_clear.marks, base_clear.waits, ⟨rfl, rfl⟩, base_clear.marks, ?_⟩
  decide +kernel

/-! ### Steps of the device -/

/-- A result that writes v8 in every lane. -/
def w8 : RegWrite := ⟨8, 0, 0xFFFFFFFF#32, LaneVec.of fun _ => 7, none⟩
def res (k : ResultKind) (due : Nat) : Result := { fixedResult (ctx (.iadd vz) base port gang) 0 [w8] [] with kind := k, due := due }
def owed (k : ResultKind) (due : Nat) (l : Life) : Gang := { gang with results := [res k due], life := l }
/-- A served request, one of the scratchpad that is due; a gang parked on a walk, one asleep, awake at 0 or at 9; a gang that drains,
alone and with another of its team. -/
theorem meets_WaitsEnd :
    ({ base with reqs := [{ req .load .device [] with served := true }] } : State).reqs.find? (fun x => x.id == 0) =
      some { req .load .device [] with served := true } ∧
    (let r := { req .store .scratch [⟨0, keyOf .scratch 0, 1, 0⟩] with due := some 0 }
     let s := { base with reqs := [r] }
     s.reqs.find? (fun x => x.id == 0) = some r ∧ 0 ≤ s.cycleOf r.quad ∧ reqReady s r = true ∧ r.served = false ∧ r.space = .scratch) ∧
    (∀ l ∈ [Life.parked .walk, .parked (.sleep 0), .parked (.sleep 9)], (withG { gang with life := l }).gang? 3 = some { gang with life := l }) ∧
    gang.marker = false ∧ base.cycleOf gang.quad < 9 ∧
    (let g := { gang with life := .draining }
     let s := withG g
     s.gang? 3 = some g ∧ s.quiet 3 = true ∧ s.gangs = [g] ∧ s.team? g.team = some (loadTeam 2 1) ∧
     s.grid? (loadTeam 2 1).grid = some (loadGrid 1) ∧ (loadGrid 1).carea = 0 ∧ g.quad < s.quads.length ∧
     let s2 := { s with gangs := [g, { gang with gid := 4 }] }
     s2.gang? 3 = some g ∧ s2.quiet 3 = true ∧ ∃ h ∈ s2.gangs, h.gid ≠ 3 ∧ h.team = g.team) := by
  decide +kernel
/-- A fixed result that is due and one that is not; a variable one that may return, of a gang that runs and of one that drains. -/
theorem meets_ResultsComeBack :
    (let g := owed .fixed 0 .ready
     (withG g).gang? g.gid = some g ∧ g.quad = 0 ∧
       (g.results.filter fun x => x.kind == .fixed && decide (x.due ≤ (withG g).cycleOf 0)) = [res .fixed 0] ∧ (res .fixed 0).err = none) ∧
    (∀ k, OneReg (owed k 0 .ready) (res k 0) w8) ∧ (withG (owed .fixed 9 .ready)).cycleOf 0 < 9 ∧
    ∀ l ∈ [Life.ready, .draining], let g := owed .variable 0 l
      (withG g).gang? 3 = some g ∧ g.results.find? (fun x => x.seq == 0 && x.kind == .variable) = some (res .variable 0) ∧
      (withG g).mayReturn g (res .variable 0) = true := by
  refine ⟨by decide +kernel, fun k => ⟨rfl, rfl, rfl, rfl, ?_⟩, by decide +kernel, by decide +kernel⟩
  show 8 < gang.regs.length
  decide +kernel

/-- The placed instruction stands in its quadrant's instruction cache, and the scheduler is to act. -/
def cachedS : State := { placed with ports := [], quads := modifyAt placed.quads 0 fun q => { q with icache := [0x800] } }
theorem meets_SchedulerIssues :
    MayIssue cachedS 0 gang ∧ Cached cachedS 0 gang loadContext (bytesOfWord addWord) (.iadd ⟨hd, .i32, false, 0, 0, .v 2, .v 1, .imm, 0x100⟩) ∧
    (cachedS.quad 0).rinsing = false ∧ (cachedS.ownerOf 0).isSome = true ∧ cachedS.gangs = [gang] ∧
    cachedS.queueFull gang = false ∧ cachedS.blocked gang.gid = false ∧
    (∀ m, cachedS.poolFull gang (.iadd ⟨hd, .i32, false, 0, 0, .v 2, .v 1, .imm, 0x100⟩) m = false) ∧
    (let s := { State.reset with quads := modifyAt State.reset.quads 0 fun q => { q with rinsing := true } }
     (s.quad 0).rinsing = true) ∧ State.reset.gangs = [] ∧ 0 < State.reset.quads.length := by
  refine ⟨⟨rfl, rfl, rfl, by decide +kernel, rfl, by decide +kernel, by decide +kernel, rfl⟩,
    ⟨by decide +kernel, by decide +kernel, ok_of (by decide +kernel), ?_, by decide +kernel, by decide +kernel⟩,
    by decide +kernel, by decide +kernel, rfl, by decide +kernel, by decide +kernel, fun _ => rfl, by decide +kernel, rfl, by decide +kernel⟩
  have h : (cachedS.fetchLines loadContext.desc (gang.setPc gang.live).toNat).all
    (fun l => (cachedS.quad 0).icache.contains l.1) = true := by decide +kernel
  exact fun l hl => by simpa using List.all_eq_true.1 h l hl

/-- One team of a grid to be admitted; two VDs with a quadrant. -/
def waitingGrid : State := { base with ports := [], gangs := [], teams := [], grids := [{ loadGrid 1 with next := 0 }] }
def twoVds : State := { waitingGrid with
  vds := modifyAt (modifyAt waitingGrid.vds 0 fun d => { d with quads := 1 }) 1 fun d => { d with quads := 1 }
  quads := modifyAt waitingGrid.quads 0 fun q => { q with vd := some 1 }, uc := 5000 }
/-- A quadrant that another VD is to have, one that stays with its VD, one that may be rinsed, and one that is rinsed. -/
theorem meets_QuadrantsAreShared :
    (let s := waitingGrid
     let x := { loadGrid 1 with next := 0 }
     s.grids = [x] ∧ s.pools = [] ∧ x.own = none ∧ x.packet = none ∧ x.cls = .hi ∧ x.child = false ∧ x.coloc = false ∧ x.yields = false ∧ x.dmap = 0 ∧
       x.next < x.x * x.y * x.z ∧ x.vd < 64 ∧ s.context? x.ctx = some loadContext ∧ loadContext.ended = false ∧ loadContext.held = false ∧
       s.place (s.room x.vd) x.demand (fun _ => true) = some [0]) ∧
    twoVds.takesOver 0 = some 0 ∧ 0 < twoVds.quads.length ∧
    (let s := { twoVds with uc := 0 }
     1 ∈ s.sharers 0 ∧ (s.quad 0).vd = some 1 ∧ s.vd? 1 = some { VD.reset with quads := 1 } ∧ VD.reset.weight ≠ 0#8 ∧
       s.uc.toNat + 8 < (s.quad 0).stay + VD.reset.weight.toNat * VD.reset.qeff.toNat) ∧
    (let s := { twoVds with quads := modifyAt twoVds.quads 0 fun q => { q with vd := none, incoming := some 0 } }
     Memory.wf s.mem = true ∧ (s.quad 0).incoming.isSome = true ∧ (s.quad 0).rinsing = false ∧ s.teamsIn 0 = []) ∧
    (let s := { twoVds with quads := modifyAt twoVds.quads 0 fun q => { q with vd := none, incoming := some 0, rinsing := true } }
     (s.quad 0).rinsing = true) ∧
    (∀ c ∈ waitingGrid.contexts, c.desc.vd ≠ 1) ∧ waitingGrid.vd? 1 = some VD.reset := by
  decide +kernel
/-- No grid of the class DL: no VD has such work. -/
theorem meets_QuadrantsAreShared_work (w : Nat) : ({ twoVds with uc := 0 } : State).hasWork w 0 true = false := by
  show ((decide (0 = w) && false && _) || false) = false
  simp

/-- No clamp: a unit without work, and a quadrant with a gang; a change of point that waits, before and in the clock change. -/
theorem meets_RatesAndPoints :
    (let s := { base with rate := { base.rate with clamp := true } }
     s.rate.clamp = true) ∧
    base.rate.clamp = false ∧ base.inBurst (.stager 0) = false ∧ base.unitWork (.stager 0) = false ∧
    (let s := { base with uc := 1 }
     s.inBurst (.quad 0) = false ∧ s.unitWork (.quad 0) = true ∧ s.rate.freeUntil < s.uc.toNat ∧
       0 < (s.pointsOf (.quad 0)).length ∧ (s.unitPt (.quad 0)).point = 0) ∧
    (let s := { base with points := [⟨.quad 0, 0, some 1, none⟩, ⟨.quad 1, 0, some 1, some 0⟩, ⟨.stager 0, 0, some 1, none⟩] }
     (s.unitPt (.quad 0)).pending = some 1 ∧ (s.unitPt (.quad 1)).pending = some 1 ∧ (s.unitPt (.quad 1)).slow = some 0 ∧
       (s.unitPt (.stager 0)).pending = some 1) ∧ base.vd? 1 = some VD.reset ∧ base.timeNs + 1000 < 2 ^ 48 * 10 ^ 9 := by
  decide +kernel
/-- The last clause holds of the least point of the quadrant's table. -/
theorem meets_RatesAndPoints_least : ∃ n, Least (base.pointsOf (.quad 0)) (base.unitRate (.quad 0)) n := by
  refine ⟨argMin ((base.pointsOf (.quad 0)).map fun p => cost p (base.unitRate (.quad 0))), ?_⟩
  have h : (let ps := base.pointsOf (.quad 0)
      let n := argMin (ps.map fun p => cost p (base.unitRate (.quad 0)))
      match ps[n]? with
      | none => false
      | some p => (List.range ps.length).all fun i => (ps[i]?).all fun q =>
          (!decide (i < n) || decide (cost p (base.unitRate (.quad 0)) < cost q (base.unitRate (.quad 0)))) &&
            decide (cost p (base.unitRate (.quad 0)) ≤ cost q (base.unitRate (.quad 0)))) = true := by decide +kernel
  simp only at h
  split at h
  · cases h
  · next p hp =>
    refine ⟨p, hp, fun i q hq => ?_⟩
    have hi : i < (base.pointsOf (.quad 0)).length := (List.getElem?_eq_some_iff.1 hq).1
    have := List.all_eq_true.1 h i (List.mem_range.2 hi)
    rw [hq] at this
    simp only [Option.all_some, Bool.and_eq_true, Bool.or_eq_true, Bool.not_eq_true', decide_eq_false_iff_not, decide_eq_true_eq] at this
    exact ⟨fun hn => this.1.resolve_left (by omega), this.2⟩

/-- A context with one common page in its host stage; canonical memory without common bytes. -/
theorem meets_RegistersAreWritten :
    (16#32).toNat % 128 % 8 = 0 ∧ (16#32).toNat % 128 ≤ 64 ∧ ((3#32).toNat % 128 % 8 ≠ 0) ∧ 64 < (72#32).toNat % 128 ∧
    State.reset.commonMapped = false ∧ Memory.wf State.reset.mem = true ∧ (∀ x ∈ State.reset.mem, x.1 < keyOf .common 0) ∧
    ({ base with mem := memStore base.mem (loadTable + 8) 8 0x25F } : State).commonMapped = true ∧ State.reset.vd? 3 = some VD.reset ∧
    2 % 4 ≠ 0 := by
  decide +kernel

/-- Queue 0 of context 0 and VD 0, enabled and with RATEOK, its ring at address 0, one packet in it. -/
def qq : Queue := { q := 0, qcb := 0x9000, shadow := 0xC0000000#512, ring := 0, log2n := 4, head := 0, tail := 1, state := 1, ecode := 0,
                    dlmiss := 0, started := 0, packets := [], wait := none }
/-- The small state with a packet in that ring, and the kernel of one gang at 0x8000. -/
def queued (p : Nat) (x : Queue := qq) : State := { base with
  mem := memStore (memStore base.mem 0 64 p) 0x8000 32 (0x40000 + (256 + 256 * 2 ^ 9 + 2 ^ 32) * 2 ^ 128), queues := [x] }
def startsWith (p t : Nat) : Bool := (queued p).startable 0 t == some (qq, BitVec.ofNat 512 p)
def okay {ε α} (x : Except ε α) : Bool := x.toOption.isSome
/-- A packet of the queue that is outstanding. -/
def qbusy : Queue := { qq with packets := [⟨9, 3⟩] }
/-- POOL of pool 7 with its buffer at 0x6000; COPY of 64 bytes from 0x6000 to 0x7000. -/
def poolBits : Nat := 2 + 7 * 2 ^ 32 + 0x8000 * 2 ^ 64 + 0x6000 * 2 ^ 128 + 64 * 2 ^ 192
def copyBits : Nat := 3 + 0x6000 * 2 ^ 64 + 0x7000 * 2 ^ 128 + 64 * 2 ^ 192
/-- LAUNCH, LAUNCH with a reserved field, POOL, COPY and its end, and a basket whose time is over. -/
theorem meets_GridsAndPoolsAreCreated :
    startsWith launchBits.toNat 1 = true ∧ launchReserved launchBits = false ∧ (launchOf launchBits).sizeBad = false ∧
    (launchOf launchBits).span ≤ 5 ∧
    (((queued launchBits.toNat).checkKernel 0 (dispatcherFor 0) loadContext.desc (launchOf launchBits) false).toOption.any fun r => (r.2.vd? 0).isSome) = true ∧
    startsWith (1 + 2 ^ 16) 1 = true ∧ launchReserved (BitVec.ofNat 512 (1 + 2 ^ 16)) = true ∧
    (launchOf (BitVec.ofNat 512 (1 + 2 ^ 16))).carea = 0 ∧
    startsWith poolBits 2 = true ∧ poolBad (queued poolBits) 0 (BitVec.ofNat 512 poolBits) = false ∧
    (((queued poolBits).checkKernel 0 (dispatcherFor 0) loadContext.desc (poolLaunch (BitVec.ofNat 512 poolBits)) true).toOption.any
      fun r => decide (16 ≤ r.1.regs) && decide (16 ≤ r.1.gmax)) = true ∧
    startsWith copyBits 3 = true ∧ pkReserved (BitVec.ofNat 512 copyBits) 0 0x20 = false ∧ pk (BitVec.ofNat 512 copyBits) 0x18 0 64 = 64 ∧
    (let x := { qq with head := 1, packets := [⟨0, BitVec.ofNat 512 copyBits⟩] }
     let s := queued copyBits x
     s.queue? 0 = some x ∧ x.head = x.tail ∧ x.packets.find? (fun y => y.index == 0 && pkType y.bits == 3) = some ⟨0, BitVec.ofNat 512 copyBits⟩ ∧
       okay (s.vload loadContext.desc 5 0x6000 64) = true ∧ okay (s.vstore (copySource x) false loadContext.desc 5 0x7000 64 0) = true) ∧
    qq.vd = 0 ∧ qq.ctx = 0 ∧ (queued 0).queueDesc qq = some loadContext.desc ∧ base.context? 0 = some loadContext ∧ loadContext.ended = false ∧
    (let p : Pool := ⟨0, 7, 1, 0x3000, 64, 1, 5, 0, [(3, [⟨0, 0, 0⟩])], []⟩
     let s := { base with pools := [p], uc := 5 }
     p.flusht ≠ 0 ∧ (p.basket 3).head? = some ⟨0, 0, 0⟩ ∧ 0 + p.flusht ≤ s.uc.toNat) := by
  decide +kernel

/-- SIGNAL adds 1 to the word at 0x6000, MARK, RATE, and WAIT for 1 there. -/
def signalBits : Nat := 4 + 2 ^ 10 + 0x6000 * 2 ^ 64 + 2 ^ 128
def markBits : Nat := 7 + 0x6000 * 2 ^ 64
def rateBits : Nat := 6 + 100 * 2 ^ 64
def waitBits : Nat := 5 + 0x6000 * 2 ^ 64 + 2 ^ 128
/-- A guest's table whose entry 0 leads to queue 0. -/
def guested : State := { queued 3 qbusy with
  mem := memStore base.mem 0xA000 2 0x8000, hqt := [(0, 0x80000000#32)]
  vds := modifyAt base.vds 0 fun d => { d with gqt := 0xA000 } }
theorem meets_QueuePackets :
    (let x := { qbusy with shadow := 0 }
     (queued copyBits x).queue? 0 = some x ∧ x.en = false) ∧ qbusy.en = true ∧ qbusy.packets ≠ [] ∧ qbusy.state = 1 ∧ qbusy.wait = none ∧
    2 ^ qbusy.log2n < ((100#32).toNat + 2 ^ 32 - qbusy.head) % 2 ^ 32 ∧ ((1#32).toNat + 2 ^ 32 - qbusy.head) % 2 ^ 32 ≤ 2 ^ qbusy.log2n ∧
    ((withTail (queued copyBits qbusy) 0 qbusy 1).headPacket { qbusy with tail := 1 }).toOption = some (BitVec.ofNat 512 copyBits) ∧
    packetStep 0 (pkType (BitVec.ofNat 512 copyBits)) = some (.copyPacket 0) ∧ pkWaits (BitVec.ofNat 512 copyBits) = false ∧
    base.queue? 0 = none ∧ guested.guestQueue 0 0 = some 0 ∧ base.guestQueue 0 0 = none ∧ (base.vd? 0).isSome = true ∧
    startsWith signalBits 4 = true ∧ pkReserved (BitVec.ofNat 512 signalBits) 1 0x18 = false ∧ pk (BitVec.ofNat 512 signalBits) 0 10 1 = 1 ∧
    okay ((queued signalBits).vload loadContext.desc 5 0x6000 8) = true ∧ okay ((queued signalBits).target loadContext.desc 5 true 0x6000) = true ∧
    startsWith markBits 7 = true ∧ pkReserved (BitVec.ofNat 512 markBits) 0 0x10 = false ∧
    okay ((queued markBits).vstoreReqs (dispatcherFor 0) true loadContext.desc 5 0x6000 16 0) = true ∧
    startsWith rateBits 6 = true ∧ pkReserved (BitVec.ofNat 512 rateBits) 0 0x10 = false ∧ qq.rateok = true ∧
    ({ qq with shadow := 0x80000000#512 } : Queue).rateok = false ∧
    startsWith waitBits 5 = true ∧ pkReserved (BitVec.ofNat 512 waitBits) 3 0x18 = false ∧ pk (BitVec.ofNat 512 waitBits) 0 10 2 ≠ 3 ∧
    pkHolds (BitVec.ofNat 512 waitBits) 0 = false ∧ ((queued waitBits).vload loadContext.desc 5 0x6000 8).toOption = some 0 ∧
    (let x := { qq with wait := some ⟨0, BitVec.ofNat 512 waitBits⟩ }
     (queued waitBits x).queue? 0 = some x ∧ x.state = 1 ∧
       ((queued waitBits x).vload loadContext.desc 5 (pk (BitVec.ofNat 512 waitBits) 8 0 64) 8).toOption = some 0) ∧
    pkHolds (BitVec.ofNat 512 waitBits) 1 = true := by
  decide +kernel

/-- A command of the small gang with the handles 1 and 1 of the desk. -/
def cmd (op : CmdOp) (place : CmdPlace) (started ended : Bool) (x : HandleArgs) : Cmd :=
  { id := 5, gid := 3, gidx := 0, team := 2, ctx := 0, vd := 0, seq := 0, pc := 0, place := place, op := op, x := x, a := 0, b := 0, fill := 0,
    handles := handles (ctx (.acopy x) desk port gang) loadContext [1, 1], started := started, step := 0, ended := ended, count := 0,
    flags := 0, status := 0, errAddr := 0, errNo := 0, walking := false, kept := false, coll := none, booked := false }
def withC (k : Cmd) : State := { desk with mem := loadTables [], cmds := [k] }
def copyAt (started ended : Bool) : Cmd := cmd .acopy (.engine (.stager 0)) started ended (xc 0 0 1 1 0)
def saving : Cmd := cmd .tsave (.matrix 0) true false (xc 0 0 1 0 0)
/-- A copy in its queue: waiting, running, ended, with no joint and with one of weight 100; a TSAVE on the move lane. -/
theorem meets_EngineSteps :
    (∀ b ∈ [false, true], ∀ e ∈ [false, true], (withC (copyAt b e)).engineQueue (.stager 0) = [copyAt b e]) ∧ (copyAt true false).coll = none ∧
    (let k := copyAt true false
     let s := withC k
     s.cmd? k.id = some k ∧ k.op.path ≠ 4 ∧ s.bankOps = [] ∧
       ((s.envOf k k.op.path false .none).any fun env => (runChunk s env (k.items s env k.chunk.1)).hold.isNone) = true) ∧
    (let s := withC saving
     (s.matQueue 0).find? (fun c => c.op.lane == some .move && c.started && !c.ended && !c.walking) = some saving ∧
       s.cmd? 5 = some saving ∧
       ((s.envOf saving 2 false .none).any fun env => (readHeader s env saving).isNone &&
         (runChunk s env (moveItems s 0 saving).1).hold.isNone) = true) ∧
    (let k := copyAt true true
     ((withC k).engineQueue (.stager 0)).find? (·.ended) = some k ∧ k.status = 0 ∧ (withC k).gang? 3 = some gang ∧ gang.life ≠ .draining ∧
       k.op ≠ .coll ∧ k.x.jnt = 31#5 ∧
       let k := { k with x := { k.x with jnt := 0 } }
       let tm := { loadTeam 2 1 with joints := [{ freshJ with n := 100, out := 1 }] }
       ({ withC k with teams := [tm] } : State).team? 2 = some tm ∧ k.x.jnt ≠ 31#5 ∧ (tm.joint 0).st = .open_ ∧
         (tm.joint 0).arr + k.weight < (tm.joint 0).n) := by
  decide +kernel

/-- A collective of one team: a copy of four words. -/
def inst (abort : Bool) : Coll := ⟨1, 3, 1, 0, 0, 0, [], abort, false⟩
def collCmd (sel : BitVec 4) : Cmd := { cmd .coll (.engine (.bank 0)) false false (xc sel 3 1 1 0) with coll := some 1 }
def collS (sel : BitVec 4) (abort : Bool) : State := { withC (collCmd sel) with colls := [inst abort] }
/-- An element operation and an atomic at a bank; an instance that agrees, one that does not, one that is aborted. -/
theorem meets_BankAndCollectiveSteps :
    base.bankHeld 0 = false ∧
    (let o : BankOp := ⟨9, 0, 5, keyOf .common 0, .u32, 0, false, 0, 1, false, 0, 0, 1⟩
     ({ base with bankOps := [o] } : State).bankOps.find? (fun x => x.bank == 0) = some o ∧ o.value < 2 ^ 32) ∧
    (let r := req (.atomic 0 true) .common [⟨0, keyOf .common 0, 1, 0⟩]
     let s := { base with reqs := [r] }
     s.reqs.find? (fun x => x.atBank s 0 && reqReady s x) = some r) ∧
    (∀ b ∈ [false, true], (collS 0 b).colls.find? (fun x => x.no == 1) = some (inst b)) ∧
    (let s := collS 0 false
     let ks := collCmds s 1
     ks = [collCmd 0] ∧ collIssued s (inst false) ks [] = true ∧ ks.all (collReady s) = true ∧ okay (collSource s (collCmd 0) .none) = true ∧
       collAgrees (collShares s ks [] .none) = true ∧ okay (collDest s (collCmd 0) .none) = true) ∧
    (let k := { collCmd 0 with handles := handles (ctx (.acopy (xc 0 0 1 3 0)) desk port gang) loadContext [5, 1] }
     let s := { withC k with colls := [inst false] }
     let ks := collCmds s 1
     ks = [k] ∧ collIssued s (inst false) ks [] = true ∧ ks.all (collReady s) = true ∧ okay (collSource s k .none) = true ∧
       collAgrees (collShares s ks [] .none) = false) := by
  decide +kernel

/-- A matrix command in the queue of quadrant 0. -/
def mat (op : CmdOp) (started ended : Bool) (x : HandleArgs) : Cmd := cmd op (.matrix 0) started ended x
/-- Each command waits, runs and has ended; a product behind one of the same accumulator waits; a burst is held ready. -/
theorem meets_MatrixSteps :
    (let ks := [mat .tzero false false (xc 0 0 0 0 0), mat .tburst false false (xc 0 0 0 0 0)]
     ∀ k ∈ ks, nextStart ((withC k).matQueue 0) .array = some k ∧ mayStart ((withC k).matQueue 0) k = true) ∧
    (let k := mat .tsave false false (xc 0 0 1 0 0)
     nextStart ((withC k).matQueue 0) .move = some k ∧ mayStart ((withC k).matQueue 0) k = true) ∧
    (let q := mat .tdrain true false (xc 0 0 1 0 0)
     let k := { mat .tmma false false (xc 0 0 0 0 1) with id := 6 }
     let s := { desk with cmds := [q, k] }
     nextStart (s.matQueue 0) .array = some k ∧ mayStart (s.matQueue 0) k = false) ∧
    (let ks := [mat .tzero true false (xc 0 0 0 0 0), mat .tmma true false (xc 0 0 0 0 1), mat .tmmas true false (xc 0 0 0 0 2)]
     ∀ k ∈ ks, ((withC k).matQueue 0).find? (fun c => c.op.lane == some .array && c.started && !c.ended) = some k ∧
       (withC k).cmd? 5 = some k ∧ k.x.x1.toNat < 8) ∧
    Memory.wf (loadTables []) = true ∧ 0 < desk.quads.length ∧ (desk.quad 0).accs.length = 8 ∧
    (let k := mat .tmma true true (xc 0 0 0 0 1)
     ((withC k).matQueue 0).find? (fun c => c.op.lane == some .array && c.ended) = some k ∧ k.status = 0 ∧ k.x.jnt = 31#5) ∧
    (let k := mat .tstat false false (xc 0 0 0 0 0)
     (withC k).matQueue 0 = [k] ∧ (withC k).gang? 3 = some gang) ∧
    (let s := { desk with quads := modifyAt desk.quads 0 fun q => { q with ready := some 8 } }
     (s.quad 0).ready.isSome = true) := by
  decide +kernel

/-- A context with a stow and a restore vector and a save area of 1 MiB at 0, its descriptor in memory at 0x9000 (R373). -/
def savingBits : Nat := 0x10000 + 0x10000 * 2 ^ 64 + 0x50000 * 2 ^ 128 + 0x70000 * 2 ^ 192 + 0x60000 * 2 ^ 256 + 0x100000 * 2 ^ 384
def saver : Context := { loadContext with where_ := 0x9000, desc := descriptorOf savingBits }
def saved (tm : Team) (g : Gang) : State := { withG g with
  ports := [], teams := [tm], contexts := [saver], mem := memStore (loadTables []) 0x9000 128 savingBits }
/-- A context is created, pre-empted, let go on, and torn down. -/
theorem meets_ContextsAndRequests :
    State.reset.contexts = [] ∧ base.context? 0 = some loadContext ∧ loadContext.ended = false ∧ Memory.wf base.mem = true ∧
    (let tm := loadTeam 2 1
     let s := saved tm gang
     s.context? 0 = some saver ∧ s.teams = [tm] ∧ tm.stowed = false ∧ tm.preempt = false ∧ s.gridIn 0 tm.grid = true ∧
       s.resOf tm (s.kernelOfTeam tm) ≤ saver.desc.saveLen ∧ gang.life = .ready) := by
  decide +kernel
/-- A gang that takes PREEMPT, with a stow vector and without; one whose frame is written and whose stores are still out. -/
def called2 : Gang := { gang with preempt := true }
def inStow : Gang := { gang with preempt := true, preempted := true, hnd := true, life := .stowing }
def putAway : Gang := { gang with life := .stowed, quad := 2 ^ 16 }
theorem meets_PreemptionSteps :
    (let s := saved (loadTeam 2 1) called2
     s.gang? 3 = some called2 ∧ called2.takesPreempt = true ∧ s.ports = [] ∧ s.cmds = [] ∧ called2.frameWaits = false ∧
       s.team? 2 = some (loadTeam 2 1) ∧ s.contextOf called2 = some saver ∧ saver.desc.svec ≠ 0#64 ∧ loadContext.desc.svec = 0#64 ∧
       s.teamContext (loadTeam 2 1) = some saver ∧ s.grid? 1 = some (loadGrid 1) ∧ (loadTeam 2 1).stowed = false) ∧
    (let s := saved (loadTeam 2 1) putAway
     s.gangs = [putAway] ∧ putAway.team = 2 ∧ putAway.life = .stowed ∧
       okay (s.vstore { dispatcherFor 0 with team := 2 } true saver.desc 0 saver.desc.save.toNat 512 (teamHeader (loadGrid 1) (loadTeam 2 1) 0)) = true) ∧
    (let s := saved (loadTeam 2 1) inStow
     s.gang? 3 = some inStow ∧ inStow.life = .stowing ∧ s.reqs = []) ∧
    (let s := { saved (loadTeam 2 1) inStow with reqs := [req .store .device []] }
     s.gang? 3 = some inStow ∧ (req .store .device []).gid = 3 ∧ (req .store .device []).kind ≠ .account) := by
  decide +kernel
/-- The frame can be written. -/
theorem meets_PreemptionSteps_frame : let f := frameOf saver (loadTeam 2 1) loadKernel called2
    okay ((saved (loadTeam 2 1) called2).target saver.desc 0 true f) = true ∧ f % 65536 + 2048 ≤ 65536 ∧ f < 2 ^ 64 ∧
    Memory.wf (saved (loadTeam 2 1) called2).mem = true ∧ (saved (loadTeam 2 1) called2).midIssue 3 = false := by
  decide +kernel
/-- A stowed team with its header and a frame of zeros, and with a frame that is damaged. -/
def away : Team := { loadTeam 2 1 with stowed := true }
def damaged : State := { saved away putAway with mem := memStore (saved away putAway).mem (frameOf saver away loadKernel putAway) 1 1 }
theorem meets_PreemptionSteps_restore :
    let s := saved away putAway
    s.team? 2 = some away ∧ s.teamContext away = some saver ∧ s.grid? 1 = some (loadGrid 1) ∧ saver.ended = false ∧
    s.gangsOf 2 = [putAway] ∧ s.gang? 3 = some putAway ∧ away.records = [] ∧ away.late = [] ∧
    saver.desc = descriptorOf (s.load (keyOf .device saver.where_) 128) ∧
    (s.vload saver.desc 0 (frameOf saver away loadKernel putAway) 2048).toOption = some 0 ∧
    s.restorePlace away (loadGrid 1) [(putAway, 0)] (s.room 0) = some [0] ∧ saver.desc.rvec ≠ 0#64 ∧
    (s.vload saver.desc 0 (saver.desc.save.toNat + away.area) 512).toOption = some 0 ∧ (jointsFrom 0 away).isSome = true ∧
    headerFits 0 (loadGrid 1) away = true ∧ frameBad 0 loadKernel = false ∧
    ((damaged.vload saver.desc 0 (frameOf saver away loadKernel putAway) 2048).toOption.any fun v =>
      frameBad v loadKernel && (damaged.restorePlace away (loadGrid 1) [(putAway, v)] (damaged.room 0)).isSome) = true := by
  decide +kernel

/-- A write with its stamp behind and a read of a bad line at channel 0; a row with a count. -/
theorem meets_ControllersServe :
    (let r := { req .store .device [⟨0, 4, 1, 0⟩] with stamp := 2 ^ 16 - 1 }
     let s := { base with reqs := [r] }
     s.reqs = [r] ∧ r.served = false ∧ r.space = .device ∧ r.kind ≠ .account ∧ s.repairs = [] ∧ s.mend.act = false ∧ s.badLines = [] ∧
       s.timeNs / 64 = 0 ∧ (r.stamp + 1) % 2 ^ 16 = 0 % 2 ^ 16 ∧ s.nextReq 0 = some r) ∧
    (let r := { req .load .device [⟨0, 4, 0, 0⟩] with own := 0 }
     let f : LineFault := ⟨false, false, false⟩
     f.counter = false ∧
     f.replicaReads = false ∧ f.cleanCopy = false ∧ r.kind = .load ∧ r.accs = [⟨0, 4, 0, 0⟩] ∧ r.own = 0 ∧
       base.context? r.ctx = some loadContext ∧ loadContext.ended = false) := by
  decide +kernel

/-- A device that mends: before its granule moves, while it moves, at granule 0 and above it, a gang parked on it. -/
def mending (moving : Bool) (next : Nat) : State :=
  { withG { gang with life := .parked (.moving 1) } with mend := ⟨1, true, false, next, moving, 5⟩, repairs := [.row 0 3] }
theorem meets_MendingAndRepairs :
    State.reset.mend.act = false ∧ 0 ∈ State.reset.hbm ∧ 1 < State.reset.hbm.length ∧ 99 ∉ State.reset.hbm ∧ Memory.wf State.reset.mem = true ∧
    (mending false 4).mend.act = true ∧ (mending false 4).mend.moving = false ∧ (mending false 4).reqs = [] ∧
    (mending true 0).mend.moving = true ∧ (mending true 0).mend.next = 0 ∧ (mending true 4).mend.next ≠ 0 ∧
    (∀ g ∈ (mending true 4).gangs, g.life = .parked (.moving 1) ∧ g.marker = false) ∧
    (∃ t ∈ base.teams, t.stowed = false ∧ 0 ∈ t.cores) ∧ (∀ t ∈ base.teams, t.stowed = false → 1 ∉ t.cores) ∧
    0 < base.spares.getD (1 / 48) 0 ∧ ({ base with spares := [0] } : State).spares.getD (1 / 48) 0 = 0 ∧
    (mending true 4).repairs[0]? = some (.row 0 3) := by
  decide +kernel

/-- The host's window is the first GiB; one at the end of memory; a far load of the small gang. -/
def windowed (base_ : BitVec 10) : State := { base with link := { base.link with hmwSize := 1, hmwBase := base_ }, mem := loadTables [] }
def farLoad : Req := req .load .far [⟨0, keyOf .far 0, 0, 0⟩]
theorem meets_HostLinkSteps :
    (windowed 0).inWindow 64 4 = true ∧ 64 + 4 ≤ (windowed 0).memcap ∧ (windowed 0).badLines = [] ∧ (windowed 0).sealed = [] ∧
    (windowed 0).mend.act = false ∧ Memory.wf (windowed 0).mem = true ∧ base.inWindow 64 4 = false ∧
    (let s := { windowed 0 with hbm := [], sealed := [0] }
     s.inWindow 64 4 = true ∧ s.memcap < 64 + 4 ∧ 64 / 65536 ∈ s.sealed) ∧
    base.reqs = [] ∧
    (let s := { withG (owed .variable 0 .ready) with reqs := [farLoad] }
     s.reqs = [farLoad] ∧ farLoad.space = .far ∧ farLoad.kind = .load ∧ s.gang? 3 = some (owed .variable 0 .ready) ∧
       (owed .variable 0 .ready).results[0]? = some (res .variable 0) ∧ (res .variable 0).seq = farLoad.seq ∧ (res .variable 0).err = none) := by
  decide +kernel

/-- A peer that is enabled, a port in change, an entry of the second tier. -/
theorem meets_FabricAndTimeSteps :
    7 ∉ base.peersOn ∧
    (let s := { windowed 0 with peersOn := [7] }
     7 ∈ s.peersOn ∧ (64#56).toNat < 2 ^ 55 ∧ (64#56).toNat + 4 ≤ s.memcap ∧ (64#56).toNat % 4 = 0 ∧ s.badLines = [] ∧ s.sealed = [] ∧
       Memory.wf s.mem = true) ∧
    State.reset.fabric[0]? = some FabricPort.reset ∧ 0 < FabricPort.reset.lanes ∧ FabricPort.reset.changing = false ∧
    (let s := { State.reset with fabric := [⟨4, true, false⟩] }
     s.fabric[0]? = some ⟨4, true, false⟩) ∧
    State.reset.variant.portFitted 0 = true ∧ State.reset.variant.ethin = true ∧ 5 ∉ [0, 1, 18, 19] ∧
    (State.resetOf .g9n).mappingRefused 1 0x103#64 = true ∧ (0x103#64).getLsbD 0 = true ∧ (0x103#64).getLsbD 1 = true ∧
    (0x103#64).extractLsb' 8 3 = 1#3 ∧ State.reset.mappingRefused 1 0x3#64 = false ∧ Memory.wf State.reset.mem = true ∧
    (0 : Int).natAbs ≤ 10 ^ 6 ∧ 10 ^ 6 < (2000000 : Int).natAbs ∧ State.reset.timeNs + (2000000 : Int) < 2 ^ 48 * 10 ^ 9 := by
  decide +kernel

/-- Channel 0 of port 0 for every type, its ring at 0x6000 and its block at 0x7000, in a state of its own with the waiting frames. -/
def chan (en : Bool) (state : BitVec 2) (lc : Word) (fs : List Frame) : Ingress :=
  { Ingress.reset with en := en, ring := 0x6000, icb := 0x7000, state := state, lc := lc, frames := fs }
def framed (x : Ingress) (block : Nat) : State := { withG gang with
  mem := memStore (loadTables []) 0x7000 8 block, ingress := modifyAt State.reset.ingress 0 fun _ => x, fabric := [⟨4, false, true⟩] }
def frame : Frame := ⟨0, 0, List.replicate 60 1#8⟩
/-- A frame comes where there is room and where there is none; it is written where slots are free, and dropped where they are not. -/
theorem meets_IngressSteps_arrival :
    (let s := framed (chan true 1 0 []) 0
     s.fabric[0]? = some ⟨4, false, true⟩ ∧ s.taker 0 0x800#16 = some 0 ∧ s.ingress[0]? = some (chan true 1 0 []) ∧
       60 ≤ frame.bytes.length ∧ frame.bytes.length ≤ 9212) ∧ State.reset.taker 0 0x800#16 = none ∧
    ([] : List Frame).length ≤ Config.receiveBuffer 0 ∧
    Config.receiveBuffer 0 < (chan true 1 0 (List.replicate (Config.receiveBuffer 0 + 1) frame)).frames.length := by
  refine ⟨by decide +kernel, by decide +kernel, Nat.zero_le _, ?_⟩
  show _ < (List.replicate _ frame).length
  rw [List.length_replicate]
  exact Nat.lt_succ_self _
/-- A frame at the head of a channel that runs, or that is in ERROR; with a LOSS to come; in a ring that is full. -/
theorem meets_IngressSteps_publish :
    (∀ st ∈ [1#2, 2#2], ∀ lc ∈ [0#32, 3#32], AtHead (framed (chan true st lc [frame]) 0) 0 (chan true st lc [frame]) frame []) ∧
    ((framed (chan true 1 0 [frame]) 0).chanLoad (chan true 1 0 [frame]) 0x7000 8).toOption = some 0 ∧
    (framed (chan true 1 0 [frame]) 0).waits = [] ∧ ((framed (chan true 1 0 [frame]) 0).blockReads 0).isEmpty = false ∧
    (frameSlots frame).length + 1 ≤ 2 ^ 4 - (0#32 - 0#32).toNat ∧ 2 ^ 4 - (16#32 - 0#32).toNat < (frameSlots frame).length ∧
    40 < frame.bytes.length ∧ frame.bytes.length < 2 ^ 16 ∧
    (((frameSlots frame).head?).any fun q => ((framed (chan true 1 0 [frame]) 0).slotStores 0 (frameSlots frame).length q.1 q.2.1 q.2.2).toOption.any
      fun rs => !rs.isEmpty) = true := by
  refine ⟨?_, by decide +kernel, rfl, by decide +kernel, by decide +kernel, by decide +kernel, by decide +kernel, by decide +kernel, by decide +kernel⟩
  intro st hs lc hl
  simp only [List.mem_cons, List.not_mem_nil, or_false] at hs hl
  refine ⟨?_, rfl, ?_, rfl⟩
  · show (modifyAt State.reset.ingress 0 fun _ => _)[0]? = _
    rcases hs with rfl | rfl <;> rcases hl with rfl | rfl <;> decide +kernel
  · rcases hs with rfl | rfl <;> exact ⟨rfl, rfl, by simp [chan]⟩
/-- A frame that is being written, its first slot and its last. -/
theorem meets_IngressSteps_begun : ∀ n ∈ [0, 1], let x := { chan true 1 0 [frame] with begun := true, slot := n }
    let s := framed x 0
    s.ingress[0]? = some x ∧ ((frameSlots frame)[x.slot]?.any fun q => (s.slotStores 0 (frameSlots frame).length q.1 q.2.1 q.2.2).toOption.any
      fun rs => !rs.isEmpty) = true ∧ (x.slot + 1 < (frameSlots frame).length ↔ n = 0) := by
  decide +kernel
/-- A LOSS slot is due; the block holds each CMD; a channel is enabled from STOP, and stopped. -/
theorem meets_IngressSteps_control :
    (let x := chan true 1 3 []
     let s := framed x 0
     x.lc ≠ 0#32 ∧ (x.widx - x.ridx).toNat < 2 ^ x.log2n.toNat ∧
       ((s.slotStores 0 1 0 4 x.lc.toNat).toOption.any fun rs => !rs.isEmpty) = true ∧
       let a := x.ring.toNat + 64 * (x.widx.toNat % 2 ^ x.log2n.toNat)
       a % 65536 + 64 ≤ 65536 ∧ a < 2 ^ 64 ∧ okay (s.target loadContext.desc 6 true a) = true ∧ Memory.wf s.mem = true ∧
         s.context? x.ctx.toNat = some loadContext) ∧
    (∀ cmd ∈ [0, 1, 2, 3], let s := framed (chan true 1 0 []) (cmd * 2 ^ 32)
     (s.chanLoad (chan true 1 0 []) 0x7000 8).toOption = some (cmd * 2 ^ 32) ∧ cmd * 2 ^ 32 / 2 ^ 32 % 4 = cmd ∧
       okay (s.chanLoad (chan true 1 0 []) 0x7004 4) = true ∧ okay (s.chanStores 0 0x7004 4 0) = true) ∧
    State.reset.variant.ethin = true ∧ State.reset.ingress[0]? = some Ingress.reset ∧ Ingress.reset.state = 0#2 ∧
    (0x84000000#32).getLsbD 31 = true ∧ (0x04000000#32).getLsbD 31 = false ∧
    okay ((framed (chan false 0 0 []) 0).chanLoad (chan true 0 0 []) 0x7000 8) = true ∧
    (match ({ framed (chan true 1 0 []) 0 with mem := [] } : State).chanLoad (chan true 1 0 []) 0x7000 8 with | .error .fault => true | _ => false) = true := by
  decide +kernel

/-- Worrid runs; a patch is staged; the index of WEXT. -/
theorem meets_FirmwareSteps :
    (let w := { Worrid.reset with bootStat := 1, staged := some ⟨⟨true, 0, 1, 5, [(1, 7)], []⟩, 0⟩ }
     w.bootStat = 1#2 ∧ w.staged = some ⟨⟨true, 0, 1, 5, [(1, 7)], []⟩, 0⟩ ∧ Memory.wf State.reset.mem = true) ∧ (0 : BitVec 2) ≠ 3#2 := by
  decide +kernel
/-- A tagged instruction of VD 0 in quadrant 0; a team that the debug stop names. -/
theorem meets_SamplingAndDebugSteps :
    State.reset.vd? 3 = some VD.reset ∧
    (let s := { base with quads := modifyAt base.quads 0 fun q => { q with tagged := some ⟨3, 0, 0x40000, 0, 2, 0, 0, 0, 0, 1⟩ } }
     Memory.wf s.mem = true ∧ 0 < s.quads.length ∧ (s.quad 0).tagged.isSome = true ∧ s.ownerOf 0 = some 0 ∧ (s.vd? 0).isSome = true) ∧
    base.teams = [loadTeam 2 1] ∧ (loadTeam 2 1).stowed = false ∧ (loadTeam 2 1).index = base.dbg.team.toNat ∧
    base.grid? (loadTeam 2 1).grid = some (loadGrid 1) ∧ (loadGrid 1).ctx = base.dbg.ctx.toNat ∧
    (loadGrid 1).seq % 2 ^ 26 = base.dbg.gridSeq.toNat % 2 ^ 26 ∧ gang ∈ cachedS.candidates 0 (cachedS.cycleOf 0 + 1) := by
  decide +kernel

/-! ### Further clauses of the statements, met -/

def vu : Args := { vz with ty := .u32 }
def vb : Args := { vz with ty := .untyped }
def wellOnes : List Instr := [.and vb, .or vb, .xor vb, .andn vb, .not vb, .shl vu, .shr vu, .sra vz, .rotl vu, .clz vu, .popc vu, .brev vu,
  .mov vb, .redux vz, .scan vz, .cvtn { vz with ty := .f16x2, imm := 16 }]
/-- The instructions of which a statement asks that they are well-formed, performed at the port. -/
theorem meets_wellFormed : wellOnes.all (fun i => i.wellFormed) = true ∧ Ready wellOnes :=
  ⟨by decide +kernel, ready_of (by decide +kernel)⟩

/-- A seal of granule 0 behind a store to it, one with no write in flight, and one behind an earlier seal of its granule. -/
theorem meets_SealResults_order :
    (let s := { base with reqs := [req .store .device [⟨0, 4, 1, 0⟩]] }
     s.sealWaits ⟨1, 3, [0], true⟩ = true) ∧ base.sealWaits ⟨1, 3, [0], true⟩ = false ∧
    ({ base with sealing := [⟨0, 3, [0], false⟩] } : State).sealWaits ⟨1, 3, [0], true⟩ = true := by decide +kernel

/-- JWAIT on a phase that is not complete, from a gang without marks. -/
theorem meets_JointResults_park : let x := xh (.v 0) (.const 1) (.v 0) 0 0
    let c := ctx (.jwait x) (withJ openJ) port gang
    performs (.jwait x) (withJ openJ) port gang = true ∧ openJ.complete (led c x.a) = false ∧ c.port.secondary = false ∧
      c.parkErr.isNone = true := by decide +kernel
/-- A gang parked on phase 1 of joint 0 beside another; the arrival that completes it. -/
def parkedJ : Gang := { gang with life := .parked (.joint 0 1 7#64 3 0xFFFFFFFF#32 0x40000#64) }
theorem meets_ArrivalsAndTransfers_release :
    let s := { withJ openJ with gangs := [parkedJ, { gang with gid := 4 }] }
    s.team? 2 = some { loadTeam 2 1 with joints := [openJ] } ∧ openJ.arr + 1 = openJ.n ∧
      s.gangs.Pairwise (fun g h => g.gid ≠ h.gid) ∧ parkedJ ∈ s.gangs ∧ parkedJ.team = 2 ∧ openJ.phase = 1 := by decide +kernel
/-- A giver of 8 lines and its taker, and a giver that names itself, has too few lines or a wrong number of them. -/
def giver (n : Nat) : Gang := { gang with gidx := n, gid := 3 + n, gmax := 16 }
theorem meets_ArrivalsAndTransfers_moves :
    let s := { base with gangs := [giver 0, giver 1] }
    let gives := fun (n p lines : Nat) => (⟨n, p, lines, true, 3 + n, 0⟩ : Regx)
    let takes := fun (n p lines : Nat) => (⟨n, p, lines, false, 3 + n, 0⟩ : Regx)
    s.gangs.Pairwise (fun g h => g.gid ≠ h.gid) ∧
    (regxStatus (loadTeam 2 1) s.gangs [gives 0 1 8, takes 1 0 8] (gives 0 1 8)).1 = 0 ∧
    (regxStatus (loadTeam 2 1) s.gangs [gives 0 1 8] (gives 0 1 8)).1 = 1 ∧
    (regxStatus (loadTeam 2 1) s.gangs [gives 0 1 24, takes 1 0 24] (gives 0 1 24)).1 = 2 ∧
    (regxStatus (loadTeam 2 1) s.gangs [gives 0 1 4, takes 1 0 4] (gives 0 1 4)).1 = 3 ∧
    (regxStatus (loadTeam 2 1) [giver 0, { giver 1 with quad := 1 }] [gives 0 1 8, takes 1 0 8] (gives 0 1 8)).1 = 4 := by decide +kernel

/-- The place of handle 1 is neither sealed nor moving. -/
theorem meets_HandlesAndClaims_store : let at_ := tablePlace loadContext 1
    base.gridOf gang = some (loadGrid 1) ∧ base.isSealed .device at_ = false ∧ base.isMoving .device at_ = false := by decide +kernel

/-- A VD with its quota full and one with room; a child in the list and one that is not; a record's place that can be reached. -/
theorem meets_LaunchAndDeferResults_parts :
    base.vd? 1 = some VD.reset ∧ VD.reset.children.length < 4096 ∧ (2 : Nat) ^ 28 ≤ 2 ^ 28 + 1 ∧
    (let s := { base with vds := modifyAt base.vds 1 fun d => { d with children := [⟨5, 3, 0, 2⟩] } }
     s.vd? 1 = some { VD.reset with children := [⟨5, 3, 0, 2⟩] }) ∧
    (let p : Pool := ⟨0, 7, 1, 0x3000, 64, 1, 0, 0, [], []⟩
     launching.pool? p.vd p.id = some p ∧ okay (launching.target loadContext.desc 5 true (p.rbuf + 64 * 0)) = true ∧
     p.freePlaces 32 = List.range 32 ∧
     ∀ i ∈ p.freePlaces 32, okay (launching.translate loadContext.desc (p.rbuf + 64 * i)) = true) := by decide +kernel

/-- The last port of a cycle. -/
theorem meets_StepRunsTheDecodedInstruction_last : base.ports = [port] ∧ base.gang? port.gid = some gang ∧ gang.life = .ready :=
  ⟨rfl, base_clear.gang, rfl⟩

/-- A full-width write of one value in all lanes. -/
theorem meets_PerformanceAndBudget_free : ∀ w ∈ [w8], w.exact = none ∧ w.mask = 0xFFFFFFFF#32 ∧ (press w.vals).isG = false := by
  decide +kernel

/-- The completion area of a grid at 0x3000. -/
theorem meets_WaitsEnd_bit : let x := { loadGrid 1 with carea := 0x3000 }
    base.context? x.ctx = some loadContext ∧ x.carea ≠ 0 ∧ x.own = none ∧ Memory.wf base.mem = true ∧
      okay (bitAt base loadContext x 0) = true := by
  decide +kernel

/-- A change of point that waits, of an array in an open burst and of one between two items. -/
theorem meets_RatesAndPoints_array :
    let s := { base with uc := 1, points := [⟨.array 0, 0, some 1, none⟩], quads := modifyAt base.quads 0 fun q => { q with burst := 4 } }
    0 < (s.quad 0).burst ∧ s.rate.freeUntil < s.uc.toNat ∧ (s.unitPt (.array 0)).pending = some 1 ∧
      ({ base with points := [⟨.array 0, 0, some 1, none⟩] } : State).midItem (.array 0) = false ∧
      ({ base with points := [⟨.array 0, 0, some 1, none⟩] } : State).inBurst (.array 0) = false := by decide +kernel

/-- Common memory that lists nothing out of its range; the first byte of bank 0 stays when 32 banks become 16. -/
theorem meets_RegistersAreWritten_moved :
    (∀ x ∈ base.mem, keyOf .common 0 ≤ x.1 → x.1 < keyOf .far 0 → x.1 < keyOf .common (2 ^ 55)) ∧ movedCpa 32 16 0 = some 0 := by
  decide +kernel

/-- A queue in STOP with a TAIL beyond its ring; a queue that is not listed; RATE with a reserved bit; a WAIT in ERROR. -/
theorem meets_QueuePackets_states :
    (let x := { qbusy with state := 0 }
     (queued copyBits x).queue? 0 = some x ∧ x.packets ≠ [] ∧ x.wait = none ∧ x.state ≠ 1 ∧
       2 ^ x.log2n < ((100#32).toNat + 2 ^ 32 - x.head) % 2 ^ 32) ∧
    base.queue? 5 = none ∧ base.queue? 1024 = none ∧ guested.queueAt 0 = some qbusy ∧ qbusy.vd = 0 ∧
    startsWith (rateBits + 2 ^ 96) 6 = true ∧ pk (BitVec.ofNat 512 (rateBits + 2 ^ 96)) 8 32 24 ≠ 0 ∧
    pk (BitVec.ofNat 512 rateBits) 8 32 24 = 0 ∧
    (let x := { qq with state := 2, wait := some ⟨0, BitVec.ofNat 512 waitBits⟩ }
     (queued waitBits x).queue? 0 = some x ∧ (queued waitBits x).queueDesc x = some loadContext.desc) := by decide +kernel

/-- A collective of the same team before a copy, one of another team, one that has ended. -/
def behind (team : Nat) (ended : Bool) : State :=
  { withC (copyAt false false) with cmds := [{ collCmd 0 with id := 4, team := team, ended := ended, place := .engine (.bank 0) },
      { copyAt false false with place := .engine (.bank 0) }] }
theorem meets_EngineSteps_next :
    ((withC (copyAt true false)).engineNext (.stager 0) = some (copyAt true false)) ∧
    (∀ b ∈ [false, true], ∀ e ∈ [false, true], (copyAt b e).op ≠ .coll) ∧
    (∀ tm ∈ [2, 9], ∀ e ∈ [false, true], ∃ c ∈ (behind tm e).cmds, ∃ k ∈ (behind tm e).cmds,
      (behind tm e).engineQueue (.bank 0) = [c, k] ∧ c.op = .coll ∧ k.op ≠ .coll ∧ c.id < k.id ∧ c.ended = e ∧ (c.team = k.team ↔ tm = 2)) ∧
    (behind 2 false).engineNext (.bank 0) = none ∧ freshJ.n = 2 := by
  decide +kernel

/-- An element operation on integers; an instance that is not of the fleet, its commands not held. -/
theorem meets_BankAndCollectiveSteps_parts :
    (let o : BankOp := ⟨9, 0, 5, keyOf .common 0, .u32, 0, false, 0, 1, false, 0, 0, 1⟩
     (o.ty = .i32 ∨ o.ty = .u32) ∧ o.value < 2 ^ 32 ∧ o.exact = false) ∧
    (inst false).scope ≠ 4 ∧ (inst false).done = false ∧ (collCmd 0).walking = false ∧
    (∀ v ∈ [1, 0xFFFFFFFF], v < 2 ^ 32) ∧ base.reqs = [] := by decide +kernel

/-- A TBURST that waits, a TSTAT at the head of its queue, accumulators of a lane that has ended. -/
theorem meets_MatrixSteps_parts :
    (let k := mat .tburst false false (xc 0 0 0 0 0)
     nextStart ((withC k).matQueue 0) .array = some k ∧ mayStart ((withC k).matQueue 0) k = true ∧ k.op = .tburst) ∧
    (let k := mat .tsave true true (xc 0 0 1 0 0)
     ((withC k).matQueue 0).find? (fun c => c.op.lane == some .move && c.ended) = some k ∧ k.status = 0 ∧ k.ended = true) ∧
    (mat .tmma true false (xc 0 0 0 0 1)).step ≤ 3 := by decide +kernel

/-- A gang of the team that may take PREEMPT while it has a command; its commands are none of a collective. -/
theorem meets_PreemptionSteps_stop :
    (let s := { saved (loadTeam 2 1) called2 with cmds := [copyAt true false] }
     s.team? 2 = some (loadTeam 2 1) ∧ called2 ∈ s.gangs ∧ called2.team = 2 ∧ called2.takesPreempt = true ∧ (copyAt true false).gid = 3 ∧
       (copyAt true false).ended = false ∧ (copyAt true false).op ≠ .coll) ∧
    (∀ k ∈ (saved (loadTeam 2 1) putAway).cmds, k.team = 2 → k.kept = false) := by decide +kernel

/-- Peer 7 is enabled and all is calm; words in device and in common memory, beyond both, misaligned, of a type without the
operation; a sealed granule. -/
def calm : State := { base with peersOn := [7] }
theorem meets_FabricAndTimeSteps_peers : 7 ∈ calm.peersOn ∧ PlaceExists calm 64 8 ∧ PlaceExists calm (BitVec.ofNat 56 (2 ^ 55)) 8 ∧
    ¬ PlaceExists calm (BitVec.ofNat 56 (2 ^ 55 - 1)) 8 ∧ ¬ PlaceExists calm (BitVec.ofNat 56 (2 ^ 56 - 8)) 8 ∧
    (64#56).toNat % accWidth .u64 = 0 ∧ (63#56).toNat % accWidth .u32 ≠ 0 ∧ atomicKind .u64 7 ∧ atomicKind .f32 2 ∧ ¬ atomicKind .f32 3 ∧
    ¬ atomicKind .res28 1 ∧ (64#56).toNat / 65536 ∈ ({ calm with sealed := [0] } : State).sealed := by
  simp only [PlaceExists, atomicKind]
  decide +kernel
/-- Ports of four, two and one lanes in change, one that is not in change; an only port of one lane. -/
theorem meets_FabricAndTimeSteps_ports :
    (∀ n ∈ [1, 2, 4], let s := { State.reset with fabric := [⟨n, true, false⟩] }
     s.fabric[0]? = some ⟨n, true, false⟩ ∧ ∀ id, Config.portPeer 0 = some id → ∀ o y, o ≠ 0 → s.fabric[o]? = some y →
       Config.portPeer o = some id → y.lanes = 0 ∨ y.ethernet = true) ∧
    (∀ x, State.reset.fabric[0]? = some x → x.changing = false) ∧
    (∀ x, ({ State.reset with fabric := [⟨0, false, false⟩] } : State).fabric[0]? = some x → x.lanes = 0 ∨ x.changing = true) := by
  refine ⟨fun n _ => ⟨rfl, fun id _ o y ho hy => ?_⟩, ?_, ?_⟩
  · cases o with
    | zero => exact absurd rfl ho
    | succ o => simp at hy
  · intro x hx
    have h : State.reset.fabric[0]? = some FabricPort.reset := by decide +kernel
    rw [h] at hx; cases hx; rfl
  · rintro x hx; cases hx; exact .inl rfl
/-- Leaves of the second tier, of common memory and of device memory; a gang whose walk waits. -/
theorem meets_FabricAndTimeSteps_mappings :
    (0x103#64).extractLsb' 8 3 = 1#3 ∧ (0x203#64).extractLsb' 8 3 = 2#3 ∧ (0x3#64).extractLsb' 8 3 ≠ 1#3 ∧ (0x3#64).extractLsb' 8 3 ≠ 2#3 ∧
    (0x203#64).getLsbD 0 = true ∧ (0x203#64).getLsbD 1 = true ∧ (0x3#64).getLsbD 0 = true ∧ (0x3#64).getLsbD 1 = true ∧
    (0x2#64).getLsbD 0 = false ∧ (0x1#64).getLsbD 1 = false ∧
    (∃ g ∈ (withG { gang with life := .parked .walk }).gangs, g.life = .parked .walk) := by decide +kernel

/-- A patch whose entries name different routines; a memory that is in its canonical form before a reset; Worrid runs. -/
theorem meets_FirmwareSteps_parts :
    ([(1, 7), (2, 9)] : List (Nat × Nat)).Pairwise (fun a b => a.1 ≠ b.1) ∧ Memory.wf base.mem = true ∧
    ({ Worrid.reset with bootStat := 2 } : Worrid).bootStat = 2#2 := by decide +kernel

/-! ### Steps that wait for their requests -/

/-- A state in which a step waits at a stage, its requests served. -/
def held (i : Instr) (stage : Nat) (s : State) : State := { s with waits := [⟨i, stage, [], false⟩] }
/-- The step then goes on in the state without the wait. -/
theorem served_held (i : Instr) (stage : Nat) {s : State} (h : s.waits = []) : Served i stage (held i stage s) s := by
  refine ⟨⟨i, stage, [], false⟩, by simp [State.waitOf, held], by simp [State.waitRuns, held], ?_⟩
  simp only [held, List.erase_cons_head, ← h]
theorem servedAt_held (i : Instr) (stage : Nat) {s : State} (h : s.waits = []) : ServedAt i stage (held i stage s) s :=
  ⟨served_held i stage h, fun n hn => by simp [State.waitOf, held]; omega⟩
/-- Of such a step no other stage is open, and nothing came back bad. -/
theorem held_waits (i : Instr) (stage n : Nat) (s : State) (h : n ≠ stage) : (held i stage s).waitOf i n = none := by
  simp [State.waitOf, held]; omega
theorem held_good (i : Instr) (stage : Nat) (s : State) : (held i stage s).awaitsBad i stage = false := by
  simp [State.awaitsBad, State.waitOf, held]
/-- One whose request came back bad. -/
theorem held_bad (i : Instr) : ({ base with waits := [⟨i, 0, [], true⟩] } : State).awaitsBad i 0 = true := by
  simp [State.awaitsBad, State.waitOf]
/-- In a state in which nothing waits, no step does. -/
theorem unheld_of {s : State} (h : s.waits = []) (i : Instr) : Unheld s i := by simp [Unheld, h]

/-! ### Floats, decode traps and memory traps -/

/-- In half precision: finite numbers, infinities, NaNs; sums that are 0, that round to nothing, that round, and that pass the largest
number; exact values that are tiny. -/
theorem meets_FloatValues :
    let f := fmtOf .f16
    f.finite 0x3C00 ∧ f.finite 0xBC01 ∧ f.finite 0x7BFF ∧ f.finite 0x8000 ∧ f.infinite 0x7C00 ∧ f.infinite 0xFC00 ∧ f.isNan 0x7E00 ∧
    f.signalling 0x7D00 ∧ f.sign 0x7C00 ≠ f.sign 0xFC00 ∧ f.mag 0x8000 = 0 ∧ f.mag 0x3C00 ≠ 0 ∧
    f.num 0x3C00 + f.num 0xBC00 = 0 ∧ f.num 0x3C00 + f.num 0xBC01 ≠ 0 ∧ f.num 0x8000 * f.num 0x3C00 = 0 ∧
    (∀ rnd < 5, f.over rnd 0 (f.num 0x7BFF + f.num 0x7BFF) ∧ ¬ f.over rnd 0 (f.num 0x3C00)) ∧
    (∀ rnd < 5, f.tiny rnd f.one (f.num 1 * f.num 0x3C01) ∧ ¬ f.tiny rnd f.one (f.num 0x3C00 * f.num 0x3C01)) ∧
    f.num 0x3C00 * 2 ^ f.one = f.num 0x3C00 * f.num 0x3C00 ∧ f.num 0x3C02 * 2 ^ f.one ≠ f.num 0x3C01 * f.num 0x3C01 := by
  refine ⟨?_, ?_, ?_, ?_, ?_, ?_, ?_, ?_, ?_, ?_, ?_, ?_, ?_, ?_, ?_, ?_, ?_, ?_⟩
  all_goals simp only [fmtOf, Fmt.finite, Fmt.infinite, Fmt.isNan, Fmt.signalling, Fmt.has, Fmt.sign, Fmt.mag, Fmt.num, Fmt.one]
  any_goals decide +kernel
  all_goals
    intro rnd hr
    have h : rnd = 0 ∨ rnd = 1 ∨ rnd = 2 ∨ rnd = 3 ∨ rnd = 4 := by omega
    rcases h with rfl | rfl | rfl | rfl | rfl <;> simp only [Fmt.over, Fmt.tiny] <;> decide +kernel
/-- The types of conversions; an integer that is 0 and one that is not. -/
theorem meets_FloatValues_types : tyIsFloat .e4m3 = true ∧ tyIsFloat .f8z = true ∧ tyIsFloat .i32 = false ∧
    Ty.u64 ∈ [Ty.i8, .u8, .i16, .u16, .i32, .u32, .i64, .u64] ∧ readInt (tyWidth .i32) (tySigned .i32) 0 = 0 ∧
    readInt (tyWidth .i32) (tySigned .i32) 5 ≠ 0 := by decide +kernel

/-- A gang of eight registers. -/
def few : Gang := { gang with regs := gang.regs.take 8 }
/-- An instruction of registers beyond them, one whose operands all do, one with two bad fields, and DEFER of two words and of none. -/
theorem meets_DecodeTraps_fields :
    (let i := Instr.iadd (x3 (.v 9) (.v 8) (.v 1))
     (missingFeature i base.variant.feat).isNone = true ∧ ((usesOf i).fields.all fun f => !f.bad (usesOf i).ownImm few) = true ∧
       8 ∈ checkedRegs i ∧ few.r ≤ 8 ∧ ∀ m ∈ checkedRegs i, few.r ≤ m → 8 ≤ m) ∧
    (∀ m ∈ checkedRegs (.iadd (x3 (.v 7) (.v 0) (.v 1))), m < few.r) ∧
    (let i := Instr.iadd (x3 (.v 8) (.latch 0) (.latch 1))
     ∃ f ∈ (usesOf i).fields, f.bad (usesOf i).ownImm gang = true ∧
       ∀ h ∈ (usesOf i).fields, h.bad (usesOf i).ownImm gang = true → f.field ≤ h.field) ∧
    (missingFeature (.tmma (xc 0 0 0 0 1)) 0).isSome = true ∧ xd.a = .v 4 ∧ xd.b = .const 2 := by
  decide +kernel

/-- A device without stacks: every address is beyond its capacity. -/
def bare : State := { base with hbm := [] }
def sealed0 : State := { base with sealed := [0] }
/-- ALIGN beside a lane whose walk fails; PROT of an ATOM; CAPX; SEALED of a store and an atomic. -/
theorem meets_MemoryAccessTraps_virtual :
    (virtuals (-3)).all (fun m => let c := ctx m.i base port gang
      performs m.i base port gang && (m.used c false).any fun y => fatalAt loadContext c y.addr && y.addr % m.w != 0) = true ∧
    (virtuals 0).all (fun m => let c := ctx m.i locked port gang
      performs m.i locked port gang && (m.used c false).all fun y => mapped loadContext c y.addr && lacks m loadContext c y.addr) = true ∧
    (virtuals 0).all (fun m => let c := ctx m.i bare port gang
      performs m.i bare port gang && (m.used c false).all fun y => mapped loadContext c y.addr && !lacks m loadContext c y.addr &&
        !Claims.farLost loadContext c y.addr && beyondCap loadContext c y.addr) = true ∧
    ((virtuals 0).drop 1).all (fun m => let c := ctx m.i sealed0 port gang
      performs m.i sealed0 port gang && m.kind != .load && (m.used c false).all fun y => mapped loadContext c y.addr &&
        !lacks m loadContext c y.addr && !Claims.farLost loadContext c y.addr && !beyondCap loadContext c y.addr && sealedAt loadContext c y.addr) = true ∧
    Clear bare port gang ∧ Clear sealed0 port gang :=
  ⟨by decide +kernel, by decide +kernel, by decide +kernel, by decide +kernel, clear_of rfl rfl, clear_of rfl rfl⟩

/-- The instruction that no lane performs, and the one that names a pending register, have no trap at decode. -/
theorem meets_PerformanceAndBudget_early : earlyTrap (.iadd never) (ctx (.iadd never) base port gang) = none ∧
    earlyTrap (.iadd (x3 (.v 8) (.v 12) .zero)) (ctx (.iadd (x3 (.v 8) (.v 12) .zero)) (withG waiting) port waiting) = none := by
  decide +kernel

/-! ### Steps of the device, further -/

/-- The last gang of the team of a grid with a completion area, draining. -/
def lastOne : State := { withG { gang with life := .draining } with grids := [{ loadGrid 1 with carea := 0x3000 }] }
theorem meets_WaitsEnd_last : let g := { gang with life := .draining }
    let x := { loadGrid 1 with carea := 0x3000 }
    lastOne.gang? 3 = some g ∧ lastOne.quiet 3 = true ∧ (∀ h ∈ lastOne.gangs, h.gid ≠ 3 → h.team ≠ g.team) ∧
    lastOne.team? g.team = some (loadTeam 2 1) ∧ (loadTeam 2 1).grid = x.id ∧ x.bits = [] ∧ x.own = none ∧
    lastOne.context? x.ctx = some loadContext ∧ okay (bitAt lastOne loadContext x (loadTeam 2 1).index) = true := by decide +kernel
/-- A device whose error log has room. -/
theorem meets_ResultsComeBack_log : ({ base with devLog := { base.devLog with elen := 16 } } : State).devLog.elen ≠ 0#32 ∧
    base.devLog.elen = 0#32 := by decide +kernel

/-- A second gang of the team in the next slot, that comes after the first. -/
def second : Gang := { gang with gid := 4, slot := 1 }
def twoGangs : State := { cachedS with gangs := [gang, second] }
/-- Two gangs of which the first precedes; the first issues; where its instruction is not in the cache it does not. -/
theorem meets_SchedulerIssues_two :
    (twoGangs.gangs.map (·.gid)).Nodup ∧ Precedes twoGangs gang second ∧ twoGangs.joining = [] ∧
    (twoGangs.tryGang 0 (twoGangs.cycleOf 0 + 1) gang).2 ≠ [] ∧
    (let s := { twoGangs with quads := modifyAt twoGangs.quads 0 fun q => { q with icache := [] } }
     (s.tryGang 0 (s.cycleOf 0 + 1) gang).2 = []) := by
  refine ⟨by decide +kernel, .inr ⟨by decide +kernel, .inr ⟨by decide +kernel, by decide +kernel⟩⟩, rfl, by decide +kernel, by decide +kernel⟩
/-- A VD whose DL grid runs in its quadrant. -/
theorem meets_QuadrantsAreShared_dl : ({ base with grids := [{ loadGrid 1 with cls := .dl }] } : State).dlWorkIn 0 0 = true ∧
    waitingGrid.teams = [] ∧ waitingGrid.gangs = [] := by decide +kernel

/-- Nothing waits in the states in which the packets stand. -/
theorem queued_waits (p : Nat) (x : Queue) : (queued p x).waits = [] := rfl
/-- What the packets read, and what they store. -/
theorem meets_GridsAndPoolsAreCreated_requests :
    ((queued launchBits.toNat).packetReads 0).isEmpty = false ∧ ((queued launchBits.toNat).startable 0 1).isSome = true ∧
    packetStep 0 1 = some (.launchPacket 0) ∧ packetStep 0 2 = some (.poolPacket 0) ∧
    ((queued launchBits.toNat).launchReads qq (launchOf launchBits)).isEmpty = false ∧
    ((queued poolBits).launchReads qq (poolLaunch (BitVec.ofNat 512 poolBits))).isEmpty = false ∧
    startsWith (1 + 2 ^ 16 + 0x6000 * 2 ^ 320) 1 = true ∧ launchReserved (BitVec.ofNat 512 (1 + 2 ^ 16 + 0x6000 * 2 ^ 320)) = true ∧
    (launchOf (BitVec.ofNat 512 (1 + 2 ^ 16 + 0x6000 * 2 ^ 320))).carea = 0x6000 ∧
    (((queued 1).vstoreReqs (dispatcherFor 0) true loadContext.desc 5 0x6000 8 (completionRecord 12 0)).toOption.any fun rs => !rs.isEmpty) = true ∧
    pk (BitVec.ofNat 512 copyBits) 0x18 0 64 ≤ 16384 := by decide +kernel
theorem meets_QueuePackets_requests :
    (guested.guestReads 0 0).isEmpty = false ∧ guested.waits = [] ∧
    (let x := { qq with wait := some ⟨0, BitVec.ofNat 512 waitBits⟩ }
     ((queued waitBits x).waitReads x ⟨0, BitVec.ofNat 512 waitBits⟩).isEmpty = false) ∧
    (((queued markBits).vstoreReqs (dispatcherFor 0) true loadContext.desc 5 0x6000 16 0).toOption.any fun rs => !rs.isEmpty) = true ∧
    ((queued signalBits).target loadContext.desc 5 true 0x6000).toOption = ((queued signalBits).target loadContext.desc 5 false 0x6000).toOption ∧
    ((queued rateBits).context? 0) = some loadContext ∧ (queued waitBits).queueDesc qq = some loadContext.desc := by decide +kernel
/-- A store of a unit that stays in its page. -/
theorem meets_QueuePackets_stores : Memory.wf base.mem = true ∧
    okay (base.vstore (dispatcherFor 0) false loadContext.desc 5 0x6000 64 1) = true ∧ okay (base.target loadContext.desc 5 true 0x6000) = true ∧
    0x6000 < 2 ^ 64 ∧ 0x6000 % 65536 + 64 ≤ 65536 := by decide +kernel

/-- A copy whose requests are under way, have been served, or have not left; an operation of the banks. -/
def booked (k : Cmd) : Cmd := { k with booked := true }
def banking : Cmd := cmd .bankop (.engine (.bank 0)) true false (xc 0 0 1 1 0)
theorem meets_EngineSteps_requests :
    (let s := { withC (booked (copyAt true false)) with reqs := [req .account .device []] }
     s.pendingFor (booked (copyAt true false)) = true) ∧
    (∀ k ∈ [copyAt true false, booked (copyAt true false), saving, banking], (withC k).pendingFor k = false) ∧
    (let k := copyAt true false
     ((withC k).envOf k k.op.path false .none).any fun env => !((withC k).chunkReqs k (runChunk (withC k) env (k.items (withC k) env k.chunk.1))).isEmpty) = true ∧
    (copyAt true false).op ≠ .coll ∧ banking.op.path = 4 ∧ (withC banking).bankOps = [] ∧ (withC banking).engineNext (.bank 0) = some banking ∧
    (((withC banking).envOf banking 4 true .none).any fun env => (runChunk (withC banking) env (banking.bankItems banking.chunk.1)).hold.isNone) = true ∧
    ((withC (copyAt false false)).engineNext (.stager 0)).any (fun k => !k.started) = true := by decide +kernel
/-- The participants of an instance whose requests have been served, and one whose are under way. -/
theorem meets_BankAndCollectiveSteps_requests :
    (let k := booked (collCmd 0)
     let s := { withC k with colls := [inst false] }
     collCmds s 1 = [k] ∧ s.pendingFor k = false ∧ k.booked = true ∧ ({ s with reqs := [req .account .device []] } : State).pendingFor k = true) ∧
    (∀ k ∈ collCmds (collS 0 false) 1, k.walking = false) := by decide +kernel

/-- A context that is created anew; a team under pre-emption that a restore has started; a torn-down context's ports. -/
theorem meets_ContextsAndRequests_requests :
    (State.reset.readReqs (dispatcherFor noCtx) .device 3 0x9000 128).isEmpty = false ∧ State.reset.waits = [] ∧
    (let tm := loadTeam 2 1
     let s := saved tm { gang with fromRestore := true }
     saver.saveTop + s.resOf tm (s.kernelOfTeam tm) ≤ saver.desc.saveLen ∧ (∃ g ∈ s.gangs, g.team = tm.id ∧ g.fromRestore = true ∧ g.life ≠ .draining)) ∧
    (let tm := loadTeam 2 1
     let s := saved tm gang
     saver.saveTop + s.resOf tm (s.kernelOfTeam tm) ≤ saver.desc.saveLen ∧ ∀ g ∈ s.gangs, g.team = tm.id → g.fromRestore = false) ∧
    (∃ p ∈ base.ports, ∃ g ∈ base.gangs, base.gang? p.gid = some g ∧ base.gangIn 7 g = false) ∧ base.gangIn 0 gang = true := by decide +kernel
/-- A gang in a handler and one outside, in a park of a sleep. -/
theorem meets_ContextsAndRequests_parks : ¬ inRegx gang ∧ ¬ inRegx { gang with life := .parked (.sleep 9) } ∧ handling.hnd = true :=
  ⟨by simp [inRegx, show gang.life = .ready from rfl], by simp [inRegx], rfl⟩
theorem meets_PreemptionSteps_requests :
    (let s := saved (loadTeam 2 1) called2
     s.midIssue 3 = false ∧ (∀ k ∈ s.cmds, k.gid ≠ 3) ∧ Memory.wf s.mem = true ∧ saver.ended = false) ∧
    (let s := { saved (loadTeam 2 1) called2 with contexts := [{ saver with desc := { saver.desc with svec := 0 } }] }
     s.contextOf called2 = some { saver with desc := { saver.desc with svec := 0 } }) ∧
    (∀ k ∈ (saved (loadTeam 2 1) putAway).cmds, k.kept = false) ∧
    (∀ r ∈ ({ saved (loadTeam 2 1) inStow with reqs := [req .account .device []] } : State).reqs, r.gid = 3 → r.kind = .account) ∧
    (saved away putAway).waits = [] ∧
    ((saved away putAway).vreadReqs { dispatcherFor 0 with team := 2 } saver.desc 0 (saver.desc.save.toNat + away.area) 512).isEmpty = false ∧
    (∀ d ∈ (saved away putAway).contexts, d.id = 0 → d.desc = descriptorOf ((saved away putAway).devLoad (keyOf .device saver.where_) 128)) := by
  decide +kernel

/-- A channel with no refresh due and one with; a read of a context's page, in an instruction's order. -/
theorem meets_ControllersServe_refresh : NoRefresh base 0 ∧ (∃ s : State, .rowRefresh 0 5 ∈ s.agenda) ∧ base.rows = [] ∧
    (let r := { req .load .device [⟨0, 4, 0, 0⟩] with own := 0 }
     r.forNoOne = false ∧ 0 < r.width ∧ ({ base with reqs := [r] } : State).nextReq 0 = some r) ∧
    ({ base with devLog := { base.devLog with elen := 16 } } : State).devLog.elen ≠ 0#32 :=
  ⟨by intro w; have : base.agenda = [] := by decide +kernel
      simp [this], ⟨{ base with agenda := [.rowRefresh 0 5] }, by simp⟩, rfl, by decide +kernel, by decide +kernel⟩
/-- A store to the granule that is to move. -/
theorem meets_MendingAndRepairs_store :
    (let r := req .store .device [⟨0, 4 * 65536 + 8, 1, 0⟩]
     r.served = false ∧ r.space = .device ∧ ∃ a ∈ r.accs, a.key / 65536 = (mending false 4).mend.next) ∧ (mending true 4).waits = [] ∧
    (mending true 4).granuleCopies.isEmpty = false := by decide +kernel
/-- The host's accesses wait for nothing, and are not held. -/
theorem meets_HostLinkSteps_requests : (windowed 0).waits = [] ∧ (windowed 0).hostHeld = false ∧
    (let r := { req .store .device [⟨0, 8, 1, 0⟩] with who := hostNo }
     ({ windowed 0 with mend := ⟨1, true, false, 0, true, 5⟩, reqs := [r] } : State).hostHeld = true) ∧
    ((windowed 0).readReqs hostSource .device 3 64 4).isEmpty = false ∧
    (let s := { withG (owed .variable 0 .ready) with reqs := [farLoad], uc := 17000 }
     Late s farLoad ∧ farLoad.kind = .load) ∧ ∀ r ∈ base.reqs, ¬ Late base r := by
  refine ⟨rfl, by decide +kernel, by decide +kernel, by decide +kernel, ⟨⟨rfl, rfl, by decide +kernel⟩, rfl⟩, ?_⟩
  intro r hr; cases hr
/-- Operations that combine, and ones that do not; a word in device memory and a place that is not there. -/
theorem meets_FabricAndTimeSteps_combine : combineKind .u32 6 ∧ combineKind .bf16x2 2 ∧ combineKind .res28 0 ∧ ¬ combineKind .f32 3 ∧
    ¬ combineKind .i64 0 ∧ calm.waits = [] ∧ calm.repairs = [] ∧ Memory.wf calm.mem = true ∧ calm.sealed = [] ∧
    (calm.readReqs peerSource (peerSpace 64) 3 ((64#56).toNat % 2 ^ 55) 8).isEmpty = false := by
  simp only [combineKind]
  decide +kernel
/-- A port that goes to Ethernet mode and is the last to its peer. -/
theorem meets_FabricAndTimeSteps_last : State.reset.variant.portFitted 0 = true ∧
    (let s := { State.reset with fabric := State.reset.fabric.map fun _ => ⟨0, false, false⟩ }
     s.fabric[0]? = some ⟨0, false, false⟩ ∧ ∀ y ∈ s.fabric, y.lanes = 0 ∨ y.ethernet = true) := by decide +kernel
/-- A channel that is enabled and stands, one that runs: no walk of a LOSS. -/
theorem meets_IngressSteps_poll : ∀ st ∈ [0#2, 1#2, 2#2], let s := framed (chan true st 0 []) 0
    s.ingress[0]? = some (chan true st 0 []) ∧ (s.blockReads 0).isEmpty = false ∧ s.waits = [] := by decide +kernel
/-- A patch staged a while ago; functions that it lists. -/
theorem meets_FirmwareSteps_staged : (9999#64).toNat < 0 + 10000 ∧ ¬ (10000#64).toNat < 0 + 10000 ∧
    (∀ n ∈ ([] : List Nat), Config.functionActive 0 n = false) := ⟨by decide, by decide, by simp⟩
/-- A tagged instruction with its result to come. -/
theorem meets_SamplingAndDebugSteps_result :
    let r := { res .variable 9 with exactDue := true }
    let s := withG { gang with results := [r] }
    s.gang? 3 = some { gang with results := [r] } ∧ r.seq = 0 ∧ r.pc = gang.setPc port.lanes ∧ r.due - 1 = 8 := by decide +kernel

end Sys2Proof.Tests
end

section
/-!
PROOFS. The base floor of the rates (R42): what RATEFLOOR reads, what a write to it stores, and that the law of the adjusters and the
choice of a VD's rate respect it.
-/
namespace Sys2Proof.Machine
open Sys2Proof Claims

/-! ### The law of the adjusters (R47) -/

/-- The cap of the law at the largest word does not cut below the floor, which is a word itself. -/
theorem floor_le_rateLaw (ρ floor : Word) (num den : Nat) : floor.toNat ≤ (rateLaw ρ floor num den).toNat := by
  have word : floor.toNat ≤ 2 ^ 32 - 1 := Nat.le_sub_one_of_lt floor.isLt
  simp only [rateLaw]
  rw [BitVec.toNat_ofNat, Nat.mod_eq_of_lt (Nat.lt_of_le_sub_one (by decide) (Nat.min_le_right _ _))]
  exact Nat.le_min.2 ⟨Nat.le_max_right _ _, word⟩

@[simp] theorem RateBlock.step_floor (r : RateBlock) (p m : Nat) : (r.step p m).floor = r.floor := rfl
@[simp] theorem RateBlock.step_devRate (r : RateBlock) (p m : Nat) : (r.step p m).devRate = r.adjusted p := rfl

theorem RateBlock.floor_le_step_devRate (r : RateBlock) (p m : Nat) : r.floor.toNat ≤ (r.step p m).devRate.toNat :=
  floor_le_rateLaw r.devRate r.floor _ _

/-! ### The rate of a VD (R51) -/

/-- A VD's own rate stands in for the device rate only where it is higher. -/
theorem State.devRate_le_vdRate (s : State) (v : Nat) : s.rate.devRate.toNat ≤ (s.vdRate v).toNat := by
  unfold State.vdRate
  split
  · split
    · next own => exact Nat.le_of_lt own.2
    · exact Nat.le_refl _
  · exact Nat.le_refl _

/-! ### The steps -/

theorem exec_ratefloorWrite (v : Word) (s : State) : exec (.ratefloorWrite v) s =
    .next { s with rate := { s.rate with floor := if v.toNat < 0x100 then 0x100#32 else v } } := rfl

/-- RATEFLOOR stands at offset 0x004 of the register space. -/
theorem exec_registerWrite_ratefloor (v : Word) (s : State) : exec (.registerWrite 0x004 v) s = exec (.ratefloorWrite v) s := rfl

theorem State.registerRead_ratefloor (s : State) : s.registerRead 0x004 = s.rate.floor := BitVec.ofNat_toNat 32 s.rate.floor

/-- A step of the adjuster always answers; the rate block moves by its own step alone. -/
theorem exec_adjusterStep_rate (power : Nat) (s : State) :
    To (.adjusterStep power) s fun t => t.rate = s.rate.step (min power 0xFFFF) (s.uc + 1).toNat := ⟨_, rfl, rfl⟩

/-- Settles O44: the register's clauses are the equations of its read and its write; after a step of the adjuster the law holds the
device rate at the floor or above, and no VD's rate is below the device rate. -/
theorem rateFloorWrites : Obligations.RateFloorWrites := by
  refine ⟨rfl, State.registerRead_ratefloor, fun s v => exec_ratefloorWrite v s, fun s v => exec_registerWrite_ratefloor v s,
    fun s power => ?_⟩
  obtain ⟨t, answers, rate⟩ := exec_adjusterStep_rate power s
  refine ⟨t, answers, by rw [rate, RateBlock.step_floor], fun v => ?_⟩
  calc s.rate.floor.toNat
    _ ≤ t.rate.devRate.toNat := rate ▸ s.rate.floor_le_step_devRate _ _
    _ ≤ (t.vdRate v).toNat := t.devRate_le_vdRate v

end Sys2Proof.Machine
end

section
/-!
PROOFS. The two-source lane instructions (R171), the limits of an integer operand (R64, R173), and the integer division (R176).
-/
namespace Sys2Proof.Machine
open Sys2Proof Safety Claims

/-! ### Two-source lane instructions (R136, R171) -/

/-- Where every field that is read is U, so are the two sources of the lane form; its third is absent. -/
theorem allU_formOf {i : Instr} {x : Args} {wd wa wb : Bool} {lat : Nat} {c : Ictx} (uses : usesOf i = uses2 x wd wa wb)
    (uniform : allUniform i x.imm c = true) : allU (formOf x wd wa wb lat) (c.src x.imm) = true := by
  simp only [allUniform, uses, uses2, useD, useS, fieldUse, List.all_cons, List.all_nil, Bool.not_true, Bool.not_false,
    Bool.true_or, Bool.false_or, Bool.true_and, Bool.and_true] at uniform
  simp only [allU, formOf, Src.isU_zero, Bool.and_true]
  exact uniform

/-- A two-source instruction of the lane form writes what its operation gives on the values of its sources. -/
theorem laneOp_formOf_writes {i : Instr} {x : Args} {wd wa wb : Bool} {lat : Nat} {op : Nat → Nat → Nat → Res}
    (run : ∀ s, exec i s = laneOp i (formOf x wd wa wb lat) op s) (head : instrHead i = x.head)
    (uses : usesOf i = uses2 x wd wa wb) {f : Ictx → Nat → Res}
    (result : ∀ c l, f c l = op (val x.imm wa x.a c l) (val x.imm wb x.b c l) (val x.imm false .zero c l)) :
    WritesLanes i x.imm x.d wd lat f :=
  laneForm_writes (f := formOf x wd wa wb lat) (scalar := allU) run head result fun _ uniform => allU_formOf uses uniform

/-! ### The limits of an integer (R64, R173) -/

/-- What n bits hold lies within the limits of their type. -/
theorem readInt_mem_limits (n : Nat) (signed : Bool) (x : Nat) :
    lowest n signed ≤ readInt n signed x ∧ readInt n signed x ≤ highest n signed := by
  have bits : x % 2 ^ n < 2 ^ n := Nat.mod_lt _ (Nat.two_pow_pos n)
  cases signed with
  | false => simp only [readInt, lowest, highest, Bool.false_eq_true, if_false]; omega
  | true =>
    cases n with
    | zero => simp [readInt, signedOf, lowest, highest]
    | succ k =>
      have double : 2 ^ (k + 1) = 2 * 2 ^ k := Nat.pow_succ'
      simp only [readInt, signedOf, lowest, highest, if_true, Nat.add_sub_cancel, Nat.add_one_ne_zero, if_false]
      split <;> omega

/-- The bits of what n bits hold are those bits, whatever the signedness. -/
theorem wrapNat_readInt {n : Nat} (signed : Bool) (x : Nat) : wrapNat n (readInt n signed x) = x % 2 ^ n := by
  have whole : wrapNat n ((x % 2 ^ n : Nat) : Int) = x % 2 ^ n := by
    rw [wrapNat, ← Int.natCast_emod, Int.toNat_natCast, Nat.mod_mod]
  cases signed with
  | false => exact whole
  | true =>
    simp only [readInt, signedOf, if_true]
    split
    · next h => subst h; simp [wrapNat, Nat.mod_one]
    · split
      · exact whole
      · rw [wrapNat, Int.sub_emod_right]; exact whole

/-- Within the limits Sat changes nothing and sets no flag. -/
theorem narrow_of_mem_limits {n : Nat} {signed : Bool} (sat : Bool) {v : Int} (low : lowest n signed ≤ v)
    (high : v ≤ highest n signed) : narrow n signed sat v = Res.pure (wrapNat n v) := by
  have same : clampInt n signed v = v := by
    rw [clampInt, Int.max_eq_left low, Int.min_eq_left high]
  simp [narrow, same, flagIf, Res.pure]

/-! ### Integer division (R176) -/

/-- The quotient toward zero leaves the limits only at the lowest integer by −1. -/
theorem tdiv_mem_limits {n : Nat} {signed : Bool} {a b : Int} (dividend : lowest n signed ≤ a ∧ a ≤ highest n signed)
    (divisor : lowest n signed ≤ b) (nonzero : b ≠ 0) (inside : ¬ (signed = true ∧ a = lowest n signed ∧ b = -1)) :
    lowest n signed ≤ Int.tdiv a b ∧ Int.tdiv a b ≤ highest n signed := by
  obtain ⟨low, high⟩ := dividend
  cases signed with
  | false =>
    have low : 0 ≤ a := low
    have divisor : 0 ≤ b := divisor
    exact ⟨Int.tdiv_nonneg low divisor, Int.le_trans (Int.tdiv_le_self b low) high⟩
  | true =>
    have magnitude : (Int.tdiv a b).natAbs = a.natAbs / b.natAbs := Int.natAbs_tdiv a b
    have positive : 0 < 2 ^ (n - 1) := Nat.two_pow_pos _
    simp only [lowest, highest, if_true, true_and] at low high inside ⊢
    rcases (by omega : b = -1 ∨ b = 1 ∨ 2 ≤ b.natAbs) with rfl | rfl | large
    · rw [Int.tdiv_neg, Int.tdiv_one]; omega
    · rw [Int.tdiv_one]; exact ⟨low, high⟩
    · have half : a.natAbs / b.natAbs ≤ a.natAbs / 2 := Nat.div_le_div_left large (by decide)
      omega

/-- IDIV in a lane, by the three cases of R176. -/
theorem idivLane_eq (signed sat : Bool) (a b : Nat) : idivLane signed sat a b =
    if readInt 32 signed b = 0 then ⟨2 ^ 32 - 1, fNvl⟩
    else if signed = true ∧ readInt 32 signed a = -2 ^ 31 ∧ readInt 32 signed b = -1 then
      (if sat then ⟨2 ^ 31 - 1, fSat⟩ else ⟨2 ^ 31, fNone⟩)
    else Res.pure (wrapNat 32 (Int.tdiv (readInt 32 signed a) (readInt 32 signed b))) := by
  rw [idivLane]
  split
  · rfl
  · next nonzero =>
    split
    · next lowestByMinusOne =>
      obtain ⟨rfl, dividend, divisor⟩ := lowestByMinusOne
      rw [dividend, divisor]
      revert sat
      decide
    · next others =>
      have inside : ¬ (signed = true ∧ readInt 32 signed a = lowest 32 signed ∧ readInt 32 signed b = -1) := by
        rintro ⟨rfl, dividend, divisor⟩
        exact others ⟨rfl, dividend, divisor⟩
      obtain ⟨low, high⟩ := tdiv_mem_limits (readInt_mem_limits 32 signed a) (readInt_mem_limits 32 signed b).1 nonzero inside
      exact narrow_of_mem_limits sat low high

/-- IREM in a lane: by zero the bits of A, which are those of the integer it holds. -/
theorem iremLane_eq (signed : Bool) (a b : Nat) : iremLane signed a b =
    if readInt 32 signed b = 0 then ⟨wrapNat 32 (readInt 32 signed a), fNvl⟩
    else Res.pure (wrapNat 32 (Int.tmod (readInt 32 signed a) (readInt 32 signed b))) := by
  rw [iremLane, wrapNat_readInt]

theorem exec_idiv (x : Args) (s : State) :
    exec (.idiv x) s = laneOp (.idiv x) (formOf x false false false 36) (fun a b _ => idivLane (tySigned x.ty) x.sat a b) s := rfl

theorem exec_irem (x : Args) (s : State) :
    exec (.irem x) s = laneOp (.irem x) (formOf x false false false 36) (fun a b _ => iremLane (tySigned x.ty) a b) s := rfl

/-- Settles O2: both are two-source lane instructions of 36 cycles, whose operations are those of R176 in each lane. -/
theorem integerDivisionResults : Obligations.IntegerDivisionResults :=
  ⟨fun x => laneOp_formOf_writes (exec_idiv x) (Raw.head_ofArgs _ x) rfl fun _ _ => (idivLane_eq _ _ _ _).symm,
    fun x => laneOp_formOf_writes (exec_irem x) (Raw.head_ofArgs _ x) rfl fun _ _ => (iremLane_eq _ _ _).symm⟩

end Sys2Proof.Machine
end

section
/-!
PROOFS. An instruction whose meaning traps takes its trap (R170, R266, R267); the values of JOINT and where a joint is out of range
(R162, R257).
-/
namespace Sys2Proof.Machine
open Sys2Proof Safety Claims

/-! ### Entering a handler (R266, R267) -/

/-- SEC is bit 8 of `$cause`, beside CODE (R268). -/
theorem causeWord_eq (iset : Lanes) (secondary : Bool) (c : Cause) : causeWord iset secondary c =
    iset ++ (if secondary then BitVec.ofNat 32 (256 + c.code) else BitVec.ofNat 32 c.code) := by
  cases secondary
  · rfl
  · exact congrArg (fun code => iset ++ BitVec.ofNat 32 code) (Nat.add_comm c.code 256)

/-- `$epc` holds bits 55:2 of an address (R269). -/
theorem epc_and_eq (pc : DWord) : pc &&& 0x00FFFFFFFFFFFFFC#64 = 0#8 ++ pc.extractLsb' 2 54 ++ 0#2 := by
  have bits : ∀ i < 64, (0x00FFFFFFFFFFFFFC#64).getLsbD i = decide (2 ≤ i ∧ i < 56) := by decide
  apply BitVec.eq_of_getLsbD_eq
  intro i inside
  rw [BitVec.getLsbD_and, bits i inside]
  simp only [BitVec.getLsbD_append, BitVec.getLsbD_extractLsb', BitVec.getLsbD_zero]
  grind

/-- The model's gang at a vector is the one R267 describes. -/
theorem enterTrap_eq_trapped (g : Gang) (vector : DWord) (iset : Lanes) (secondary : Bool) (pc : DWord) (t : Trap) (sample : Nat) :
    g.enterTrap vector iset secondary pc t sample = trapped g vector iset secondary pc t sample := by
  rw [Gang.enterTrap, trapped, causeWord_eq, epc_and_eq]
  rfl

/-- The vector of a trap other than PREEMPT is TRAPV, or TVEC where TRAPV is 0. -/
theorem State.vectorOf_eq {s : State} {g : Gang} {x : Grid} {k : Context} (grid : s.gridOf g = some x)
    (context : s.contextOf g = some k) {c : Cause} (other : c ≠ .preempt) : s.vectorOf g c = vectorIn x k := by
  simp only [State.vectorOf, grid, context, if_neg other, vectorIn]
  split <;> simp_all

/-- The withdrawal of the other port's instruction leaves the port that traps alone. -/
theorem dropSecondary_eq_alone {s : State} {p : Port} (first : s.ports.head? = some p) : dropSecondary s = alone s p := by
  obtain ⟨rest, ports⟩ := List.head?_eq_some_iff.1 first
  simp only [dropSecondary, alone, ports, List.take_succ_cons, List.take_zero]

/-- The secondary port traps where it was withdrawn before; the primary port always does (R170). -/
theorem Ictx.withdraws_eq_false {c : Ictx} (again : c.port.secondary = true → c.g.withdrawn = some c.pc ∧ c.g.life = .ready) :
    c.withdraws = false := by
  cases second : c.port.secondary with
  | false => simp [Ictx.withdraws, second]
  | true => obtain ⟨before, ready⟩ := again second; simp [Ictx.withdraws, before, ready]

/-- An instruction whose meaning answers a trap takes it. -/
theorem enters_of_body {i : Instr} {imm : Word} {body : Ictx → Body} (run : ∀ s, exec i s = issue i (instrHead i) imm body s)
    {pre : Ictx → Prop} {t : Ictx → Trap} (traps : ∀ c, pre c → body c = .trap (t c)) : Enters i pre t := by
  intro s p g x k performs again grid context outside vector other holds
  have same : g.gid = p.gid := State.gid_of_gang? performs.gang
  have found : (alone s p).gang? g.gid = some g := by rw [same]; exact performs.gang
  have leads : (alone s p).vectorOf g (t (ctx i s p g)).cause = vectorIn x k :=
    State.vectorOf_eq (s := alone s p) grid context other
  have stays : (ctx i s p g).withdraws = false := Ictx.withdraws_eq_false again
  have taken := State.takeTrap_enters found outside (leads ▸ vector) p.lanes p.secondary (ctx i s p g).pc p.sample
  rw [leads, enterTrap_eq_trapped] at taken
  rw [run, issue_performs performs, traps _ holds, afterBody, trapHere, stays]
  rw [if_neg Bool.false_ne_true, show (ctx i s p g).s = s from rfl, dropSecondary_eq_alone performs.port]
  exact congrArg Host.Outcome.next taken

/-! ### The values of JOINT (R257) -/

theorem JointReason.code_lt (r : JointReason) : r.code < 2 ^ 8 := by cases r <;> decide

theorem toNat_jointTrap_tval (j : BitVec 5) (r : JointReason) (iset : Lanes) :
    (jointTrap j.toNat r iset).tval.toNat = j.toNat * 256 + r.code := by
  have joint := j.isLt
  have reason := r.code_lt
  exact (BitVec.toNat_ofNat _ 64).trans (Nat.mod_eq_of_lt (by omega))

theorem jointTrap_tval_zero (j : BitVec 5) (r : JointReason) (iset : Lanes) :
    (jointTrap j.toNat r iset).tval.extractLsb' 13 51 = 0#51 := by
  have joint := j.isLt
  have reason := r.code_lt
  apply BitVec.eq_of_toNat_eq
  rw [BitVec.extractLsb'_toNat, toNat_jointTrap_tval, Nat.shiftRight_eq_div_pow, BitVec.toNat_zero]
  omega

theorem jointTrap_tval_joint (j : BitVec 5) (r : JointReason) (iset : Lanes) :
    (jointTrap j.toNat r iset).tval.extractLsb' 8 5 = j := by
  have joint := j.isLt
  have reason := r.code_lt
  apply BitVec.eq_of_toNat_eq
  rw [BitVec.extractLsb'_toNat, toNat_jointTrap_tval, Nat.shiftRight_eq_div_pow]
  omega

theorem jointTrap_tval_reason (j : BitVec 5) (r : JointReason) (iset : Lanes) :
    (jointTrap j.toNat r iset).tval.extractLsb' 0 8 = BitVec.ofNat 8 r.code := by
  apply BitVec.eq_of_toNat_eq
  rw [BitVec.extractLsb'_toNat, toNat_jointTrap_tval, Nat.shiftRight_zero, BitVec.toNat_ofNat]
  omega

/-! ### A joint at or above JOINTS (R162, R257) -/

theorem withJoint_out_of_range {x : HandleArgs} {c : Ictx} {t : Team} (f : Team → Joint → Body) (team : c.s.team? c.g.team = some t)
    (beyond : t.joints.length ≤ x.jnt.toNat) : withJoint x c f = .trap (jointTrap x.jnt.toNat .range c.iset) := by
  simp only [withJoint, team, if_pos beyond]

/-- An instruction whose meaning looks up its joint first raises RANGE for one that the team does not have. -/
theorem withJoint_enters {i : Instr} {imm : Word} {x : HandleArgs} {body : Ictx → Body} (f : Ictx → Team → Joint → Body)
    (run : ∀ s, exec i s = issue i x.head imm body s) (head : instrHead i = x.head)
    (lookup : ∀ c, body c = withJoint x c (f c)) (t : Team) :
    Enters i (fun c => c.s.team? c.g.team = some t ∧ t.joints.length ≤ x.jnt.toNat) fun c =>
      jointTrap x.jnt.toNat .range c.iset :=
  enters_of_body (fun s => by rw [run, head]) fun c ⟨team, beyond⟩ =>
    (lookup c).trans (withJoint_out_of_range (f c) team beyond)

theorem exec_jinit (x : HandleArgs) (s : State) : exec (.jinit x) s = issue (.jinit x) x.head 0#32 (jinitBody x) s := rfl
theorem exec_jarrive (x : HandleArgs) (s : State) : exec (.jarrive x) s = issue (.jarrive x) x.head 0#32 (jarriveBody x) s := rfl
theorem exec_jwait (x : HandleArgs) (s : State) : exec (.jwait x) s = issue (.jwait x) x.head 0#32 (jwaitBody x) s := rfl
theorem exec_jtest (x : HandleArgs) (s : State) : exec (.jtest x) s = issue (.jtest x) x.head 0#32 (jtestBody x) s := rfl
theorem exec_regx (x : HandleArgs) (s : State) : exec (.regx x) s = issue (.regx x) x.head 0#32 (regxBody x) s := rfl

/-- Settles O21: the fields of `$tval` by arithmetic on joint · 256 + reason; each of the five meanings looks up its joint first. -/
theorem jointTrapValues : Obligations.JointTrapValues := by
  intro j iset
  refine ⟨fun r => ⟨rfl, rfl, jointTrap_tval_zero j r iset, jointTrap_tval_joint j r iset⟩,
    jointTrap_tval_reason j _ iset, jointTrap_tval_reason j _ iset, jointTrap_tval_reason j _ iset,
    jointTrap_tval_reason j _ iset, jointTrap_tval_reason j _ iset, jointTrap_tval_reason j _ iset, ?_⟩
  rintro x t k (rfl | rfl | rfl | rfl | rfl)
  · exact withJoint_enters _ (exec_jinit x) (Raw.head_ofHandle _ x) (fun _ => rfl) t
  · exact withJoint_enters _ (exec_jarrive x) (Raw.head_ofHandle _ x) (fun _ => rfl) t
  · exact withJoint_enters _ (exec_jwait x) (Raw.head_ofHandle _ x) (fun _ => rfl) t
  · exact withJoint_enters _ (exec_jtest x) (Raw.head_ofHandle _ x) (fun _ => rfl) t
  · exact withJoint_enters _ (exec_regx x) (Raw.head_ofHandle _ x) (fun _ => rfl) t

end Sys2Proof.Machine
end

section
/-!
PROOFS. CKSUM (R262, R263): its fold and its result, and the direct registers it asks for (R169).
-/
namespace Sys2Proof.Machine
open Sys2Proof Safety Claims

/-! ### Direct registers at decode (R168, R169) -/

/-- A field that takes a direct register alone fails unless it holds one of a number its alignment divides. -/
theorem FieldUse.bad_direct_iff {u : FieldUse} (direct : u.cls = .direct) (ownImm : Bool) (g : Gang) :
    u.bad ownImm g = true ↔ ∀ n, u.op = .v n → n.toNat % u.align ≠ 0 := by
  obtain ⟨field, op, cls, count, align, reads⟩ := u
  cases direct
  cases op <;> simp [FieldUse.bad, OpClass.accepts]

/-- Of two fields, D and A, the failing one of the lower number comes first. -/
theorem firstField_pair {d a : FieldUse} (zero : d.field = 0) (one : a.field = 1) (bad : FieldUse → Bool) :
    firstField [d, a] bad = if bad d then some d else if bad a then some a else none := by
  cases badD : bad d <;> cases badA : bad a <;> simp [firstField, zero, one, badD, badA]

/-- OPERAND of the first failing field, of an instruction whose unit is there. -/
theorem decodeTrap_of_field {i : Instr} {g : Gang} {lanes : Lanes} {feat : Word} {f : FieldUse}
    (unit : missingFeature i feat = none) (first : firstField (usesOf i).fields (fun f => f.bad (usesOf i).ownImm g) = some f) :
    decodeTrap i g lanes feat = some (operandTrap f lanes) := by
  simp only [decodeTrap, unit, first]

/-! ### A value that is the same in every lane (R135) -/

@[simp] theorem press_const (v : Word) : press (LaneVec.of fun _ => v) = .u v := by
  have same : ∀ l ∈ laneIds, LaneVec.lane (LaneVec.of fun _ => v) l = v := fun l inside =>
    LaneVec.lane_of _ (List.mem_range.1 inside)
  have first : LaneVec.lane (LaneVec.of fun _ => v) 0 = v := LaneVec.lane_of _ (by decide)
  have uniform : laneIds.all (fun l => LaneVec.lane (LaneVec.of fun _ => v) l == LaneVec.lane (LaneVec.of fun _ => v) 0) = true :=
    List.all_eq_true.2 fun l inside => by rw [same l inside, first, beq_self_eq_true]
  rw [press, if_pos uniform, first]

/-- Every write of a destination by the same value in every lane is uniform, direct or indexed. -/
theorem press_destWrites_const (c : Ictx) (d : Operand) (count : Nat) (mask : Lanes) (v : Nat) :
    ∀ w ∈ destWrites c d count mask fun _ => v, ∃ u, press w.vals = .u u := by
  intro w written
  cases d with
  | v n =>
    obtain ⟨j, -, rfl⟩ := List.mem_map.1 written
    exact ⟨_, press_const _⟩
  | indexed sel base =>
    obtain ⟨t, -, half⟩ := List.mem_flatMap.1 written
    obtain ⟨j, -, rfl⟩ := List.mem_map.1 half
    exact ⟨_, press_const _⟩
  | _ => cases written

/-! ### The fold (R262) -/

theorem toNat_fold64 (c : DWord) (x : Word) : (fold64 c x).toNat = (c.toNat ^^^ x.toNat) * 0x100000001B3 % 2 ^ 64 := by
  have widened : (x.setWidth 64).toNat = x.toNat := BitVec.toNat_setWidth_of_le (by decide)
  rw [fold64, BitVec.toNat_mul, BitVec.toNat_xor, widened, BitVec.toNat_ofNat]

/-! ### What CKSUM does (R263) -/

/-- A 32-bit source is the word it reads as. -/
theorem ofNat_val_word (src : Src) (o : Operand) (l : Nat) : BitVec.ofNat 32 (src.val o false l) = src.word o l := by
  simp [Src.val]

/-- The seed takes in the write mask, then A's lanes in ascending order. -/
theorem cksumValue_eq (x : Args) (c : Ictx) : cksumValue x c =
    (c.mask :: (Lanes.toList c.mask).map fun l => BitVec.ofNat 32 (val 0#32 false x.a c l)).foldl fold64
      (if x.sel = 0#4 then BitVec.ofNat 64 (val 0#32 true x.d c c.lead) else checkSeed) := by
  simp only [cksumValue, val, ofNat_val_word, List.foldl_cons, List.foldl_map]

theorem exec_cksum (x : Args) (s : State) :
    exec (.cksum x) s = issue (.cksum x) (instrHead (.cksum x)) 0#32 (cksumBody x) s := by
  rw [show instrHead (.cksum x) = x.head from Raw.head_ofArgs _ x]; rfl

/-- An instruction whose meaning writes registers a fixed time after sampling, and plans nothing else. -/
theorem fixed_does {i : Instr} {imm : Word} {body : Ictx → Body} (run : ∀ s, exec i s = issue i (instrHead i) imm body s)
    {regs : Ictx → List RegWrite} {lat : Nat} (plan : ∀ c, body c = .go { c.plan with regs := regs c, timing := .fixed lat }) :
    Does i imm (fun c => fits c (regs c) false) fun c => .fixed c lat (regs c) [] fNone :=
  does run fun s p g _ room =>
    let c := ctx i s p g
    ⟨_, plan c, Plan.Plain.gives (pl := { c.plan with regs := regs c, timing := .fixed lat }) (by constructor <;> rfl),
      Bool.and_false _, fun parks => absurd parks Bool.false_ne_true, room⟩

theorem cksum_results : ChecksumResults := by
  intro x seed sum regs
  have same : ∀ c, sum c = cksumValue x c := fun c => (cksumValue_eq x c).symm
  refine ⟨fixed_does (exec_cksum x) fun c => ?_, fun c => press_destWrites_const c x.d 2 c.mask _⟩
  simp only [regs, same]
  rfl

/-! ### The operands of CKSUM (R169, R263) -/

/-- Field D of CKSUM: an even pair, which it reads as its seed with SEL 0. -/
def cksumPair (x : Args) : FieldUse := ⟨0, x.d, .direct, 2, 2, decide (x.sel = 0#4)⟩
/-- Field A of CKSUM: a register. -/
def cksumSource (x : Args) : FieldUse := fieldUse 1 x.a .direct false true

theorem usesOf_cksum_fields (x : Args) : (usesOf (.cksum x)).fields = [cksumPair x, cksumSource x] := rfl

theorem cksumPair_bad_iff (x : Args) (ownImm : Bool) (g : Gang) :
    (cksumPair x).bad ownImm g = true ↔ ∀ n, x.d = .v n → n.toNat % 2 ≠ 0 :=
  FieldUse.bad_direct_iff rfl ownImm g

theorem cksumSource_bad_iff (x : Args) (ownImm : Bool) (g : Gang) : (cksumSource x).bad ownImm g = true ↔ ∀ n, x.a ≠ .v n :=
  (FieldUse.bad_direct_iff rfl ownImm g).trans
    (forall_congr' fun n => imp_congr_right fun _ => iff_of_false (fun odd => odd (Nat.mod_one n.toNat)) id)

/-- OPC is the low ten bits of a word (R147). -/
theorem Raw.extractLsb'_word_opc (r : Raw) : r.word.extractLsb' 0 10 = r.opc := congrArg Raw.opc r.ofWord_word

theorem cksum_word (x : Args) : ∃ w, encode (.cksum x) = some w ∧ w.extractLsb' 0 10 = 0x217#10 :=
  ⟨_, rfl, Raw.extractLsb'_word_opc _⟩

theorem firstReason_eq_none_iff (ty mod imm hold : Bool) :
    firstReason ty mod imm hold = none ↔ ty = true ∧ mod = true ∧ imm = true ∧ hold = true := by
  revert ty mod imm hold; decide

theorem cksum_wellFormed {x : Args} (wellFormed : (Instr.cksum x).wellFormed = true) :
    x.ty = .untyped ∧ (x.sel = 0#4 ∨ x.sel = 1#4) := by
  simp only [Instr.wellFormed, Bool.and_eq_true, Option.isNone_iff_eq_none] at wellFormed
  have legal : argsCheck x [.untyped] false [0, 1] 0 true false = none := wellFormed.1
  obtain ⟨ty, mod, -, -⟩ := (firstReason_eq_none_iff _ _ _ _).1 legal
  simp only [Bool.and_eq_true, List.contains_iff_mem, List.mem_cons, List.not_mem_nil, or_false] at ty mod
  obtain ⟨⟨-, sel⟩, -⟩ := mod
  exact ⟨ty, sel.imp BitVec.eq_of_toNat_eq BitVec.eq_of_toNat_eq⟩

theorem cksum_operand_d (x : Args) (g : Gang) (lanes : Lanes) (feat : Word) (bad : ∀ n, x.d = .v n → n.toNat % 2 ≠ 0) :
    decodeTrap (.cksum x) g lanes feat = some ⟨.operand, BitVec.ofNat 64 x.d.code.toNat, lanes⟩ := by
  have first : firstField (usesOf (.cksum x)).fields (fun f => f.bad (usesOf (.cksum x)).ownImm g) = some (cksumPair x) := by
    rw [usesOf_cksum_fields, firstField_pair rfl rfl, if_pos ((cksumPair_bad_iff x _ g).2 bad)]
  rw [decodeTrap_of_field rfl first, operandTrap, cksumPair, Nat.zero_mul, Nat.zero_add]

theorem cksum_operand_a (x : Args) (n : BitVec 8) (g : Gang) (lanes : Lanes) (feat : Word) (pair : x.d = .v n)
    (even : n.toNat % 2 = 0) (bad : ∀ m, x.a ≠ .v m) :
    decodeTrap (.cksum x) g lanes feat = some ⟨.operand, BitVec.ofNat 64 (2 ^ 16 + x.a.code.toNat), lanes⟩ := by
  have passes : ¬ (cksumPair x).bad (usesOf (.cksum x)).ownImm g = true := fun fails =>
    (cksumPair_bad_iff x _ g).1 fails n pair even
  have first : firstField (usesOf (.cksum x)).fields (fun f => f.bad (usesOf (.cksum x)).ownImm g) = some (cksumSource x) := by
    rw [usesOf_cksum_fields, firstField_pair rfl rfl, if_neg passes, if_pos ((cksumSource_bad_iff x _ g).2 bad)]
  rw [decodeTrap_of_field rfl first, operandTrap, cksumSource, fieldUse, Nat.one_mul]

theorem cksum_reads_d (x : Args) (own : x.sel = 0#4) :
    ∃ f ∈ (usesOf (.cksum x)).fields, f.op = x.d ∧ f.count = 2 ∧ f.reads = true :=
  ⟨_, List.mem_cons_self .., rfl, rfl, decide_eq_true own⟩

/-- Settles O27: the fold on numbers; CKSUM's plan is its fold of mask and lanes, whose writes are uniform; its word and fields. -/
theorem checksumInstruction : Obligations.ChecksumInstruction :=
  ⟨toNat_fold64, cksum_results, cksum_word, fun _ => cksum_wellFormed, cksum_operand_d, cksum_operand_a, cksum_reads_d⟩

end Sys2Proof.Machine
end
